-- ==== Sys2Proof/Word.lean ====
section
/-!
DEFINITION. The bit-vector types of the manual's fields, and the sparse map in which large memories and tables are held.
-/
namespace Sys2Proof

/-- An 8-bit field of a message or memory. -/
abbrev Byte := BitVec 8
/-- A 16-bit field. -/
abbrev Half := BitVec 16
/-- A 32-bit register or FP32 bit pattern. -/
abbrev Word := BitVec 32
/-- A 64-bit register, instruction word or descriptor. -/
abbrev DWord := BitVec 64

/-- A sparse table: entries by key, keys strictly rising, and no entry equal to the default that an unlisted key
reads as. The operations that keep this form are in Machine/Ops.lean. -/
abbrev SMap (α : Type) := List (Nat × α)

end Sys2Proof
end

