-- ==== Sys2Proof/Syntax.lean ====
section
/-!
DEFINITION. The commands: one constructor per row of the table of operations and events, with the operands that the
manual gives it. A message operand is the bytes the message carries; a fault operand is what a check of the hardware
finds while the command runs.
-/
namespace Sys2Proof

/-- A request ID, 12 bits (R234). -/
abbrev ReqId := BitVec 12
/-- A logical atoll (R19). -/
abbrev Atoll := Fin 16
/-- A mailbox index (R317). -/
abbrev Mbx := Fin 16
/-- A physical fabric port (R17, R467). -/
abbrev Port := Fin 9

/-- A memory in which a read finds a bad word (R381, R387). -/
inductive MemSite where
  | scratchpad (lane : Nat)
  /-- a wide buffer, piece spill, rescore or lane region: the global lane whose data the word is -/
  | lagoonData (lane : Nat)
  | countPage (lagoon page : Nat)
  | dirEntry (lagoon entry : Nat)
  | maskPage (lagoon page : Nat)
  | deltaList (lagoon set : Nat)
  | adapterSlot (slot : Nat)
  | trieStore (extent block : Nat)
  | candStore (req : Nat)
  | reqEntry (req : Nat)
  | tenantEntry (tenant : Nat)
  | replayBuffer (seq : Nat)
  | eventLog
  /-- the word that the next log write goes to, found bad when the write is read back (R417) -/
  | logWrite
  | staging (m : Nat)
  | atollImem (at_ word : Nat)
  /-- the running slot's bank, with the image that the boot ROM reads for it from the boot store -/
  | fwBank (image : List Byte)
  | fwData
  | mergeBuffer (req : Nat)
  | mirrorBuffer (req : Nat)
  deriving DecidableEq, Repr, Inhabited

/-- A bad word that a read in the foreground meets (R381): where it is, whether it is uncorrectable, and the (wave, row slot) pairs whose
rows read it. -/
structure ReadFind where
  site : MemSite
  addr : Nat
  bad : Bool
  readers : List (Nat × Nat)
  deriving DecidableEq, Repr, Inhabited

/-- What a strait transfer is found with (R380, R394): bad parity, at the global lane that sent it, or copies of the strait's logic that
differ (none); and the (wave, row slot) pairs whose rows it carries. -/
structure StraitFind where
  lane : Option Nat
  rows : List (Nat × Nat)
  deriving DecidableEq, Repr, Inhabited

/-- The fields of a lane word beside its opcode (R290); the bad words that it meets when it is fetched and as it reads (R381); and what the
strait transfers that it makes are found with, for a split FINAL, a peer's pages or lagoon, or a rescore partial (R380). -/
structure LaneF where
  d : Byte
  a : Byte
  b : Byte
  mod : Word
  ecc : List ReadFind := []
  strait : List StraitFind := []
  deriving DecidableEq, Repr, Inhabited

/-- A tile word, and the bad words that its fetch meets (R381). -/
structure TileWord where
  word : DWord
  ecc : List ReadFind := []
  deriving DecidableEq, Repr, Inhabited

/-- One wave of the plan's schedule: the phase it runs in and its wave shape (R278, R287). -/
structure WaveSlot where
  phase : Nat
  shape : Nat
  deriving DecidableEq, Repr, Inhabited

/-- The 64 bytes of the plan descriptor as firmware has written them (R316). -/
structure PlanDesc where
  bytes : List Byte
  deriving DecidableEq, Repr, Inhabited

/-- The weights of one tile as the stream buffers release them: per logical lane the element codes in ascending k,
per lane the E8M0 codes of its 32-k blocks, and per lane the FP32 column scale (R79, R87). -/
structure TileData where
  codes : List (List Half)
  scales : List (List Byte)
  colScale : List Word
  deriving DecidableEq, Repr, Inhabited

/-- A sum that the array reads wrong (R88): the tile, counted from the command's first; the row slot; the logical lane, or none for the
checksum column; the error that is added to the exact sum, an FP32 value, or a signed integer on the integer path; and whether it comes
again when the tile is recomputed. -/
structure TileUpset where
  tile : Nat
  slot : Nat
  lane : Option Nat
  err : Word
  again : Bool
  deriving DecidableEq, Repr, Inhabited

/-- What the checks of an atoll find, beside the checksum compare, while a tile or an epilogue read runs (R96, R380). -/
inductive ArrayFault where
  /-- an accumulator entry of this lane and row slot reads with bad parity -/
  | parity (lane row : Nat)
  /-- the duplicated adders or dither generators of this lane differ -/
  | adder (lane : Nat)
  deriving DecidableEq, Repr, Inhabited

/-- What the checks of selection find for the row handed over (R176, R380). -/
inductive SelFault where
  | ok
  /-- a histogram count comparison fails -/
  | histCheck
  /-- a strait transfer reads with bad parity: the global lane that sent it -/
  | strait (lane : Nat)
  /-- the copies of a strait adder, boundary scanner, gather merger or CUM unit differ -/
  | straitLogic
  deriving DecidableEq, Repr, Inhabited

/-- What the background jobs of one slot find (R392). Lanes, and the columns that pair with them, are physical: 256 and up are the
spares. -/
inductive Finding where
  /-- a scrub pass corrects a word -/
  | corrected (site : MemSite) (addr pass : Nat)
  | uncorrectable (site : MemSite) (addr : Nat)
  | laneFails (phys lane : Nat)
  | engineFails (phys : Nat)
  /-- the converter whose turn it is fails -/
  | converterFails
  /-- the column diagnostic of the atoll whose turn it is: a data column fails -/
  | columnFails (column : Nat)
  /-- the checksum column fails there -/
  | cksumFails
  /-- that diagnostic finds the array at fault where no column repair covers it -/
  | arrayFails
  deriving DecidableEq, Repr, Inhabited

/-- A permanent fault that boot BIST finds (R400). -/
inductive BistFault where
  | row (site : MemSite) (addr : Nat)
  | lane (phys lane : Nat)
  | cksum (phys : Nat)
  | atoll (phys : Nat)
  | port (port : Nat)
  deriving DecidableEq, Repr, Inhabited

/-- How the training of the crossings ends (R65), and what BIST, which then starts, will find in the silicon (R400). -/
structure Training where
  trained : Bool
  bist : List BistFault
  deriving DecidableEq, Repr, Inhabited

/-- Parts of the meter SRAM beside the counters (R353): audit entries by number, SUSPECT bits by tenant, statement buffers by slot,
bytes of the running image and of firmware data. -/
inductive MtrRegion where
  | audit | suspect | statement | firmware | data
  deriving DecidableEq, Repr, Inhabited

/-- What a read of the meter SRAM's two copies finds in one place (R354). -/
inductive MeterUpset where
  | clean
  /-- one copy of a tenant's counters decodes with an error; the other is used and written back -/
  | oneCopy (copyB : Bool) (tenant : BitVec 12)
  /-- the same elsewhere -/
  | oneCopyAt (copyB : Bool) (region : MtrRegion) (index : Nat)
  /-- both copies decode cleanly; one copy of a tenant's three counters holds these values instead -/
  | differ (copyB : Bool) (tenant : BitVec 12) (emitted prompt draft : DWord)
  /-- the same of an audit entry -/
  | differAudit (copyB : Bool) (entry : Byte) (sealNo : Word) (mtime : DWord) (kind result slot : Byte) (hash : List Byte)
  /-- the same of a SUSPECT bit, which is the other way round -/
  | differSuspect (copyB : Bool) (tenant : BitVec 12)
  /-- the same of a statement buffer -/
  | differStatement (copyB : Bool) (slot : Fin 16) (bytes : List Byte)
  /-- the same of a byte of the running image, or of firmware data -/
  | differByte (copyB : Bool) (firmware : Bool) (addr : Half) (value : Byte)
  deriving DecidableEq, Repr, Inhabited

/-- What the checks find while the planner runs: its copies differ (R380), and the bad words that its reads of the tables meet (R381).
`atC`: the bad words that the reads of the step's commit point will meet, which that command finds (R381). -/
structure PlannerFinds where
  mismatch : Bool
  ecc : List ReadFind
  atC : List ReadFind := []
  deriving DecidableEq, Repr, Inhabited

/-- The phase whose inputs a fence admits, and whether the sequencer's two copies differ there (R380). -/
structure PhaseFence where
  phase : Nat
  mismatch : Bool
  deriving DecidableEq, Repr, Inhabited

/-- How a step's drain ends: the cycles it stalled (R56), whether the emit stage's two copies differ (R380), and the bad words that its
reads meet (R381). -/
structure DrainEnd where
  stall : Nat
  mismatch : Bool
  ecc : List ReadFind := []
  deriving DecidableEq, Repr, Inhabited

/-- What the checks of the array find while a SCORE runs (R88, R96, R380): sums read wrong, faults by tile, and the bad words that its fetch
and its reads meet (R381). -/
structure ScoreFinds where
  upsets : List TileUpset
  faults : List (Nat × ArrayFault)
  ecc : List ReadFind := []
  deriving DecidableEq, Repr, Inhabited

/-- What comes with an APPLY verdict: whether the two controller cores disagree (R380), and the bad words that the command meets when it is
applied (R381). -/
structure VerdictFinds where
  mismatch : Bool
  ecc : List ReadFind := []
  deriving DecidableEq, Repr, Inhabited

/-- The merge data that is late: its KIND and the request of its row (R202). -/
structure MissingData where
  kind : BitVec 3
  req : ReqId
  deriving DecidableEq, Repr, Inhabited

/-- A SIGNATURE as it arrives: its bytes, and the cycles since its planned cycle (R410). -/
structure SigArrival where
  msg : List Byte
  late : Nat
  deriving DecidableEq, Repr, Inhabited

/-- The data of a register write. `imem`: the write goes to instruction memory instead, a physical atoll and its bank (R281). -/
structure WriteData where
  val : Word
  imem : Option (Fin 17 × Bool) := none
  deriving DecidableEq, Repr, Inhabited

/-- The data of an access, and the bad words that its read meets (R381). -/
structure AccessData where
  val : DWord
  ecc : List ReadFind := []
  deriving DecidableEq, Repr, Inhabited

/-- Where a privileged 4-byte read goes, and the bad words that it meets (R381). -/
structure ReadAt where
  off : BitVec 24
  ecc : List ReadFind := []
  deriving DecidableEq, Repr, Inhabited

/-- The path of an access to the unit window: host user, host supervisor (R457), or the harbour controller, to which the meter and debug
windows are reserved space (R314, R444); and the controller's other ranges, with the offset within them (R313): its data memory, the plan
descriptor, the bank it runs from, its command port. -/
inductive AccessPath where
  | user | supervisor | controller
  | coreData | descriptor | coreBank | commandPort
  deriving DecidableEq, Repr, Inhabited

/-- The commands of the unit. -/
inductive Instr where
  /-- STEP_TICK (R40): A valid pulse on the STEP_TICK pair ends, and its trailing edge becomes a tick that starts a step if the unit is READY, RUN is 1 and no step is in progress. -/
  | stepTick (width : Nat) (low : Bool)
  /-- HOLDOVER_TICK (R46): The holdover timer expires with no valid pulse, and the unit generates a tick locally. -/
  | holdoverTick
  /-- FW_LATE (R328): At T+1,023 firmware has not delivered every due verdict, so the window's commands, refills and TTL decrements are skipped. -/
  | fwLate (missing : Nat)
  /-- FW_RESTART (R328): After 16 consecutive FW_LATE steps the controller restarts from the active slot. -/
  | fwRestart
  /-- REFILL (R249): A tenant's NEXT count reaches 0 at T+1,024, BALANCE is refilled up to CEILING, and NEXT reloads. -/
  | refill
  /-- EXPIRY (R260): A PARKED request whose TTL is 0 after the window's commands expires, and END EXPIRED follows at the commit point. -/
  | expiry (req : ReqId)
  /-- PLANNER_RUN (R244): At T+1,536 the planner reads the tables and builds the step's row table, holding, preempting or placing each candidate request. -/
  | plannerRun (desc : Option PlanDesc) (waves : List WaveSlot) (finds : PlannerFinds)
  /-- BACKGROUND_SLOT (R392): At T+2,048 the background jobs run: scrub, self-tests, column diagnostic, converter test and repair copies. -/
  | backgroundSlot (found : List Finding)
  /-- INPUT_FENCE (R54): At F(p) the phase admits arrived rows, and rows not arrived are dropped DEFERRED. -/
  | inputFence (fence : PhaseFence)
  /-- MASK_FENCE (R152): At M(p) a row whose grammar mask is not resident is dropped. -/
  | maskFence (phase : Nat)
  /-- LATE_ARRIVAL (R55): Weight or merge data misses its release cycle, the consumer stalls until it arrives, and the event is logged. -/
  | lateArrival (src : Fin 17) (stall : Nat) (item : Word)
  /-- STEP_ABANDON (R411): A stall reaches PERIOD_US × 1,050 UCLK, and the step is abandoned and commits with no rows. -/
  | stepAbandon
  /-- COMMIT_POINT (R253): At C the emit stage decides end causes, frees pages, applies count increments and writes outputs for every request of the step. The bad words that its reads meet have come with PLANNER_RUN (R381). -/
  | commitPoint
  /-- FAULT_ESCALATE (R384): A request fault-dropped in 8 consecutive steps becomes HELD ROW_FAULT. -/
  | faultEscalate (req : ReqId)
  /-- STEP_END (R56): The emit drain finishes, PROD advances, meter beats are posted, and the step ends at E. -/
  | stepEnd (drain : DrainEnd)
  /-- MIRROR_ACK (R268): The buddy's acknowledgement of a mirror record returns, and the drain may continue. -/
  | mirrorAck (req : ReqId) (pos : Word) (late : Nat)
  /-- MIRROR_LOST (R404): A mirror acknowledgement is still absent 50 µs after its planned cycle, and the mirror is marked LOST. -/
  | mirrorLost (req : ReqId)
  /-- SCORE (R288): The tile command issues the tiles of one column group over a k-chunk range against a wave shape. `upsets`: the sums
  that are read wrong (R88); `faults`: what other checks find, with the tile at which they do (R96, R380). -/
  | score (at_ : Atoll) (wave : Nat) (word : DWord) (tiles : List TileData) (finds : ScoreFinds)
  /-- TILE_WAITF (R288): The tile stream waits until P0 + F(phase). -/
  | tileWaitf (at_ : Atoll) (word : TileWord)
  /-- TILE_NOP (R287): The tile command does nothing. -/
  | tileNop (at_ : Atoll) (word : TileWord)
  /-- END (R285): The tile stream of the phase ends. -/
  | tileEnd (at_ : Atoll) (word : TileWord)
  /-- TCMD_BAD (R303): A tile command with an undefined TOP is skipped in 1 UCLK. -/
  | tcmdBad (at_ : Atoll) (word : TileWord)
  /-- INSN_UNDEF (R302): A lane word with an undefined opcode is skipped in every lane. -/
  | insnUndef (at_ : Atoll) (op : Byte) (f : LaneF)
  /-- LANE_NOP (R297): The lane instruction NOP does nothing. -/
  | laneNop (at_ : Atoll) (f : LaneF)
  /-- HALT (R297): The lane stream of the phase ends. -/
  | halt (at_ : Atoll) (f : LaneF)
  /-- LOOP (R301): The next LEN words run CNTM1 + 1 times. -/
  | loop (at_ : Atoll) (f : LaneF)
  /-- WAITC (R297): The lane stream resumes after the array's next castling point. -/
  | waitc (at_ : Atoll) (f : LaneF)
  /-- WAITF (R297): The lane stream waits until P0 + F(phase). -/
  | waitf (at_ : Atoll) (f : LaneF)
  /-- WAITM (R297): The lane stream waits until P0 + M(phase). -/
  | waitm (at_ : Atoll) (f : LaneF)
  /-- SLI (R297): A scalar register is loaded with a 32-bit immediate. -/
  | sli (at_ : Atoll) (f : LaneF)
  /-- SMOV (R297): A scalar register is copied. -/
  | smov (at_ : Atoll) (f : LaneF)
  /-- SADD (R297): Wrapping 32-bit scalar add. -/
  | sadd (at_ : Atoll) (f : LaneF)
  /-- SSUB (R297): Wrapping 32-bit scalar subtract. -/
  | ssub (at_ : Atoll) (f : LaneF)
  /-- SMUL (R297): 32-bit scalar multiply that keeps the low word. -/
  | smul (at_ : Atoll) (f : LaneF)
  /-- SAND (R297): Scalar bitwise AND. -/
  | sand (at_ : Atoll) (f : LaneF)
  /-- SOR (R297): Scalar bitwise OR. -/
  | sor (at_ : Atoll) (f : LaneF)
  /-- SXOR (R297): Scalar bitwise XOR. -/
  | sxor (at_ : Atoll) (f : LaneF)
  /-- SSHL (R297): Scalar shift left by B[4:0]. -/
  | sshl (at_ : Atoll) (f : LaneF)
  /-- SSHR (R297): Scalar logical shift right by B[4:0]. -/
  | sshr (at_ : Atoll) (f : LaneF)
  /-- SFADD (R297): FP32 scalar add. -/
  | sfadd (at_ : Atoll) (f : LaneF)
  /-- SFMUL (R297): FP32 scalar multiply. -/
  | sfmul (at_ : Atoll) (f : LaneF)
  /-- SFDIV (R297): FP32 scalar divide. -/
  | sfdiv (at_ : Atoll) (f : LaneF)
  /-- SLD (R297): A scalar register is loaded from one element of a descriptor. -/
  | sld (at_ : Atoll) (f : LaneF)
  /-- SST (R297): A scalar register is stored to one element of a descriptor. -/
  | sst (at_ : Atoll) (f : LaneF)
  /-- DLD (R297): A descriptor is loaded from the active bank's descriptor table. -/
  | dld (at_ : Atoll) (f : LaneF)
  /-- DADD (R297): A scalar is added to a descriptor's BASE. -/
  | dadd (at_ : Atoll) (f : LaneF)
  /-- PCMP (R298): A predicate is set from a compare of two scalars. -/
  | pcmp (at_ : Atoll) (f : LaneF)
  /-- PROW (R297): A predicate is set when a row slot holds a planned, undropped row. -/
  | prow (at_ : Atoll) (wave : Nat) (f : LaneF)
  /-- PLOG (R297): A predicate is set from a logic operation on two predicates. -/
  | plog (at_ : Atoll) (f : LaneF)
  /-- VMOV (R298): A vector operand is moved with conversion to the destination type. -/
  | vmov (at_ : Atoll) (f : LaneF)
  /-- VADD (R297): Elementwise FP32 add. -/
  | vadd (at_ : Atoll) (f : LaneF)
  /-- VSUB (R297): Elementwise FP32 subtract. -/
  | vsub (at_ : Atoll) (f : LaneF)
  /-- VMUL (R297): Elementwise FP32 multiply. -/
  | vmul (at_ : Atoll) (f : LaneF)
  /-- VFMA (R297): Elementwise fused multiply-add into the destination. -/
  | vfma (at_ : Atoll) (f : LaneF)
  /-- VMAX (R297): Elementwise maximum. -/
  | vmax (at_ : Atoll) (f : LaneF)
  /-- VMIN (R297): Elementwise minimum. -/
  | vmin (at_ : Atoll) (f : LaneF)
  /-- VDIV (R297): Elementwise correctly rounded division. -/
  | vdiv (at_ : Atoll) (f : LaneF)
  /-- VEXP (R297): Elementwise exp of R104. -/
  | vexp (at_ : Atoll) (f : LaneF)
  /-- VLOG (R297): Elementwise natural logarithm. -/
  | vlog (at_ : Atoll) (f : LaneF)
  /-- VCMP (R298): Elementwise compare into a U8 result. -/
  | vcmp (at_ : Atoll) (f : LaneF)
  /-- VSEL (R297): Elementwise select under a mask descriptor. -/
  | vsel (at_ : Atoll) (f : LaneF)
  /-- VFILL (R297): Every element is filled from a scalar. -/
  | vfill (at_ : Atoll) (f : LaneF)
  /-- VBIT (R297): Elementwise bitwise logic on integer elements. -/
  | vbit (at_ : Atoll) (f : LaneF)
  /-- FINAL (R91): The logits of a column group are finalised from the shadow accumulator set, which is marked drained. -/
  | final (at_ : Atoll) (wave : Nat) (f : LaneF) (faults : List ArrayFault)
  /-- NORM (R104): The running maximum and exp-sum pair of each row slot is updated. -/
  | norm (at_ : Atoll) (wave : Nat) (f : LaneF)
  /-- CHK (R121): Row fault flags are ORed with the per-column fault test. -/
  | chk (at_ : Atoll) (wave : Nat) (f : LaneF)
  /-- ROWDONE (R123): A row slot is handed to selection, which decides its outcome and runs the radix passes and the gather. -/
  | rowdone (at_ : Atoll) (wave : Nat) (f : LaneF) (check : SelFault)
  /-- CNTLD (R137): The counts of this lane's column are loaded for every row slot. -/
  | cntld (at_ : Atoll) (wave : Nat) (f : LaneF)
  /-- MSKLD (R145): Mask bits of this lane's column are loaded for every row slot. -/
  | mskld (at_ : Atoll) (wave : Nat) (f : LaneF)
  /-- BIASLD (R128): The sparse bias of this lane's column is loaded for every row slot. -/
  | biasld (at_ : Atoll) (wave : Nat) (f : LaneF)
  /-- PRMLD (R297): A clamped parameter field is loaded for every row slot. -/
  | prmld (at_ : Atoll) (wave : Nat) (f : LaneF)
  /-- DELLD (R133): A chunk of delta triplet slots of a group is loaded for a row slot. -/
  | delld (at_ : Atoll) (wave : Nat) (f : LaneF)
  /-- RSCK (R109): The lane's rescore partial for a candidate is sent into the strait tree. -/
  | rsck (at_ : Atoll) (wave : Nat) (f : LaneF) (weights : List Half)
  /-- DRAW (R186): The lane computes its copy of a row's draw, and the two copies are compared. `upset`: the bits of thr in error,
  [15:0] in the lane's first computation and [31:16] in its second. -/
  | draw (at_ : Atoll) (wave : Nat) (f : LaneF) (upset : Word)
  /-- RESOLVE (R219): The lane computes its copy of a gambit request's resolution. `upset`: whether the lane's first computation
  (bit 0) and its second (bit 1) are in error. -/
  | resolve (at_ : Atoll) (wave : Nat) (f : LaneF) (upset : BitVec 2)
  /-- ROW (R465): A hidden-state or score-in ROW message arrives on a fabric port and is converted into the stream buffers. -/
  | row (port : Port) (msg : List Byte)
  /-- GRAMMAR_MASK (R149): A grammar mask message arrives, its pages are allocated and it becomes resident. -/
  | grammarMask (port : Port) (msg : List Byte)
  /-- DATA (R459): A DATA flit arrives on a fabric port and is checked, acknowledged and buffered. -/
  | data (port : Port) (flit : List Byte)
  /-- CREDIT (R460): A CREDIT flit updates a class's running credit total. -/
  | credit (port : Port) (cls : BitVec 3) (total : BitVec 12)
  /-- LINK_ACK (R461): An ACK flit releases acknowledged flits from the replay buffer. -/
  | linkAck (port : Port) (seq : BitVec 12)
  /-- NAK (R461): A NAK flit makes the sender replay from the oldest unacknowledged flit. -/
  | nak (port : Port) (seq : BitVec 12)
  /-- LINK_RETRY (R461): 1,024 FCLK pass without acknowledgement progress, and the sender replays. -/
  | linkRetry (port : Port)
  /-- CREDIT_TIMEOUT (R462): A class with waiting flits holds no credit for 10 µs, and the port is stuck. -/
  | creditTimeout (port : Port)
  /-- MCH_CREDIT (R468): A merge-channel sub-stream with waiting data has no credit for 50 µs. -/
  | mchCredit (sub : Bool)
  /-- MERGE_NORM (R198): A NORM merge message carrying a shard's or the combined (m, s) pair arrives. -/
  | mergeNorm (msg : List Byte)
  /-- PASS1 (R198): A pass-1 histogram merge message arrives. -/
  | pass1 (msg : List Byte)
  /-- PASS2 (R198): A pass-2 histogram merge message arrives. -/
  | pass2 (msg : List Byte)
  /-- PASS3 (R198): A pass-3 histogram merge message arrives. -/
  | pass3 (msg : List Byte)
  /-- DECISION (R198): The root's DECISION message carrying a pass boundary arrives at a member. -/
  | decision (msg : List Byte)
  /-- LIST (R198): A member's candidate LIST message arrives and is merged. -/
  | list (msg : List Byte)
  /-- NOTICE (R203): The owner's NOTICE of a committed token or DROP arrives at a non-owner member. -/
  | notice (msg : List Byte)
  /-- MERGE_TIMEOUT (R202): Merge data is 50 µs late, and the member's unfinished merge rows are DEFERRED. -/
  | mergeTimeout (peer : BitVec 6) (missing : MissingData)
  /-- RECORD (R405): A mirror RECORD arrives at a shadow and is stored, acknowledged and applied at the next commit point. -/
  | record (peer : BitVec 13) (msg : List Byte)
  /-- BIND (R403): A BIND message arrives at a shadow, which compares it and answers ACCEPT or REFUSE. -/
  | bind (peer : BitVec 13) (msg : List Byte)
  /-- ACCEPT (R403): An ACCEPT arrives, and the primary becomes BOUND and sets MIRROR. -/
  | accept (peer : BitVec 13) (msg : List Byte)
  /-- REFUSE (R403): A REFUSE arrives, and the primary becomes REFUSED. -/
  | refuse (peer : BitVec 13) (msg : List Byte)
  /-- BIND_NO_ANSWER (R403): A BIND has no answer after 16 ticks, and the binding is REFUSED with reason [5]. -/
  | bindNoAnswer (req : ReqId)
  /-- HEARTBEAT (R406): A HEARTBEAT arrives and sets LASTSEEN in the peer's shadow entries. -/
  | heartbeat (peer : BitVec 13) (msg : List Byte)
  /-- SIGNATURE (R410): A lock-step SIGNATURE arrives and is compared with the local step signature. -/
  | signature (peer : BitVec 13) (arrival : SigArrival)
  /-- SIGNATURE_TIMEOUT (R410): No signature arrives 52,500 UCLK after its planned cycle, and it is handled as a divergence. -/
  | signatureTimeout
  /-- RING (R324): A doorbell RING posts the mailbox message, which is checked and accepted or ends in ERROR. -/
  | ring (m : Mbx)
  /-- ACK (R319): A doorbell ACK in DONE or ERROR returns the mailbox to IDLE. -/
  | ack (m : Mbx)
  /-- VERDICT_APPLY (R315): Firmware writes an APPLY verdict, and the command passes to the table hardware. -/
  | verdictApply (m : Mbx) (finds : VerdictFinds)
  /-- VERDICT_REFUSE (R315): Firmware writes a REFUSE verdict with a status code. -/
  | verdictRefuse (m : Mbx) (status : Half)
  /-- NOP (R329): The mailbox command NOP does nothing. -/
  | mbxNop (m : Mbx)
  /-- GET_VERSION (R3): Returns the firmware interface version and UNIT_ID. -/
  | getVersion (m : Mbx)
  /-- GET_CAPS (R329): Returns UNIT_CAPS and the limit registers. -/
  | getCaps (m : Mbx)
  /-- OPEN (R242): Opens a request with its entry, ring descriptor and parameter block. -/
  | openReq (m : Mbx)
  /-- SET_PARAMS (R329): Changes the masked fields of a request, optionally with START. -/
  | setParams (m : Mbx)
  /-- CLOSE (R255): Ends a request after its step's tokens commit. -/
  | closeReq (m : Mbx)
  /-- CANCEL (R256): Sets CANCEL so that the step's outputs are dropped and END CANCELLED is written. -/
  | cancel (m : Mbx)
  /-- PARK (R258): Starts copying a request out to its parking slot. -/
  | park (m : Mbx)
  /-- PARK_COMMIT (R258): After the copy completes, the request becomes PARKED at a tick. -/
  | parkCommit (m : Mbx)
  /-- RESUME (R259): Allocates pages and starts copying a parked request back. -/
  | resume (m : Mbx)
  /-- RESUME_COMMIT (R259): After the copy completes, the request returns to its former state at a tick. -/
  | resumeCommit (m : Mbx)
  /-- ADOPT (R407): Checks a shadow and starts continuing it as the request. -/
  | adopt (m : Mbx)
  /-- ADOPT_COMMIT (R407): At the next tick the shadow applies its records and becomes ACTIVE from M + 1. -/
  | adoptCommit (m : Mbx)
  /-- LOAD_COUNTS (R141): Reads a count list and allocates pages for it. -/
  | loadCounts (m : Mbx)
  /-- LOAD_COUNTS_COMMIT (R141): At the tick after the list is read, the counts are written, or POOL_FULL ends the command. -/
  | loadCountsCommit (m : Mbx)
  /-- RESET_COUNTS (R141): Frees the request's count pages and clears COUNT_OVF. -/
  | resetCounts (m : Mbx)
  /-- SET_TENANT (R251): Sets a tenant's state, refill, ceiling, overdraft and period. -/
  | setTenant (m : Mbx)
  /-- SET_BUDGET (R251): Sets or adds to a tenant's balance. -/
  | setBudget (m : Mbx)
  /-- LOAD_ADAPTER (R126): Stages an adapter into a slot. -/
  | loadAdapter (m : Mbx)
  /-- LOAD_ADAPTER_COMMIT (R333): At the next tick the staged adapter replaces the slot contents. -/
  | loadAdapterCommit (m : Mbx)
  /-- LOAD_DELTA (R130): Stages a delta set scattered to the lanes. -/
  | loadDelta (m : Mbx)
  /-- LOAD_DELTA_COMMIT (R333): At the next tick the delta-list halves swap. -/
  | loadDeltaCommit (m : Mbx)
  /-- LOAD_TRIE (R154): Starts copying a trie image into free store space. -/
  | loadTrie (m : Mbx)
  /-- LOAD_TRIE_COMMIT (R158): The verified image takes effect at a tick, and bound cursors reset to the root. -/
  | loadTrieCommit (m : Mbx)
  /-- LOAD_DENYLIST (R141): Copies a tenant deny-list bitmap into new mask pages. -/
  | loadDenylist (m : Mbx)
  /-- LOAD_DENYLIST_COMMIT (R333): At the next tick the new deny list takes effect and the old pages are freed. -/
  | loadDenylistCommit (m : Mbx)
  /-- BIND_MASK (R147): Sets a request's mask slot mode, loading or binding a static mask resource. -/
  | bindMask (m : Mbx)
  /-- BIND_MASK_COMMIT (R147): At the tick after the copy, the static binding or reload takes effect. -/
  | bindMaskCommit (m : Mbx)
  /-- QUERY_ADAPTER (R329): Returns an adapter slot's directory entry. -/
  | queryAdapter (m : Mbx)
  /-- SET_PLAN (R280): Checks a plan image and writes it into the inactive instruction banks. -/
  | setPlan (m : Mbx)
  /-- PLAN_SWITCH (R282): At the first step after all banks are staged, the banks flip and the plan registers take the new values. -/
  | planSwitch
  /-- SET_PART (R229): Sets UNIT_PART.PENDING. -/
  | setPart (m : Mbx)
  /-- SET_TICK (R329): Writes UNIT_TICKCFG as a command. -/
  | setTick (m : Mbx)
  /-- SET_LIMITS (R343): Tightens the limit registers all or nothing. -/
  | setLimits (m : Mbx)
  /-- LOAD_FW (R337): Writes and verifies a policy firmware image in the inactive slot. -/
  | loadFw (m : Mbx)
  /-- LOAD_FW_COMMIT (R337): After verification the slot becomes VALID at a tick. -/
  | loadFwCommit (m : Mbx)
  /-- ACTIVATE_FW (R338): Requests activation of the inactive verified slot. -/
  | activateFw (m : Mbx)
  /-- ACTIVATE_FW_COMMIT (R338): At the next T+0 the active slot flips and the controller restarts at the new image. -/
  | activateFwCommit (m : Mbx)
  /-- FW_REVERT (R339): FW_LATE in the first 4 steps after activation reverts to the previous image. -/
  | fwRevert
  /-- ROUTINE_FAULT (R335): A fault while staging discards a load or routine, which ends with FAULT. -/
  | routineFault (m : Mbx)
  /-- REPAIR_STATUS (R418): Returns repair, mirror or spare state. -/
  | repairStatus (m : Mbx)
  /-- RETIRE_LANE (R418): Stages the retirement of a lane or atoll. -/
  | retireLane (m : Mbx)
  /-- MIRROR_BIND (R403): Binds a request as primary or shadow, or unbinds it. -/
  | mirrorBind (m : Mbx)
  /-- LOCKSTEP (R408): Binds or unbinds a lock-step pair, or returns signature history. -/
  | lockstep (m : Mbx)
  /-- PMC_SELECT (R425): Gives a counter a new event, chain and overflow setting at the next boundary. -/
  | pmcSelect (m : Mbx)
  /-- PMC_FREEZE (R430): Takes a freeze capture and holds the published snapshot. -/
  | pmcFreeze (m : Mbx)
  /-- PMC_THAW (R430): Clears HOLD. -/
  | pmcThaw (m : Mbx)
  /-- HIST_SELECT (R432): Gives a histogram engine a measure at the next capture. -/
  | histSelect (m : Mbx)
  /-- HIST_CLEAR (R434): Clears an engine's bins and SAT at the next capture. -/
  | histClear (m : Mbx)
  /-- REPLAY (R272): Returns copies of up to 15 ring records from the replay buffer. -/
  | replay (m : Mbx)
  /-- DEBUG_UNLOCK (R445): Presents one half of the debug key. -/
  | debugUnlock (m : Mbx)
  /-- HALF_EXPIRY (R445): The second key half is not applied within 4 ticks, and HALF clears. -/
  | halfExpiry
  /-- DEBUG_FREEZE (R446): Requests a freeze at the next tick that would start a step. -/
  | debugFreeze (m : Mbx)
  /-- DEBUG_STEP (R447): Runs the held step until an atoll has issued n more tiles. -/
  | debugStep (m : Mbx)
  /-- DEBUG_HALT (R447): The tile count is reached, or E comes first, and the foreground halts. -/
  | debugHalt (atEnd : Bool)
  /-- DEBUG_RELEASE (R448): Ends the freeze and relocks debug mode unless KEEP is set. -/
  | debugRelease (m : Mbx)
  /-- REPAIR (R396): A staged repair whose copy has completed takes effect at T+0. -/
  | repair
  /-- IMAGE_RESTORE (R388): A failed instruction word is restored from the plan image at a tick. -/
  | imageRestore (imageOk : Bool)
  /-- REGISTER_WRITE (R11): A write to a register without a row of its own acts as its access code gives. `imem`: the write is addressed, by
  whatever path, to a bank of the instruction memory of a physical atoll and not to a register (R281). -/
  | registerWrite (off : BitVec 24) (data : WriteData)
  /-- REFUSED_ACCESS (R456): A reserved, unprivileged or misaligned window access is refused and recorded; one that is none of these is
  served (R453, R455). -/
  | refusedAccess (write : Bool) (off : BitVec 24) (width : Nat) (data : AccessData) (path : AccessPath)
  /-- READ_LO (R61): A read of a _LO word latches the matching _HI word. -/
  | readLo (at_ : ReadAt)
  /-- ENTRY_LATCH_READ (R234): A read of byte 0 of a table entry loads the window's entry latch. -/
  | entryLatchRead (at_ : ReadAt)
  /-- RUN (R45): A write of UNIT_CTRL.RUN starts or stops steps at ticks. -/
  | run (val : Word)
  /-- RESET (R477): UNIT_CTRL.RESET with RSTKEY 0xA5 resets the unit. -/
  | reset (val : Word)
  /-- MERGECFG_WRITE (R207): A write to UNIT_MERGECFG takes effect at the next tick unless INDEX exceeds SIZEM1. -/
  | mergecfgWrite (val : Word)
  /-- PARK_CONFIG_WRITE (R275): A write to the parking registers takes effect at the next tick unless requests are parked. -/
  | parkConfigWrite (off : BitVec 24) (val : Word)
  /-- CONS_WRITE (R263): The host writes a ring's consumer index, which the planner's ring-room test reads. -/
  | consWrite (desc : BitVec 12) (val : Word)
  /-- IRQ_UNMASK (R346): Clearing a mask bit while its source is pending sends the MSI-X message. -/
  | irqUnmask (val : Word)
  /-- LIMIT_WRITE (R343): A controller write to a limit field takes effect at the next tick if equal or tighter. -/
  | limitWrite (off : BitVec 24) (val : Word)
  /-- DBG_ACC (R451): A debug read of an accumulator entry checks parity; `bad`: it finds an error. -/
  | dbgAcc (entry : Fin 128) (bad : Bool)
  /-- DBG_PEEK (R451): A debug read of a lane scratchpad is an ordinary SECDED read; it may find a correctable
  (`some false`) or an uncorrectable (`some true`) word. -/
  | dbgPeek (addr : BitVec 15) (ecc : Option Bool)
  /-- SNAPSHOT_PUBLISH (R429): The collector finishes copying a capture to the inactive bank, and the banks swap. -/
  | snapshotPublish
  /-- PMC_OVERFLOW (R427): A counter wraps to 0, and OVF and PMC_OVF are set. -/
  | pmcOverflow (counter : Fin 208) (by_ : Nat)
  /-- HIST_SAT (R434): A histogram bin reaches its maximum, and the engine's SAT is set. -/
  | histSat (engine : Fin 8) (bin : Fin 32) (by_ : Nat)
  /-- RESET_RELEASE (R347): Unit reset is released, and the boot timeline begins. -/
  | resetRelease
  /-- ALIGNMENT (R64): Clock-domain alignment and crossing training complete. -/
  | alignment (training : Training)
  /-- BOOT_VERIFY (R347): A boot image has been read and verified into its slot. -/
  | bootVerify (imageA imageB : List Byte)
  /-- READY (R347): Firmware initialisation completes, and the unit becomes READY. -/
  | ready
  /-- RAIL_LOSS (R472): A main rail falls below 90% or VDD_STBY is lost, and the unit resets. -/
  | railLoss (standby : Bool)
  /-- POWER_WINDOW (R473): A 1 ms power-monitor window ends, and PAVG is reported. -/
  | powerWindow (milliwatt : Nat) (tj : Byte)
  /-- CLK_HALVED (R67): Emergency clock halving begins for a power or thermal cause. -/
  | clkHalved (thermal power : Bool) (tj : Byte)
  /-- THERM_WARN (R474): The junction temperature crosses 95 °C upward. -/
  | thermWarn (tj : Byte)
  /-- THERMAL_TRIP (R477): The junction temperature reaches 115 °C, THERMTRIP_N drives low and the unit resets. -/
  | thermalTrip (tj : Byte)
  /-- COLD_BOOT (R363): The standby rail powers on, and the meter cold-boots. -/
  | coldBoot
  /-- METER_WATCHDOG (R351): The meter watchdog expires, and the meter warm-resets. -/
  | meterWatchdog
  /-- METER_BOOT (R366): The meter boot completes from a verified slot or in loader-only mode, which is a seal event. -/
  | meterBoot
  /-- BEAT (R358): A meter event beat arrives at the event FIFO or is dropped when the FIFO is full. -/
  | beat (beat : BitVec 128) (parityOk : Bool)
  /-- BEAT_TAKE (R359): Every 4 MCLK the counter engine takes one beat and adds it to the tenant's counters. -/
  | beatTake (upset : MeterUpset)
  /-- SCHEDULED_STATEMENT (R369): Every STMTINT ms a signed statement is written to a window slot. -/
  | scheduledStatement
  /-- METER_SCRUB (R354): The meter scrubs its whole SRAM once per second of meter time. -/
  | meterScrub (upsets : List MeterUpset)
  /-- STATEMENT (R367): The I3C STATEMENT command returns a signed statement with the requester's nonce. -/
  | statement (args : List Byte)
  /-- READREG (R373): The I3C READREG command returns meter window words. -/
  | readreg (args : List Byte)
  /-- CLRALERT (R373): The I3C CLRALERT command clears the masked alert bits. -/
  | clralert (args : List Byte)
  /-- LOADBEGIN (R373): The I3C LOADBEGIN command starts loading a meter image slot. -/
  | loadbegin (args : List Byte)
  /-- LOADDATA (R373): The I3C LOADDATA command writes image data. -/
  | loaddata (args : List Byte)
  /-- LOADEND (R366): The I3C LOADEND command verifies the loaded slot, which is a seal event. -/
  | loadend (args : List Byte)
  /-- ACTIVATE (R366): The I3C ACTIVATE command names a verified slot and causes a warm reset. -/
  | activate (args : List Byte)
  /-- SETCFG (R377): The I3C SETCFG command writes the configuration block, which is a seal event. -/
  | setcfg (args : List Byte)
  /-- PRIVATE_READ (R373): An I3C private read returns the response, or BUSY until it is ready. -/
  | privateRead
  /-- ENTDAA (R373): The ENTDAA CCC assigns a dynamic address. -/
  | entdaa (addr : BitVec 7)
  /-- SETDASA (R373): The SETDASA CCC sets the dynamic address from the static address. -/
  | setdasa (addr : BitVec 7)
  /-- SETNEWDA (R373): The SETNEWDA CCC changes the dynamic address. -/
  | setnewda (addr : BitVec 7)
  /-- RSTDAA (R373): The RSTDAA CCC resets the dynamic address. -/
  | rstdaa
  /-- ENEC (R373): The ENEC CCC enables events. -/
  | enec (mask : Byte)
  /-- DISEC (R373): The DISEC CCC disables events. -/
  | disec (mask : Byte)
  /-- GETPID (R373): The GETPID CCC returns the provisional ID. -/
  | getpid
  /-- GETBCR (R373): The GETBCR CCC returns the bus characteristics register. -/
  | getbcr
  /-- GETDCR (R373): The GETDCR CCC returns the device characteristics register. -/
  | getdcr
  /-- GETSTATUS (R373): The GETSTATUS CCC returns target status. -/
  | getstatus
  /-- GETMRL (R373): The GETMRL CCC returns a maximum read length of 2,048. -/
  | getmrl
  /-- GETMWL (R373): The GETMWL CCC returns a maximum write length of 256. -/
  | getmwl
  /-- STUCK_LOW (R375): MTR_SCL or MTR_SDA is low for 20 ms while undriven, and the target idles. -/
  | stuckLow (sda : Bool)
  /-- LINE_RECOVERY (R375): A stuck line has been high for 1 ms, and the target recovers. -/
  | lineRecovery (sda : Bool)
  /-- OPEN_PROBE (R375): Once per second of bus idle the meter probes each line for an open. -/
  | openProbe (sclOpen sdaOpen : Bool)
  /-- SWAPPED (R375): A START with SCL and SDA reversed addresses the meter, and the transfer is served reversed. -/
  | swapped (inUse : Bool)
  /-- SHORTED (R375): MTR_SCL and MTR_SDA are found shorted, and the drivers are released. -/
  | shorted
  /-- ALERT_STUCK (R375): MTR_ALERT does not follow its driver. -/
  | alertStuck (stuck : Bool)
  /-- INVALID_PULSE (R43): A pulse on the STEP_TICK pair ends that is too short, too long or too soon after the last level change, so it is not a tick; a short pulse sets GLITCH and every such pulse restarts the quiet-time count. -/
  | invalidPulse (width : Nat) (low : Bool)
  /-- LINK_TRAINING (R463): A fabric port link finishes training after FCLK is released, sets FAB_STAT.UP and advertises its pre-READY credits, or fails training and goes down. -/
  | linkTraining (port : Port) (trained : Bool)
  /-- CHANNEL_UNAVAILABLE (R469): The package links report the merge channel unavailable, and UNIT_MCHSTAT.DOWN is set. -/
  | channelUnavailable
  /-- ACK_INTERVAL (R461): 256 FCLK pass since the last acknowledgement with good in-order flits unacknowledged, and the receiver sends an ACK. -/
  | ackInterval (port : Port)
  /-- FW_IMAGE_VERIFIED (R336): The hash-and-signature engine finishes verifying a LOAD_FW image, up to 40 ms after it began, with success or SIG_BAD, and LOADING clears. -/
  | fwImageVerified (m : Mbx)
  /-- UNSUPPORTED_CCC (R373): An I3C CCC that the meter does not support is addressed to it and is not acknowledged. -/
  | unsupportedCcc (code : Byte)
  /-- BADCMD (R373): An I3C private write carries an undefined command code, and the response is status BADCMD. -/
  | badcmd (code : Byte)
  /-- LINES_DIFFER (R375): The shorted MTR_SCL and MTR_SDA lines differ again, and the idle target resumes. -/
  | linesDiffer
  deriving DecidableEq, Repr

end Sys2Proof
end

