-- ==== Sys2Proof/Config.lean ====
section
/-!
DEFINITION. What an implementation fixes and the manual leaves open: fused values, keys and free values. None has a
body, so no proof can see a value of it.
-/
namespace Sys2Proof.Config

/-- UNIT_CAPS.DEBUG inverted: the debug fuse is blown (R444, R458). -/
opaque debugFuseBlown : Bool
/-- The 32-bit debug key of the device's debug fuses (R445). -/
opaque debugKey : Word
/-- UNIT_FWSTAT.KEYSEL: which of the two policy-signing keys is in use (R336). -/
opaque fwKeySel : Bool
/-- How long the PLLs take to lock after reset release, in UCLK periods, before the bound of R64 is applied. -/
opaque pllLock : Nat
/-- When BIST and the boot ROM end after reset release, in UCLK periods, before the bounds of R347 are applied. -/
opaque bistEnd : Nat
opaque romEnd : Nat
/-- UNIT_FWROLL.COUNT as fused (R340). -/
opaque fwRollCount : BitVec 6
/-- UNIT_ATLSPARE as fused (R420). -/
opaque fusedAtlSpare : Word
/-- UNIT_PORTSPARE as fused (R420). -/
opaque fusedPortSpare : Word
/-- UNIT_SRAMRPR as fused (R420). -/
opaque fusedSramRpr : Word
/-- The SRAM macro that holds a word: by memory and address (with the physical atoll, where it has one, from bit 32 up), and the physical row within all macros (R22 and R392 give no more than
that a macro is 64 KiB or smaller). -/
opaque sramMacro : (mem addr : Nat) → Nat
opaque sramRow : (mem addr : Nat) → Nat
/-- How many times 512 rows a macro has: it has 4 spare rows for each (R17). -/
opaque macroRows512 : Nat → Nat
/-- The spare rows of a macro that fused repairs have taken. -/
opaque fusedRows : Nat → Nat
/-- ATL_SPARE registers as fused, by physical atoll and register 0 to 3 (R420). -/
opaque fusedAtlLanes : Nat → Nat → Word
/-- Does the ECDSA P-384 signature (r, s) over the SHA-384 of the header verify with the policy key `key` (R336)? -/
opaque policySigOk : (key : Bool) → (hash r s : List Byte) → Bool
/-- The same for the meter signing key held in the meter boot ROM (R366). -/
opaque meterSigOk : (hash r s : List Byte) → Bool
/-- MTR_DEVID as fused (R370). -/
opaque meterDevId : DWord
/-- The 256-bit HMAC key in meter fuses, as 32 bytes (R351, R367). -/
opaque meterKey : Nat → Byte
/-- The meter's I3C provisional ID, bus and device characteristics and status bytes (R373 names the CCCs only). -/
opaque i3cPid : Nat → Byte
opaque i3cBcr : Byte
opaque i3cDcr : Byte
opaque i3cStatus : Nat → Half
/-- The sign and the payload below the quiet bit of a NaN that an operation produces: IEEE 754 leaves both open (R16). -/
opaque nanSign : BitVec 1
opaque nanPayload : BitVec 22
/-- The logical fabric port that carries a ring's records, and the payload of the flit of a record at an address: R460 gives the class and no
more. -/
opaque ringPort : (desc : Nat) → Fin 8
opaque ringPayload : (addr : Nat) → (record : List Byte) → List Byte
/-- The package of a member of the merge group of a tag: R468 has the endpoint name it and no register holds it. -/
opaque memberPackage : (tag member : Nat) → BitVec 13
/-- A free value: the n-th value the manual leaves open. -/
opaque freeWord : Nat → Word

end Sys2Proof.Config
end

