-- ==== Sys2Proof/Machine/State.lean ====
section
/-!
DEFINITION. The unit's state as plain data: every register, table, buffer, counter, mode and pin that the manual gives
the unit, the queue of waiting commands, and the state right after reset. Large memories and tables are sparse.
-/
namespace Sys2Proof.Machine

/-- Reasons the machine stops with a fault. The manual names none for the block: no meaning raises one. -/
inductive Fault where
  /-- Raised by no meaning (safe: a run never ends here). -/
  | unreachable
  deriving DecidableEq, Repr

/-- Reasons a command has no meaning. -/
inductive Refusal where
  /-- Raised by exec for a command that has no meaning yet (safe: nothing can be proved of it). -/
  | notModelled (mnemonic : String)
  deriving DecidableEq, Repr

/-- The events of the log (R414, R442, R478). -/
inductive Ev where
  | rsvdWrite | rsvdValue | lockedWrite | tickInverted | tickLost | tickRealigned | tickMissed | planPeriodMismatch
  | alignFail | lateArrival | clkHalved | retrain | checksumRetry | drawRetry | emitStall | debugFreeze
  | accParity | adapterMismatch | deltaRange | countLost | maskStray | maskStale | maskDup | maskNopage
  | maskBad | trieFault | trieReset | histCheck | mergeStray | mergeTimeout | mergeDesync | mergeCfg
  | residFallback | draftFault | partStep | tableWrite | bindRevoked | ringBadcons | parkBusy | ibankActive
  | insnUndef | insnRsvd | descBad | tcmdBad | pcRange | predSplit | loopBad | descStale
  | mbxBusy | mbxLocked | fwLate | fwRestart | fwRevert | routineFault | limitConflict | mtrWrite
  | meterDrop | promptIgnored | eccUe | countUe | maskUe | tableUe | rowSpared | spareExhausted
  | stFail | laneRetired | atollRetired | cksumSuspect | convFail | engineFail | straitParity | dupMismatch
  | drawFail | faultEscalate | portQuarantine | stepAbandon | plannerMismatch | ctrlMismatch | failstop | imageRestore
  | mirrorRefused | mirrorLost | mirrorStale | lockstepDiverge | logFailed | pmcOverflow | histSat | pmcDenied
  | debugUnlocked | debugKeyfail | debugReleased | dbgDenied | addrReserved | addrPriv | addrWidth | flitBad
  | linkRetry | linkDown | creditTimeout | rowStray | rowDup | rowBad | mchCredit | overpower
  | thermWarn
  deriving DecidableEq, Repr, Inhabited

/-- One entry of the event log (R413). -/
structure LogEnt where
  time : DWord
  seq : Word
  tick : Word
  code : Half
  src : Byte
  fault : Bool
  arg0 : Word
  arg1 : Word
  arg2 : Word
  deriving DecidableEq, Repr, Inhabited

/-- Request states (R236). -/
inductive ReqState where
  | free | opened | active | held | preempted | parking | parked | resuming | draining | closed
  deriving DecidableEq, Repr, Inhabited

/-- Hold causes (R237). -/
inductive Hold where
  | none | ringFull | maskLate | budget | rowFault | noCandidate | countOvf | deferred
  deriving DecidableEq, Repr, Inhabited

/-- A request table entry (R235). DIR always equals the request ID and is not stored. -/
structure ReqEntry where
  state : ReqState
  hold : Hold
  prio : BitVec 3
  tenant : BitVec 12
  deadline : Half
  cancel : Bool
  close : Bool
  mirror : Bool
  merge : Bool
  countOvf : Bool
  clamped : Bool
  adopted : Bool
  position : Word
  maxlen : Word
  seed : DWord
  lasttick : Word
  ring : BitVec 12
  adapter : Byte
  adapterV : Bool
  delta : BitVec 4
  deltaV : Bool
  gambit : BitVec 4
  slot1 : BitVec 2
  slot0 : BitVec 2
  maskid1 : BitVec 12
  maskid0 : BitVec 12
  trie : Byte
  trieV : Bool
  cursor : BitVec 18
  pblk : Word
  ttl : Word
  endcause : Byte
  deriving DecidableEq, Repr, Inhabited

/-- What the unit keeps for a request beside its table entry: the run of fault drops (R384), the pending PROMPT
(R362), the state before PARK (R242), quarantine (R385), an expiry that is due (R260), notices owed at the next commit
point (R266), a trie fault whose next row runs without bans (R157), a NOTICE missed (R203), an out-of-range consumer
index already logged (R263), clamped fields of the stored block (R162), the bound that the gambit length was last clamped to (R210), the
static bindings in force (R147), held for a bad mask page
until a reload (R387), a count lost since the last commit point (R140), an escalation due at C (R384). -/
structure ReqAux where
  faultRun : Nat
  prompt : BitVec 24
  former : ReqState
  formerHold : Hold
  quarantined : Bool
  expiryDue : Bool
  notices : List (Byte × Half)
  trieDeg : Bool
  desync : Bool
  badCons : Bool
  blockClamped : Bool
  gambitCut : Option Nat
  bound0 : Option Nat
  bound1 : Option Nat
  maskHeld : Bool
  lost : Bool
  escalated : Bool
  deriving DecidableEq, Repr, Inhabited

/-- A clamped sampling parameter block (R240). -/
structure Params where
  temp : Word
  topP : Word
  minP : Word
  rep : Word
  presence : Word
  frequency : Word
  rescore : BitVec 7
  logprobs : BitVec 5
  topK : BitVec 13
  strict : Bool
  nstop : BitVec 4
  stopTok : List (BitVec 24)
  deriving DecidableEq, Repr, Inhabited

/-- A ring descriptor (R261) and its records written since the last notification (R268). -/
structure RingDesc where
  valid : Bool
  tenant : BitVec 12
  base : BitVec 48
  log2size : BitVec 5
  prod : Word
  notify : Half
  count0 : Byte
  count1 : Byte
  seq0 : DWord
  seq1 : DWord
  since : Nat
  deriving DecidableEq, Repr, Inhabited

/-- A ring record without its CRC (R264). -/
structure RingRec where
  kind : BitVec 4
  token : BitVec 24
  position : Word
  logprob : Word
  flags : BitVec 9
  deriving DecidableEq, Repr, Inhabited

/-- A tenant table entry (R248). After an uncorrectable word, `badSet` stands until SET_TENANT and `badBal` until SET_BUDGET
has rewritten the entry (R387). -/
structure Tenant where
  balance : Word
  refill : Word
  ceiling : Word
  overdraft : Word
  period : Word
  next : Word
  state : BitVec 2
  badSet : Bool
  badBal : Bool
  deriving DecidableEq, Repr, Inhabited

/-- An adapter directory entry (R126). -/
structure AdapterDir where
  valid : Bool
  tag : BitVec 12
  h : Word
  nbias : Half
  slots : BitVec 3
  deriving DecidableEq, Repr, Inhabited

/-- One delta triplet in the place it is scattered to (R130). -/
structure Triplet where
  block : BitVec 4
  lane : Byte
  piece : BitVec 2
  group : BitVec 6
  k : BitVec 17
  v : Word
  deriving DecidableEq, Repr, Inhabited

/-- A resident delta set (R130), its range event already logged under the plan in force (R134), and revocation by a bad word
(R387). -/
structure DeltaSet where
  tag : BitVec 12
  trips : List Triplet
  rangeLogged : Bool
  revoked : Bool
  deriving DecidableEq, Repr, Inhabited

/-- A trie image in force (R154), the blocks whose word is uncorrectable, and the image of 16-byte blocks. -/
structure TrieExt where
  tag : BitVec 12
  blocks : List (BitVec 128)
  bad : List Nat
  deriving DecidableEq, Repr, Inhabited

/-- What a page of a lagoon's pool holds (R142). -/
inductive PageUse where
  | free | count | deny | static | grammar
  deriving DecidableEq, Repr, Inhabited

/-- A page of 256 bytes (R135, R148). -/
structure Page where
  use : PageUse
  bytes : SMap Byte
  deriving DecidableEq, Repr, Inhabited

/-- A static mask resource (R147): its pages by 32 x block + page index. -/
structure StaticMask where
  resident : Bool
  tag : BitVec 12
  pages : SMap (Option Nat)
  binds : Nat
  bad : Bool
  deriving DecidableEq, Repr, Inhabited

/-- A tenant's deny list (R145, R148). -/
structure DenyList where
  pages : SMap (Option Nat)
  bad : Bool
  deriving DecidableEq, Repr, Inhabited

/-- A grammar mask (R149): the port on which it arrives, its pages, whether it is resident, and the cycle in which its last
page was written. -/
structure GrammarMask where
  req : ReqId
  pos : Word
  port : Nat
  pages : SMap (Option Nat)
  resident : Bool
  arrived : Nat
  deriving DecidableEq, Repr, Inhabited

/-- A lane's registers (R24): scalars, vector words at 8 v + i, predicates, descriptors. -/
structure Lane where
  s : SMap Word
  v : SMap Word
  p : Byte
  d : SMap DWord
  deriving DecidableEq, Repr, Inhabited

/-- What one accumulator set of an atoll is accumulating (R77, R90, R288). -/
structure SetInfo where
  wave : Nat
  draft : Bool
  piece : Nat
  block : Nat
  group : Nat
  tiles : Nat
  deriving DecidableEq, Repr, Inhabited

/-- A running loop of a lane stream (R301): first word, words, trips left, index register, iteration. -/
structure LoopFrame where
  start : Nat
  len : Nat
  left : Nat
  idx : Option Nat
  iter : Nat
  deriving DecidableEq, Repr, Inhabited

/-- What holds a stream (R288, R297). -/
inductive Wait where
  | none
  | castling
  | untilUclk (t : Nat)
  deriving DecidableEq, Repr, Inhabited

/-- Where the epilogue of a wave of score-in rows stands (R106, R227): the wave, its last column group, its block round. -/
structure EpiSt where
  wave : Nat
  last : Nat
  round : Nat
  deriving DecidableEq, Repr, Inhabited

/-- A logical atoll's sequencer (R285, R90): program counters, which streams run, the phases each has begun, loops, waits,
the accumulator sets, whether the shadow set holds a group that has not been drained, the spill unit (wave, piece, block) whose
epilogue runs or last ran and whether the lanes have left it, the words whose skip is logged; under split-K, whether member 0 has taken
this member's partials, and whether this member has given them (R101); the two sets of weight registers in the cells and which is in use,
the bins of the histogram engine (R23), and the tiles that a SCORE stopped by a DEBUG_STEP has issued (R447). -/
structure AtollSt where
  tilePc : Nat
  lanePc : Nat
  tileRuns : Bool
  laneRuns : Bool
  tilePhase : Nat
  lanePhase : Nat
  loops : List LoopFrame
  tileWait : Wait
  laneWait : Wait
  activeSet : Bool
  shadowFull : Bool
  set0 : SetInfo
  set1 : SetInfo
  epi : Option EpiSt
  spillUnit : Option (Nat × Nat × Nat)
  left : Bool
  skipLogged : List Nat
  taken : Bool
  given : Bool
  weights0 : TileData
  weights1 : TileData
  weightSel : Bool
  hist : SMap (Nat × Word)
  scoreAt : Nat
  deriving DecidableEq, Repr, Inhabited

/-- A plan header (R278). -/
structure Plan where
  planId : Word
  period : Nat
  rowCap : Nat
  pool : Nat
  seed : DWord
  head0 : Word
  head1 : Word
  n : Nat
  h0 : Nat
  h1 : Nat
  pieces : Nat
  merge : Byte
  draftSrc : Nat
  rescore : Nat
  dmax : Nat
  index : Nat
  bgslot : Nat
  tsrc : Nat
  fmt0 : Nat
  fmt1 : Nat
  regions : List (Nat × Nat)
  waves : List (Nat × Bool)
  layouts : List Nat
  nphase : List Nat
  fences : List (Nat × Nat)
  deriving DecidableEq, Repr, Inhabited

/-- An image written into the inactive banks (R282): its mailbox and its package SRAM address. -/
structure StagedPlan where
  plan : Plan
  mbx : Nat
  addr : Nat
  deriving DecidableEq, Repr, Inhabited

/-- Plans and instruction banks. -/
structure PlanSt where
  cur : Option Plan
  staged : Option StagedPlan
  desc : PlanDesc
  addr : Nat
  deriving DecidableEq, Repr, Inhabited

/-- A converted row in the stream buffers (R81 to R86, R106): array input codes, scale codes, row scale, rescore copy,
score-in values, non-finite indicator. -/
structure RowData where
  codes : List Half
  scales : List Byte
  xs : Word
  bf16 : List Half
  values : List Word
  nonfinite : Bool
  deriving DecidableEq, Repr, Inhabited

/-- A row that has arrived, as it stands in its message (R465, R466), and the cycle at which its converter is done (R86). -/
structure RowInput where
  req : ReqId
  kind : BitVec 4
  offset : Nat
  pos : Word
  piece : Nat
  port : Nat
  arrived : Nat
  came : Nat
  fmt : Nat
  xs : Word
  body : List Byte
  deriving DecidableEq, Repr, Inhabited

/-- A candidate-store entry (R179). -/
structure Cand where
  resc : Bool
  token : BitVec 24
  key : Word
  mass : Word
  cum : Word
  deriving DecidableEq, Repr, Inhabited

/-- Plain rows, gambit target rows and draft rows (R212). -/
inductive RowKind where
  | plain | target | draft
  deriving DecidableEq, Repr, Inhabited

/-- Where a row has got to (R123). -/
inductive RowOutcome where
  | pending | fault | noCandidate | listed
  deriving DecidableEq, Repr, Inhabited

/-- A row of the step's row table with its converted input, by piece, and what selection and the draw make of it; `mute`: a
merge-group owner's ring or budget test failed, and it will commit nothing (R246). `parts` holds rescored conditioned values by
candidate; `drawA` and `drawB` say that a copy of the draw is done, with the bits of thr in error (R187); `drawn` is the chosen
entry of the list; `nfAt` and `satAt` are the atolls that have set the non-finite indicator and ACC_SAT (R97, R98); `index` holds the
index words of a draft row's list in the gambit store (R217). -/
structure Row where
  req : ReqId
  pos : Word
  offset : Nat
  kind : RowKind
  g : Nat
  wave : Nat
  slot : Nat
  lr : Nat
  admitted : Bool
  drop : Option Hold
  faultDrop : Bool
  predOff : Bool
  nonfinite : Bool
  accSat : Bool
  nfAt : List Nat
  satAt : List Nat
  trunc : Bool
  rescored : Bool
  trieDeg : Bool
  mute : Bool
  data : List RowData
  node : Nat
  handed : List Nat
  outcome : RowOutcome
  m : Word
  s : Word
  list : List Cand
  index : List Word
  parts : SMap (Option Word)
  drawA : Option Word
  drawB : Option Word
  drawn : Option Nat
  deriving DecidableEq, Repr, Inhabited

/-- A token resolved for a request: position, token, entry of its list, offset of its target row, SPEC flags. -/
structure Tok where
  pos : Word
  token : BitVec 24
  entry : Nat
  offset : Nat
  accept : Bool
  resample : Bool
  deriving DecidableEq, Repr, Inhabited

/-- A gambit request's resolution (R219, R221): the copies computed so far, each with its computations in error, and the result
that stands. -/
structure Resolution where
  req : ReqId
  copyA : Option (BitVec 2)
  copyB : Option (BitVec 2)
  final : Option (List Tok)
  deriving DecidableEq, Repr, Inhabited

/-- The step in progress (R50, R56) and what its drain still owes (R268, R404): mirror records not yet sent (`mirrorDue`) and not
yet acknowledged (`mirrorWait`). `fenced`: phases whose input fence has come;
`applied`: a command of its window has been applied (R333); `loaded`: bytes of the loads begun since its T+0 (R331); `bgDone`: its
background slot is over (R52); `abandonAt`: the cycle, from its T+0, in which it was abandoned (R56); `afterE`: it has ended and no tick has come since; `before`: the numbers of the two steps before it;
`missed`: mailboxes whose verdict came after T+1,023 (R328); `planDue`: a run of the planner that reads the tables as its cycle ends (R57); `doneAt`:
the cycle in which the last row's work was done (R56); `stalls`: stalls by source, with the cycles of the release and of the arrival (R55); `sentAt`: the cycle
in which the mirror records were sent (R404); `masked`: the phases whose mask fence is over (R152); `beaten`: beats have been posted (R56, R357);
`atC`: the bad words that the reads of the commit point will meet (R381). -/
structure StepSt where
  active : Bool
  num : DWord
  t0 : Nat
  bg : Nat
  holdover : Bool
  dutyDue : Bool
  fwLate : Bool
  applied : Bool
  loaded : Nat
  planned : Bool
  switched : Bool
  fenced : Nat
  template : Nat
  rowCap : Nat
  waves : List WaveSlot
  rows : List Row
  resolutions : List Resolution
  bgDone : Bool
  abandoned : Bool
  abandonAt : Nat
  committed : Bool
  c : Nat
  advance : SMap Nat
  ended : List Nat
  beats : List (BitVec 128)
  mirrorDue : List (Nat × List Byte)
  mirrorWait : List Nat
  signature : DWord
  afterE : Bool
  before : List DWord
  missed : List Nat
  planDue : Option (Option PlanDesc × List WaveSlot × Bool)
  doneAt : Option Nat
  stalls : List (Nat × Nat × Nat)
  sentAt : Nat
  masked : List Nat
  beaten : Bool
  atC : List ReadFind
  deriving DecidableEq, Repr, Inhabited

/-- The model's clocks: undivided UCLK cycles since reset release (R61, R476), the cycles in which FCLK, UCLK and HCLK are released (R64),
UCLK-domain cycles since then (R67), the phase of the divider while halved, and whether the unit is held in reset (R457). -/
structure Clocks where
  now : Nat
  fclk0 : Nat
  uclk0 : Nat
  hclk0 : Nat
  ucyc : Nat
  phase : Bool
  held : Bool
  deriving DecidableEq, Repr, Inhabited

/-- The tick receiver and holdover generator (R40 to R49), in undivided UCLK cycles (R476), with the cycle of the last tick's T+0. What an
arrival later in the same UCLK cycle can still change (R57) waits for the end of the cycle: a holdover tick, a tick that found a step in progress (from holdover or
not), and the tick capture (R428). -/
structure TickSt where
  cnt : DWord
  ts : DWord
  lastChange : Nat
  holdBase : Nat
  inHold : Bool
  lastAt : Nat
  holdDue : Bool
  missDue : Option Bool
  capDue : Bool
  deriving DecidableEq, Repr, Inhabited

/-- What the running UCLK cycle has seen: bits that hardware has set in RW1C registers, by register (R12), interrupt sources whose
message has left (R346), and a host write of UNIT_TICKCFG (R350). -/
structure CycSt where
  set : SMap Word
  sent : Half
  tickcfg : Bool
  deriving DecidableEq, Repr, Inhabited

/-- The host path: data of the last read, the two entry latches (R234), and the first offset and number of refused
accesses of the running tick interval by cause (R456, R438, R450). -/
structure BusSt where
  rdata : DWord
  reqLatch : Option (Nat × List Byte)
  tntLatch : Option (Nat × List Byte)
  addrRsvd : Option (Nat × Nat)
  addrPriv : Option (Nat × Nat)
  addrWidth : Option (Nat × Nat)
  pmcDenied : Bool
  deriving DecidableEq, Repr, Inhabited

/-- Mailbox states (R318). -/
inductive MbxState where
  | idle | posted | accepted | done | error | busyBoot
  deriving DecidableEq, Repr, Inhabited

/-- A load or routine that has been applied and has not ended (R333): its command, target, the tick count when it was applied (or, of
LOAD_FW, verified), its pages allocated out of sight by key as (lagoon, page), staging complete, a failure found while staging, the
steps run since an activation (R339), the bytes that the loader has still to copy (R331), and the UCLK cycle of its application. -/
structure Routine where
  code : Half
  target : Nat
  tick : DWord
  key : Nat
  pages : List (Nat × Nat × Nat)
  ready : Bool
  failed : Option Half
  steps : Nat
  left : Nat
  began : Nat
  deriving DecidableEq, Repr, Inhabited

/-- One mailbox (R317 to R326): message and response bytes, state, sequence register, the due mark and the verdict of the
command, APPLY or REFUSE with a status (R315), the cycle of its RING, the end state the stored response had, and its routine. -/
structure Mailbox where
  msg : SMap Byte
  resp : SMap Byte
  state : MbxState
  queued : Bool
  seqValid : Bool
  seqLast : Half
  due : Bool
  apply : Bool
  refuse : Option Half
  ecc : List ReadFind
  ringTime : Nat
  stored : SMap Byte
  endedDone : Bool
  routine : Option Routine
  deriving DecidableEq, Repr, Inhabited

/-- A firmware slot, which is a controller instruction bank (R336, R337). -/
structure FwSlot where
  valid : Bool
  version : Word
  svn : BitVec 6
  entry : Word
  body : List Byte
  deriving DecidableEq, Repr, Inhabited

/-- The controller core: the RV32IMC program counter, registers and data memory (R313). -/
structure CoreSt where
  pc : Word
  x : SMap Word
  data : SMap Byte
  deriving DecidableEq, Repr, Inhabited

/-- Policy firmware state (R328, R336 to R340): slots, running slot, run of late steps,
a restart due at the next tick, a revert due, the fused roll count as raised, and the controller core. -/
structure FwSt where
  slotA : FwSlot
  slotB : FwSlot
  active : Bool
  lateRun : Nat
  restartDue : Bool
  revertDue : Bool
  roll : BitVec 6
  core : CoreSt
  deriving DecidableEq, Repr, Inhabited

/-- A merge message accepted or sent in this step (R198, R200). -/
structure MrgMsg where
  kind : Nat
  source : Nat
  req : ReqId
  pos : Word
  flags : Byte
  body : List Byte
  deriving DecidableEq, Repr, Inhabited

/-- A merge-group row's exchange: stage 0 NORM, 1 to 3 PASS, 4 LIST, 5 NOTICE; whether the message of the stage has gone up
the tree; the decided key prefix, ACC, ABOVE and LEN (R198, R200). The root keeps the top-p target, the count at which the
search ends, and a length that an earlier pass has fixed (R170, R177). -/
structure MrgRow where
  req : ReqId
  pos : Word
  stage : Nat
  up : Bool
  key : Word
  accum : Word
  above : Nat
  len : Nat
  target : Word
  cap : Nat
  fixed : Option Nat
  deriving DecidableEq, Repr, Inhabited

/-- The merge group's exchanges of the step; `held`: messages that have arrived in a halt (R447). -/
structure MergeSt where
  held : List MrgMsg
  recv : List MrgMsg
  rows : List MrgRow
  notices : List MrgMsg
  deriving DecidableEq, Repr, Inhabited

/-- MSTATE (R401). -/
inductive MState where
  | none | pending | bound | refused | lost | stale
  deriving DecidableEq, Repr, Inhabited

/-- A mirror table entry (R401), whether anything of the peer has arrived, for a pending primary the ticks at which BIND was sent, and an
unbinding that takes effect at the next tick (R403). -/
structure MirrorEnt where
  mstate : MState
  shadow : Bool
  tag : Byte
  peer : BitVec 13
  peerReq : BitVec 12
  lastPos : Word
  lastSeen : Word
  seen : Bool
  asked : Nat
  unbind : Bool
  deriving DecidableEq, Repr, Inhabited

/-- A stored mirror RECORD (R402, R405). -/
structure MirRec where
  req : ReqId
  pos : Word
  cfgcrc : Word
  toks : List (BitVec 24)
  endc : Option Byte
  ovf : Bool
  deriving DecidableEq, Repr, Inhabited

/-- Lock-step (R408 to R410): the binding, the binding that takes effect at the next tick, the pair step, own and
partner signatures by pair step, whether the leader's drain still waits, and the UCLK cycle in which the own signature was sent. -/
structure LockSt where
  bound : Bool
  follower : Bool
  contain : Bool
  diverged : Bool
  peer : BitVec 13
  tag : Byte
  next : Option (Option (Bool × Bool × Byte × BitVec 13))
  pairStep : Word
  own : Option (Word × DWord)
  theirs : Option (Word × DWord)
  waiting : Bool
  signedAt : Nat
  deriving DecidableEq, Repr, Inhabited

/-- A performance counter (R423 to R427). `reconf`: it was reprogrammed at a tick capture that was not published (R452). -/
structure PmcCtr where
  val : BitVec 48
  event : BitVec 10
  chain : Bool
  ovfIrq : Bool
  pend : Option (BitVec 10 × Bool × Bool)
  ovf : Bool
  logged : Bool
  reconf : Bool
  deriving DecidableEq, Repr, Inhabited

/-- A histogram engine (R432 to R434); `pend` is a new measure, `clear` a pending HIST_CLEAR. -/
structure HistEng where
  measure : BitVec 3
  pend : Option (BitVec 3)
  clear : Bool
  bins : SMap Word
  sat : Bool
  deriving DecidableEq, Repr, Inhabited

/-- A captured set: counter entries and histogram bins by 32 × engine + bin, SAT bits, the tick count (R428, R436). -/
structure Capture where
  ent : SMap DWord
  bins : SMap Word
  sats : Byte
  tick : DWord
  deriving DecidableEq, Repr, Inhabited

/-- Counters, histograms, latches and banks (R423 to R434). `frzDue`: a freeze has been applied in this cycle, whose capture takes the
values after the cycle's increments (R428). -/
structure PmcSt where
  ctr : SMap PmcCtr
  hist : SMap HistEng
  tickLatch : Capture
  frzLatch : Capture
  tickPending : Bool
  frzDue : Bool
  frzPending : Bool
  tickAt : Nat
  frzAt : Nat
  bank0 : Capture
  bank1 : Capture
  actBank : Bool
  hold : Bool
  cause : Bool
  seq : DWord
  ovfBits : SMap Word
  deriving DecidableEq, Repr, Inhabited

/-- Debug mode (R444 to R450). `half` holds the mailbox, half and age in ticks of an accepted first half; `stepGoal` the tiles that a
DEBUG_STEP has still to see issued; `reached`: its halt is due, from cycle `haltAt` on; `accBad`: accumulator entries whose parity a read of DBG_ACC has found
bad, by atoll, set and entry: their row slots are fault-dropped when the step runs on (R451). -/
structure DbgSt where
  fails : BitVec 2
  atEnd : Bool
  stepping : Bool
  frozen : Bool
  unlocked : Bool
  half : Option (Nat × Half × Nat)
  accSel : Word
  peekSel : Word
  frzTicks : Word
  halt : Word
  freezePending : Bool
  halted : Bool
  stepAtoll : Nat
  stepGoal : Nat
  stepMbx : Option Nat
  reached : Bool
  haltAt : Nat
  accBad : List (Nat × Nat × Nat)
  deriving DecidableEq, Repr, Inhabited

/-- The event log (R413 to R417): two regions by slot, the next sequence number, UNIT_LASTCHANCE, a failure waiting for
the next event, and what is logged at most once in the running step or tick interval. -/
structure LogSt where
  a : SMap LogEnt
  b : SMap LogEnt
  spare : Bool
  afail : Bool
  bfail : Bool
  seq : DWord
  lastChance : LogEnt
  lcValid : Bool
  failNext : Bool
  once : List Nat
  deriving DecidableEq, Repr, Inhabited

/-- Parts a repair replaces (R396). -/
inductive Part where
  | row (mem addr : Nat)
  | lane (phys lane : Nat)
  | cksum (phys : Nat)
  | atoll (phys : Nat)
  deriving DecidableEq, Repr, Inhabited

/-- Repairs and the checks that lead to them (R382 to R400): staged repairs with the background slots that their copy still takes and the tick they were staged in; strikes
as (physical atoll, physical lane, step); struck lanes that wait for their self-test; atolls with a repeated checksum mismatch; instruction
words to restore; the run of planner mismatches; spare rows taken since reset, by macro; rows of which scrub has corrected a word, with the
pass; idle spare lanes found faulty; the next atoll of the column diagnostic; idle spare atolls found faulty
(R390, R400); what BIST will find while it runs. -/
structure RprSt where
  staged : List (Part × Nat × DWord)
  strikes : List (Nat × Nat × DWord)
  struck : List (Nat × Nat)
  suspect : List Nat
  restore : List (Nat × Nat)
  plannerRun : Nat
  rows : SMap Nat
  worn : SMap (Option Nat)
  dead : List (Nat × Nat)
  nextCol : Nat
  deadAtolls : List Nat
  bist : List BistFault
  deriving DecidableEq, Repr, Inhabited

/-- A DATA flit that waits to be sent (R459): class, first and last of its message, payload, the ingress credits that its sending returns,
and whether it is a NOT_READY completion, which is counted as it is sent (R463, R467). -/
structure TxFlit where
  cls : Nat
  som : Bool
  eom : Bool
  payload : List Byte
  backCls : Nat
  back : Nat
  nr : Bool
  deriving DecidableEq, Repr, Inhabited

/-- A physical fabric port (R459 to R463). Credits by class: `taken` flits received and `granted` totals advertised,
`sent` flits and `limit` totals allowed by the far end; receive and transmit sequence numbers; the replay buffer; whether
flits are discarded until a replay; good flits not yet acknowledged; replays without progress; consecutive corrupted
flits; the message in assembly by class as (refused, bytes); egress flits waiting; the cycle of the last progress of acknowledgement;
and, plus 1, the cycle since which a class has had flits waiting and no credit. -/
structure FabPort where
  taken : SMap Nat
  granted : SMap Nat
  sent : SMap Nat
  limit : SMap Nat
  rxSeq : BitVec 12
  txSeq : BitVec 12
  replay : List (BitVec 12 × List Byte)
  discarding : Bool
  unacked : Nat
  replays : Nat
  corrupt : Nat
  assembly : SMap (Option (Bool × List Byte))
  waiting : List TxFlit
  progress : Nat
  starve : SMap Nat
  deriving DecidableEq, Repr, Inhabited

/-- Power and heat (R472 to R477): clock halving in force, the last window averages in mW, the cycle at which TJ was
last at or above 100 °C, THERMTRIP_N driven low, a re-training owed at the next background slot. -/
structure PwrSt where
  halved : Bool
  windows : List Nat
  lastHot : Nat
  tripped : Bool
  retrainDue : Bool
  rails : Bool
  standby : Bool
  tj : Byte
  deriving DecidableEq, Repr, Inhabited

/-- What has left the unit, in order. -/
inductive OutMsg where
  | msix (vector : Byte)
  | flit (port : Nat) (bytes : List Byte)
  | mesg (port : Nat) (cls : Nat) (bytes : List Byte)
  | merge (dest : Nat) (bytes : List Byte)
  | mirror (dest : Nat) (bytes : List Byte)
  | beat (b : BitVec 128)
  | portMove (port : Nat)
  deriving DecidableEq, Repr, Inhabited

/-- A meter tenant's three counters (R353, R361). -/
structure Counts3 where
  emitted : DWord
  prompt : DWord
  draft : DWord
  deriving DecidableEq, Repr, Inhabited

/-- An audit entry (R364). -/
structure Audit where
  sealNo : Word
  mtime : DWord
  kind : Byte
  result : Byte
  slot : Byte
  hash : List Byte
  deriving DecidableEq, Repr, Inhabited

/-- The configuration block (R377). -/
structure MtrCfg where
  staticAddr : BitVec 7
  stmtInt : Byte
  alertMask : BitVec 7
  fifoHi : Half
  deriving DecidableEq, Repr, Inhabited

/-- A meter image slot (R366): its bytes as written and whether LOADEND or boot verified it. -/
structure MtrSlot where
  bytes : SMap Byte
  verified : Bool
  deriving DecidableEq, Repr, Inhabited

/-- A copy of what the meter SRAM holds beside the counters: audit log, SUSPECT bits, statement buffers, running image, firmware data
(R353). -/
structure MtrRest where
  audit : SMap Audit
  suspect : List Nat
  stmts : SMap (List Byte)
  firmware : SMap Byte
  data : SMap Byte
  deriving DecidableEq, Repr, Inhabited

/-- The sealed token meter (R351 to R378). The SRAM is held in two copies: `copyA` and `copyB` of the counters; `audit`, `suspect`, `stmts`,
`firmware` and `data` are copy A of the rest, `restB` is copy B. MTIME counts MCLK through `mtime`; `raised` holds the ALERTSTAT bits set in
the running MCLK cycle (R379). -/
structure Meter where
  powered : Bool
  booted : Bool
  copyA : SMap Counts3
  copyB : SMap Counts3
  suspect : List Nat
  fifo : List (BitVec 128)
  high : Nat
  dropCnt : Word
  mismCnt : Word
  lastTick : DWord
  lastWasLast : Bool
  frac : Nat
  mtime : DWord
  sealcnt : Word
  audit : SMap Audit
  loaderOnly : Bool
  warm : Bool
  slot : Bool
  counting : Bool
  nextSlot : Option Bool
  bootSlot : Bool
  slot0 : MtrSlot
  slot1 : MtrSlot
  rollback : BitVec 6
  imgHash : List Byte
  cfg : MtrCfg
  serial : DWord
  stmtSer : DWord
  stmts : SMap (List Byte)
  firmware : SMap Byte
  data : SMap Byte
  restB : MtrRest
  alert : BitVec 7
  raised : BitVec 7
  pin : BitVec 7
  loading : Option Bool
  resp : Option (List Byte)
  rdata : List Byte
  acked : Bool
  latch : SMap Word
  dynAddr : Option (BitVec 7)
  events : Byte
  deriving DecidableEq, Repr, Inhabited

/-- The unit: everything but the meter section. -/
structure Chip where
  clk : Clocks
  cyc : CycSt
  tick : TickSt
  ureg : SMap Word
  areg : SMap Word
  regNext : SMap (Option Word)
  latch : SMap Word
  bus : BusSt
  mbx : SMap Mailbox
  posted : List (BitVec 128)
  req : SMap ReqEntry
  aux : SMap ReqAux
  prm : SMap Params
  ring : SMap RingDesc
  cons : SMap Word
  tnt : SMap Tenant
  replay : SMap (Option RingRec)
  recseq : DWord
  adpMem : SMap Byte
  adpDir : SMap AdapterDir
  delta : SMap (Option DeltaSet)
  trie : SMap (Option TrieExt)
  staging : SMap (List Byte)
  statics : SMap StaticMask
  deny : SMap DenyList
  grammar : List GrammarMask
  dir : SMap Half
  page : SMap Page
  lagoon : SMap Byte
  scratch : SMap Byte
  lane : SMap Lane
  acc : SMap Word
  wide : SMap Word
  colScale : SMap Word
  atoll : SMap AtollSt
  bank : SMap DWord
  bankSel : Bool
  plan : PlanSt
  stp : StepSt
  inputs : List RowInput
  fw : FwSt
  merge : MergeSt
  mir : SMap MirrorEnt
  mirRx : List MirRec
  lock : LockSt
  pmc : PmcSt
  dbg : DbgSt
  log : LogSt
  rpr : RprSt
  fab : SMap FabPort
  mch : SMap (Option Nat)
  pwr : PwrSt
  psram : SMap Byte
  out : List OutMsg
  fresh : Nat
  deriving DecidableEq, Repr, Inhabited

/-- The block: the queue of waiting commands, the unit, and the meter section, which no unit state reaches (R351, R352). -/
structure State where
  pending : List Instr
  unit : Chip
  meter : Meter
  deriving DecidableEq, Repr

/-- A mailbox while the unit boots (R317, R347). -/
def Mailbox.boot : Mailbox :=
  { (default : Mailbox) with state := .busyBoot }

/-- Half of a fused ATL_SPARE register with its reserved bits 0, and LANE 0 where the spare is not in use or computes the checksum (R421). -/
def fusedHalf (h : Half) : Half :=
  if h.getLsbD 15 then (if h.getLsbD 14 then h &&& 0xC000#16 else h &&& 0xC0FF#16) else h &&& 0x4000#16

/-- A fused ATL_SPARE register. -/
def fusedSpares (p i : Nat) : Word :=
  let w := Config.fusedAtlLanes p i
  (fusedHalf ((w >>> 16).setWidth 16)) ++ (fusedHalf (w.setWidth 16))

/-- UNIT_ATLSPARE after reset: PHYS is 16 where the fuses hold no repair (R421). -/
def fusedAtl : Word :=
  if Config.fusedAtlSpare.getLsbD 31 then Config.fusedAtlSpare &&& 0x801F1F0F#32 else (Config.fusedAtlSpare &&& 0x001F000F#32) ||| 0x1000#32

/-- The registers of the unit control page whose Reset column is not 0; every other register of the page reads 0. -/
def Chip.resetUreg : SMap Word :=
  [(0x000, 0x0C1030B1#32),
   (0x004, (if Config.debugFuseBlown then 0x00788000#32 else 0x00F88000#32)),
   (0x020, 0x000803E8#32),
   (0x110, (if Config.fwKeySel then 0x400#32 else 0#32)),
   (0x11C, Config.fwRollCount.zeroExtend 32),
   (0x120, 0x00000001#32),
   (0x124, 0x00000010#32),
   (0x12C, 0x0000FFFF#32),
   (0x140, 0xFB002200#32), (0x144, 0x00001000#32), (0x148, 0x3C23D70A#32), (0x14C, 0x42C80000#32),
   (0x150, 0x3DCCCCCD#32), (0x154, 0x41200000#32), (0x158, 0x40800000#32),
   (0x164, fusedAtl), (0x168, Config.fusedPortSpare &&& 0x800000FF#32), (0x174, Config.fusedSramRpr)]

/-- The atoll registers whose Reset column is not 0: ATL_TILECFG (R115) and the fused ATL_SPARE registers (R420). -/
def Chip.resetAreg : SMap Word :=
  (List.range 17).flatMap fun p =>
    [(p * 0x10000, 0x01000800#32), (p * 0x10000 + 0x80, fusedSpares p 0), (p * 0x10000 + 0x84, fusedSpares p 1),
     (p * 0x10000 + 0x88, fusedSpares p 2), (p * 0x10000 + 0x8C, fusedSpares p 3)]

/-- The unit right after unit reset: held in reset, every register at its Reset column, every table empty (R15, R347). -/
def Chip.reset : Chip :=
  { (default : Chip) with
    clk := { (default : Clocks) with held := true }
    ureg := Chip.resetUreg
    areg := Chip.resetAreg
    mbx := (List.range 16).map fun i => (i, Mailbox.boot)
    fw := { (default : FwSt) with roll := Config.fwRollCount }
    pwr := { (default : PwrSt) with rails := true, standby := true } }

/-- The configuration block as shipped (R377). -/
def MtrCfg.shipped : MtrCfg := { staticAddr := 0x3A#7, stmtInt := 16#8, alertMask := 0#7, fifoHi := 6144#16 }

/-- The meter before its first boot: non-volatile store as shipped, everything else 0 (R370, R377). -/
def Meter.reset : Meter := { (default : Meter) with powered := true, cfg := MtrCfg.shipped }

/-- The machine right after reset, with an empty command queue. -/
def State.reset : State := { pending := [], unit := Chip.reset, meter := Meter.reset }

end Sys2Proof.Machine
end

