-- ==== Sys2Proof/Machine/Ops.lean ====
section
/-!
DEFINITION. The named operations over the unit's state that every meaning shares: sparse tables, byte memories, registers,
interrupts, the event log, event counters, time.
-/
namespace Sys2Proof.Machine

/-! ### Sparse tables -/

/-- What a table holds at a key. -/
def tget {α : Type} [Inhabited α] : SMap α → Nat → α
  | [], _ => default
  | (j, v) :: r, k => if j = k then v else tget r k

/-- The table without any entry at a key. -/
def tdel {α : Type} : SMap α → Nat → SMap α
  | [], _ => []
  | (j, v) :: r, k => if j = k then tdel r k else (j, v) :: tdel r k

/-- An entry put at its place in the rising order of keys. -/
def tins {α : Type} : SMap α → Nat → α → SMap α
  | [], k, v => [(k, v)]
  | (j, w) :: r, k, v => if k < j then (k, v) :: (j, w) :: r else (j, w) :: tins r k v

/-- The table with a key set to a value. Setting the default removes the entry. -/
def tset {α : Type} [DecidableEq α] [Inhabited α] (m : SMap α) (k : Nat) (v : α) : SMap α :=
  if v = default then tdel m k else tins (tdel m k) k v

/-- The table with the value at a key changed. -/
def tmod {α : Type} [DecidableEq α] [Inhabited α] (m : SMap α) (k : Nat) (f : α → α) : SMap α :=
  tset m k (f (tget m k))

/-- The keys of a sparse list rise strictly. -/
def keysRise {α : Type} : SMap α → Bool
  | [] => true
  | [_] => true
  | (j, _) :: (k, w) :: r => decide (j < k) && keysRise ((k, w) :: r)

/-- The canonical form: keys strictly rising and no entry equal to what an unlisted key reads as. -/
def canonical {α : Type} [DecidableEq α] [Inhabited α] (m : SMap α) : Bool :=
  keysRise m && m.all fun e => decide (e.2 ≠ default)

/-! ### Numbers and bytes -/

/-- Bits hi to lo of a number. -/
def fld (n hi lo : Nat) : Nat := n / 2 ^ lo % 2 ^ (hi + 1 - lo)

/-- The little-endian value of a byte string (R9). -/
def leNat : List Byte → Nat
  | [] => 0
  | b :: r => b.toNat + 256 * leNat r

/-- The low n bytes of a number, little-endian (R9). -/
def toLE : (n : Nat) → Nat → List Byte
  | 0, _ => []
  | n + 1, v => BitVec.ofNat 8 v :: toLE n (v / 256)

/-- The low n bytes of a number, most significant first. -/
def toBE (n v : Nat) : List Byte := (toLE n v).reverse

/-- Bytes i to i + n − 1 of a byte string as a little-endian number; bytes past its end read 0. -/
def leAt (bs : List Byte) (i n : Nat) : Nat := leNat ((bs.drop i).take n)

/-- n bytes of a byte memory from an address. -/
def rdBytes (m : SMap Byte) (a : Nat) : (n : Nat) → List Byte
  | 0 => []
  | n + 1 => tget m a :: rdBytes m (a + 1) n

/-- A byte memory with a byte string stored from an address. -/
def wrBytes (m : SMap Byte) (a : Nat) : List Byte → SMap Byte
  | [] => m
  | b :: r => wrBytes (tset m a b) (a + 1) r

/-- n bytes of a byte memory as a little-endian number. -/
def rdLE (m : SMap Byte) (a n : Nat) : Nat := leNat (rdBytes m a n)

/-- The ceiling of a quotient. -/
def cdiv (a b : Nat) : Nat := (a + b - 1) / b

/-- Addition clamped to the 32-bit unsigned range (counters of R205, R273, R420). -/
def sat32 (w : Word) (n : Nat) : Word := if w.toNat + n < 2 ^ 32 then BitVec.ofNat 32 (w.toNat + n) else 0xFFFFFFFF#32

/-- sat() to the signed 32-bit range (R16). -/
def satI32 (i : Int) : Word :=
  if i > 2147483647 then 0x7FFFFFFF#32 else if i < -2147483648 then 0x80000000#32 else BitVec.ofInt 32 i

/-- Is x after y in the modular sense of R323 over 32 bits (R416)? -/
def after32 (x y : Word) : Bool := let d := (x - y).toNat; decide (1 ≤ d ∧ d < 2 ^ 31)

/-- Apply f n times. -/
def iter {α : Type} (f : α → α) : Nat → α → α
  | 0, x => x
  | n + 1, x => iter f n (f x)

/-- Insertion at the place that the order gives. -/
def insertBy {α : Type} (before : α → α → Bool) (x : α) : List α → List α
  | [] => [x]
  | y :: r => if before x y then x :: y :: r else y :: insertBy before x r

/-- A list put in order. -/
def sortBy {α : Type} (before : α → α → Bool) (l : List α) : List α := l.foldr (insertBy before) []

/-! ### Registers -/

/-- A register of the unit control page by offset. -/
def Chip.reg (c : Chip) (off : Nat) : Word := tget c.ureg off

/-- Set a register of the unit control page. -/
def Chip.setReg (c : Chip) (off : Nat) (w : Word) : Chip := { c with ureg := tset c.ureg off w }

/-- Bits of a register have been set by hardware in this UCLK cycle (R12). -/
def Chip.mark (c : Chip) (key : Nat) (w : Word) : Chip :=
  { c with cyc := { c.cyc with set := tset c.cyc.set key (tget c.cyc.set key ||| w) } }

/-- Set bits of a register of the unit control page. -/
def Chip.orReg (c : Chip) (off : Nat) (w : Word) : Chip := (c.setReg off (c.reg off ||| w)).mark off w

/-- Clear bits of a register of the unit control page. -/
def Chip.clrReg (c : Chip) (off : Nat) (w : Word) : Chip := c.setReg off (c.reg off &&& ~~~ w)

/-- Add to a saturating 32-bit counter register. -/
def Chip.count (c : Chip) (off : Nat) (n : Nat) : Chip := c.setReg off (sat32 (c.reg off) n)

/-- Bit i of a register of the unit control page. -/
def Chip.rbit (c : Chip) (off i : Nat) : Bool := (c.reg off).getLsbD i

/-- Bits hi to lo of a register of the unit control page. -/
def Chip.rfld (c : Chip) (off hi lo : Nat) : Nat := fld (c.reg off).toNat hi lo

/-- The unit is READY (UNIT_STATUS, R458). -/
def Chip.ready (c : Chip) : Bool := c.rbit 0x00C 0
/-- UNIT_CTRL.RUN (R45, R458). -/
def Chip.run (c : Chip) : Bool := c.rbit 0x008 0
/-- The unit has fail-stopped (R386). -/
def Chip.stopped (c : Chip) : Bool := c.rbit 0x160 31

/-- A register of a physical atoll's window. -/
def Chip.atlReg (c : Chip) (phys off : Nat) : Word := tget c.areg (phys * 0x10000 + off)

/-- Set a register of a physical atoll's window. -/
def Chip.setAtl (c : Chip) (phys off : Nat) (w : Word) : Chip := { c with areg := tset c.areg (phys * 0x10000 + off) w }

/-- The offset of an atoll register in the unit's window (R453). -/
def atlKey (phys off : Nat) : Nat := 0x100000 + phys * 0x10000 + off

/-- Set bits of a register of a physical atoll's window. -/
def Chip.orAtl (c : Chip) (phys off : Nat) (w : Word) : Chip :=
  (c.setAtl phys off (c.atlReg phys off ||| w)).mark (atlKey phys off) w

/-- What a write of 1 leaves of the RW1C bits of a register: it clears no bit that hardware has set in the same cycle (R12). -/
def Chip.clears (c : Chip) (key : Nat) (old w1c val : Word) : Word := old &&& ~~~ (w1c &&& val &&& ~~~ tget c.cyc.set key)

/-- The physical atoll that serves a logical atoll: the spare where UNIT_ATLSPARE says so (R19, R421). -/
def Chip.physOf (c : Chip) (l : Nat) : Nat :=
  if c.rbit 0x164 31 ∧ c.rfld 0x164 3 0 = l then c.rfld 0x164 12 8 else l

/-- The logical atoll a physical atoll serves, if any. -/
def Chip.logicalOf (c : Chip) (p : Nat) : Option Nat := (List.range 16).find? fun l => c.physOf l = p

/-- The reference time in ns since reset release: the 100 MHz reference times 10 (R63, R476). -/
def Chip.timeNs (c : Chip) : Nat := c.clk.now * 2 / 21 * 10

/-- A free value: the next of the values the manual leaves open, and the unit with the index moved on. -/
def Chip.free (c : Chip) : Word × Chip := (Config.freeWord c.fresh, { c with fresh := c.fresh + 1 })

/-- A message leaves the unit. -/
def Chip.emit (c : Chip) (m : OutMsg) : Chip := { c with out := c.out ++ [m] }

/-- A message leaves over a sub-stream of the merge channel, 0 for merge and 1 for reliability, behind the endpoint's route word (R468). The
cycle of a sub-stream's first message is kept. -/
def Chip.overChannel (c : Chip) (sub pkg : Nat) (out : List Byte → OutMsg) (msg : List Byte) : Chip :=
  let c := c.emit (out (toLE 8 (pkg % 8192 + 8192 * sub) ++ msg))
  if (tget c.mch sub).isNone then { c with mch := tset c.mch sub (some c.clk.ucyc) } else c

/-! ### Interrupts (R344 to R346) -/

/-- The vector of a source in UNIT_IRQVEC (R345). -/
def Chip.irqVector (c : Chip) (src : Nat) : Byte :=
  BitVec.ofNat 8 ((c.reg (0x130 + 4 * (src / 4))).toNat / 2 ^ (8 * (src % 4)))

/-- A source's message leaves, at most once per source in a UCLK cycle (R346). -/
def Chip.msix (c : Chip) (src : Nat) : Chip :=
  if c.cyc.sent.getLsbD src then c
  else { c.emit (.msix (c.irqVector src)) with cyc := { c.cyc with sent := c.cyc.sent ||| (1#16 <<< src) } }

/-- A source is set: its message goes out when its bit rises unmasked (R346). -/
def Chip.irq (c : Chip) (src : Nat) : Chip :=
  let c' := c.orReg 0x128 (1#32 <<< src)
  if c.rbit 0x128 src ∨ c.rbit 0x12C src then c' else c'.msix src

/-! ### The event log (R413 to R417) -/

/-- The event codes: base of the owning chapter plus the place in its list (R414, R442, R478). -/
def Ev.code : Ev → Half
  | .rsvdWrite => 0x0001
  | .rsvdValue => 0x0002
  | .lockedWrite => 0x0003
  | .tickInverted => 0x0101
  | .tickLost => 0x0102
  | .tickRealigned => 0x0103
  | .tickMissed => 0x0104
  | .planPeriodMismatch => 0x0105
  | .alignFail => 0x0106
  | .lateArrival => 0x0107
  | .clkHalved => 0x0108
  | .retrain => 0x0109
  | .checksumRetry => 0x010A
  | .drawRetry => 0x010B
  | .emitStall => 0x010C
  | .debugFreeze => 0x010D
  | .accParity => 0x0201
  | .adapterMismatch => 0x0301
  | .deltaRange => 0x0302
  | .countLost => 0x0303
  | .maskStray => 0x0304
  | .maskStale => 0x0305
  | .maskDup => 0x0306
  | .maskNopage => 0x0307
  | .maskBad => 0x0308
  | .trieFault => 0x0309
  | .trieReset => 0x030A
  | .histCheck => 0x0401
  | .mergeStray => 0x0402
  | .mergeTimeout => 0x0403
  | .mergeDesync => 0x0404
  | .mergeCfg => 0x0405
  | .residFallback => 0x0501
  | .draftFault => 0x0502
  | .partStep => 0x0503
  | .tableWrite => 0x0601
  | .bindRevoked => 0x0602
  | .ringBadcons => 0x0603
  | .parkBusy => 0x0604
  | .ibankActive => 0x0701
  | .insnUndef => 0x0702
  | .insnRsvd => 0x0703
  | .descBad => 0x0704
  | .tcmdBad => 0x0705
  | .pcRange => 0x0706
  | .predSplit => 0x0707
  | .loopBad => 0x0708
  | .descStale => 0x0801
  | .mbxBusy => 0x0802
  | .mbxLocked => 0x0803
  | .fwLate => 0x0804
  | .fwRestart => 0x0805
  | .fwRevert => 0x0806
  | .routineFault => 0x0807
  | .limitConflict => 0x0808
  | .mtrWrite => 0x0901
  | .meterDrop => 0x0902
  | .promptIgnored => 0x0903
  | .eccUe => 0x0A01
  | .countUe => 0x0A02
  | .maskUe => 0x0A03
  | .tableUe => 0x0A04
  | .rowSpared => 0x0A05
  | .spareExhausted => 0x0A06
  | .stFail => 0x0A07
  | .laneRetired => 0x0A08
  | .atollRetired => 0x0A09
  | .cksumSuspect => 0x0A0A
  | .convFail => 0x0A0B
  | .engineFail => 0x0A0C
  | .straitParity => 0x0A0D
  | .dupMismatch => 0x0A0E
  | .drawFail => 0x0A0F
  | .faultEscalate => 0x0A10
  | .portQuarantine => 0x0A11
  | .stepAbandon => 0x0A12
  | .plannerMismatch => 0x0A13
  | .ctrlMismatch => 0x0A14
  | .failstop => 0x0A15
  | .imageRestore => 0x0A16
  | .mirrorRefused => 0x0A17
  | .mirrorLost => 0x0A18
  | .mirrorStale => 0x0A19
  | .lockstepDiverge => 0x0A1A
  | .logFailed => 0x0A1B
  | .pmcOverflow => 0x0B01
  | .histSat => 0x0B02
  | .pmcDenied => 0x0B03
  | .debugUnlocked => 0x0B04
  | .debugKeyfail => 0x0B05
  | .debugReleased => 0x0B06
  | .dbgDenied => 0x0B07
  | .addrReserved => 0x0C01
  | .addrPriv => 0x0C02
  | .addrWidth => 0x0C03
  | .flitBad => 0x0C04
  | .linkRetry => 0x0C05
  | .linkDown => 0x0C06
  | .creditTimeout => 0x0C07
  | .rowStray => 0x0C08
  | .rowDup => 0x0C09
  | .rowBad => 0x0C0A
  | .mchCredit => 0x0C0B
  | .overpower => 0x0C0C
  | .thermWarn => 0x0C0D

/-- Does the event raise the fault interrupt (R415, R442, R478)? -/
def Ev.faults (e : Ev) : Bool :=
  (e.code.toNat / 256 = 0x0A ∧ e ≠ .rowSpared ∧ e ≠ .dupMismatch ∧ e ≠ .straitParity ∧ e ≠ .imageRestore)
    ∨ e = .fwRestart ∨ e = .fwRevert

/-- Events with UNIT_LATECNT: the departures from planned timing (R71). -/
def Ev.late (e : Ev) : Bool :=
  [Ev.lateArrival, .clkHalved, .retrain, .checksumRetry, .drawRetry, .emitStall, .debugFreeze, .plannerMismatch,
    .stepAbandon].contains e

/-- Write an entry into the active region; an unread entry it overwrites counts in UNIT_LOGOVW (R413, R416). -/
def Chip.logPut (c : Chip) (e : LogEnt) : Chip :=
  let x := e.seq.toNat % 4096
  let reg := if c.log.spare then c.log.b else c.log.a
  let old := tget reg x
  let c := if (4096 ≤ c.log.seq.toNat ∧ (reg.any fun p => p.1 == x) ∧ after32 old.seq (c.reg 0x18C)) then c.count 0x190 1 else c
  if c.log.spare then { c with log := { c.log with b := tset c.log.b x e } }
  else { c with log := { c.log with a := tset c.log.a x e } }

/-- One event: what it is, where, and its items. -/
structure LogReq where
  ev : Ev
  src : Nat
  a0 : Nat
  a1 : Nat
  a2 : Nat
  deriving DecidableEq, Repr, Inhabited

/-- The entry an event makes now (R413). -/
def Chip.logEnt (c : Chip) (r : LogReq) : LogEnt :=
  { time := BitVec.ofNat 64 c.timeNs
    seq := c.log.seq.setWidth 32
    tick := c.tick.cnt.setWidth 32
    code := r.ev.code
    src := BitVec.ofNat 8 r.src
    fault := r.ev.faults
    arg0 := BitVec.ofNat 32 r.a0
    arg1 := BitVec.ofNat 32 r.a1
    arg2 := BitVec.ofNat 32 r.a2 }

/-- Number of entries of a region that the host has not read (R417). -/
def Chip.unread (c : Chip) (reg : SMap LogEnt) : Nat := (reg.filter fun p => after32 p.2.seq (c.reg 0x18C)).length

/-- The next sequence number. -/
def Chip.logStep (c : Chip) : Chip := { c with log := { c.log with seq := c.log.seq + 1 } }

/-- The entry goes to UNIT_LASTCHANCE, and UNIT_LOGSTAT.LCVALID is set. -/
def Chip.logLast (c : Chip) (e : LogEnt) : Chip :=
  ({ c with log := { c.log with lastChance := e, lcValid := true } }).mark 0x180 0x10#32

/-- The active region has failed: its unread entries count as lost, and the other region takes over (R417). -/
def Chip.logSwitch (c : Chip) : Chip :=
  let c := c.count 0x194 (c.unread (if c.log.spare then c.log.b else c.log.a))
  { c with log := { c.log with
    failNext := false, afail := c.log.afail || !c.log.spare, bfail := c.log.bfail || c.log.spare, spare := !c.log.spare } }

/-- An entry is stored; a region found failed is left as R417 says. Where no region is left, LOG_FAILED finds UNIT_LASTCHANCE taken and
counts as lost. -/
def Chip.logStore (c : Chip) (e : LogEnt) : Chip :=
  if c.log.afail ∧ c.log.bfail then (if c.log.lcValid then c.count 0x194 1 else c.logLast e).logStep
  else if c.log.failNext then
    let c := (c.logLast e).logSwitch.logStep
    if c.log.afail ∧ c.log.bfail then ((c.irq 12).count 0x194 1).logStep
    else ((c.irq 12).logPut (c.logEnt { ev := .logFailed, src := 0, a0 := 0, a1 := 0, a2 := 0 })).logStep
  else (c.logPut e).logStep

/-- Log one event, with its interrupt and UNIT_LATECNT. -/
def Chip.logOne (c : Chip) (r : LogReq) : Chip :=
  let x := if r.ev.late then c.count 0x040 1 else c
  (if r.ev.faults then x.irq 12 else x).logStore (c.logEnt r)

/-! ### Event counters (R423 to R427) -/

/-- Is counter k the upper half of a chain in force (R426)? -/
def Chip.pmcUpper (c : Chip) (k : Nat) : Bool := k % 2 = 1 ∧ (tget c.pmc.ctr (k - 1)).chain

/-- A wrap of an unchained counter or of an upper counter: OVF, PMC_OVF, the interrupt, and the event if it is the
counter's first in the step (R427). -/
def Chip.pmcWrap (c : Chip) (k : Nat) : Chip × List LogReq :=
  let t := tget c.pmc.ctr k
  let c' := { c with pmc := { c.pmc with
    ctr := tset c.pmc.ctr k { t with ovf := true, logged := true }
    ovfBits := tset c.pmc.ovfBits (k / 32) (tget c.pmc.ovfBits (k / 32) ||| (1#32 <<< (k % 32))) } }
  let c' := c'.mark (0x92020 + 4 * (k / 32)) (1#32 <<< (k % 32))
  let c' := if t.ovfIrq then c'.irq 14 else c'
  (c', if t.logged then [] else [{ ev := .pmcOverflow, src := 0, a0 := 0, a1 := 0, a2 := 0 }])

/-- Add to a counter, with the carry of a chain (R426, R427). -/
def Chip.pmcAdd (c : Chip) (k n : Nat) : Chip × List LogReq :=
  let t := tget c.pmc.ctr k
  let v := t.val.toNat + n
  let c' := { c with pmc := { c.pmc with ctr := tset c.pmc.ctr k { t with val := BitVec.ofNat 48 v } } }
  if v < 2 ^ 48 then (c', [])
  else if t.chain then
    let u := tget c'.pmc.ctr (k + 1)
    let w := u.val.toNat + 1
    let c'' := { c' with pmc := { c'.pmc with ctr := tset c'.pmc.ctr (k + 1) { u with val := BitVec.ofNat 48 w } } }
    if w < 2 ^ 48 then (c'', []) else c''.pmcWrap (k + 1)
  else c'.pmcWrap k

/-- Add n to every counter of the numbers lo to hi − 1 that counts an event (R424). -/
def Chip.pmcEvent (c : Chip) (lo hi code n : Nat) : Chip × List LogReq :=
  (c.pmc.ctr.filter fun p => decide (lo ≤ p.1 ∧ p.1 < hi ∧ p.2.event.toNat = code) && !c.pmcUpper p.1).foldl
    (fun acc p => let r := acc.1.pmcAdd p.1 n; (r.1, acc.2 ++ r.2)) (c, [])

/-- Log events, each counted by counters of event 0x051, whose own overflow events follow (R424, R427). -/
def Chip.logAll : Nat → Chip → List LogReq → Chip
  | 0, c, _ => c
  | _, c, [] => c
  | n + 1, c, r :: rs =>
    let p := (c.logOne r).pmcEvent 0 32 0x051 1
    Chip.logAll n p.1 (rs ++ p.2)

/-- Log an event from a source with up to three items. -/
def Chip.note (c : Chip) (e : Ev) (src : Nat := 0) (a0 : Nat := 0) (a1 : Nat := 0) (a2 : Nat := 0) : Chip :=
  Chip.logAll 512 c [{ ev := e, src := src, a0 := a0, a1 := a1, a2 := a2 }]

/-- A counted event of the unit group happens n times. -/
def Chip.event (c : Chip) (code : Nat) (n : Nat := 1) : Chip :=
  if n = 0 then c else
  let p := c.pmcEvent 0 32 code n
  Chip.logAll 512 p.1 p.2

/-- A counted event of a physical atoll happens n times; the spare counts only while it is in service (R423). -/
def Chip.eventAtl (c : Chip) (phys code : Nat) (n : Nat := 1) : Chip :=
  if phys = c.rfld 0x164 12 8 ∧ !c.rbit 0x164 31 then c else
  let p := c.pmcEvent (32 + 8 * phys) (40 + 8 * phys) code n
  Chip.logAll 512 p.1 p.2

/-- A counted event of a physical port happens n times; the spare counts only while it is in service (R423). -/
def Chip.eventPort (c : Chip) (port code : Nat) (n : Nat := 1) : Chip :=
  if port = 8 ∧ !c.rbit 0x168 31 then c else
  let p := c.pmcEvent (168 + 4 * port) (172 + 4 * port) code n
  Chip.logAll 512 p.1 p.2

/-- A counted event of the merge-channel endpoint happens n times. -/
def Chip.eventMch (c : Chip) (code : Nat) (n : Nat := 1) : Chip :=
  let p := c.pmcEvent 204 208 code n
  Chip.logAll 512 p.1 p.2

/-- Log an event at most once until the mark is cleared (events logged once per step or per interval). -/
def Chip.noteOnce (c : Chip) (mark : Nat) (e : Ev) (src : Nat := 0) (a0 : Nat := 0) (a1 : Nat := 0) (a2 : Nat := 0) :
    Chip :=
  if c.log.once.contains mark then c
  else ({ c with log := { c.log with once := mark :: c.log.once } }).note e src a0 a1 a2

/-! ### Histograms (R432 to R434) -/

/-- The bin of a value for measures 1 to 4 (R433). -/
def histBin (v : Nat) : Nat := if v = 0 then 0 else min 31 (v.log2 + 1)

/-- The bin of an arrival slack: none for an arrival after the fence (R433). -/
def slackBin : Option Nat → Nat
  | none => 0
  | some 0 => 1
  | some v => min 31 (v.log2 + 2)

/-- Add n samples to a bin; a bin that reaches its ceiling sets SAT, the event once, and source 14 (R434). -/
def Chip.histAdd (c : Chip) (e b n : Nat) : Chip :=
  let h := tget c.pmc.hist e
  let w := sat32 (tget h.bins b) n
  let full := w = 0xFFFFFFFF#32
  let c' := { c with pmc := { c.pmc with
    hist := tset c.pmc.hist e { h with bins := tset h.bins b w, sat := h.sat || decide full } } }
  if full ∧ !h.sat then (c'.note .histSat).irq 14 else c'

/-- A sample of a measure goes to every engine that has it (R432). -/
def Chip.sample (c : Chip) (measure bin : Nat) : Chip :=
  (c.pmc.hist.filter fun p => p.2.measure.toNat = measure).foldl (fun a p => a.histAdd p.1 bin 1) c

/-! ### Time -/

/-- UCLK since the T+0 of the step in progress. -/
def Chip.since (c : Chip) : Nat := c.clk.ucyc - c.stp.t0

/-- Does the foreground stand still: halted, or at the halt that a DEBUG_STEP has reached (R447)? -/
def Chip.halts (c : Chip) : Bool := c.dbg.halted || (c.dbg.stepping && c.dbg.reached && decide (c.dbg.haltAt ≤ c.clk.ucyc))

/-- P0 of the step in progress, from its T+0 (R50). -/
def Chip.p0 (c : Chip) : Nat := 2048 + c.stp.bg

/-- UNIT_TICKCFG.PERIOD_US (R62). -/
def Chip.periodUs (c : Chip) : Nat := c.rfld 0x020 14 0

/-! ### Where lanes and lagoons keep their bytes (R23, R24) -/

/-- The key of a scratchpad byte of a global logical lane. -/
def padKey (g addr : Nat) : Nat := g * 0x8000 + addr
/-- The key of a lagoon byte of a logical atoll. -/
def lagKey (at_ addr : Nat) : Nat := at_ * 0x800000 + addr
/-- The key of an accumulator entry: global lane, set, entry. -/
def accKey (g : Nat) (set : Bool) (e : Nat) : Nat := (g * 2 + (if set then 1 else 0)) * 128 + e
/-- The key of a directory entry: lagoon, request, entry index. -/
def dirKey (at_ q e : Nat) : Nat := (at_ * 4096 + q) * 256 + e
/-- The key of a page: lagoon, page number. -/
def pageKey (at_ p : Nat) : Nat := at_ * 0x8000 + p

end Sys2Proof.Machine
end

