-- ==== Sys2Proof/Machine/Hash.lean ====
section
/-!
DEFINITION. The check values and digests of published standards that the manual names: CRC-16/CCITT-FALSE, CRC-32 of
IEEE 802.3, CRC-64/ECMA-182, SHA-256 and SHA-384 (FIPS 180-4), HMAC-SHA-256 (RFC 2104).
-/
namespace Sys2Proof.Machine

/-- One bit of a left-shifting CRC of the given width. -/
def crcBit (width poly crc : Nat) : Nat :=
  if crc.testBit (width - 1) then Nat.xor (crc * 2 % 2 ^ width) poly else crc * 2 % 2 ^ width

/-- A left-shifting CRC over bytes, most significant bit first. -/
def crcLeft (width poly : Nat) (init : Nat) (bs : List Byte) : Nat :=
  bs.foldl (fun c b => iter (crcBit width poly) 8 (Nat.xor c (b.toNat * 2 ^ (width - 8)))) init

/-- CRC-16/CCITT-FALSE (R267). -/
def crc16 (bs : List Byte) : Nat := crcLeft 16 0x1021 0xFFFF bs

/-- CRC-64/ECMA-182, continued from a value (R409). -/
def crc64 (init : Nat) (bs : List Byte) : Nat := crcLeft 64 0x42F0E1EBA9EA3693 init bs

/-- One bit of the reflected CRC-32. -/
def crc32Bit (crc : Nat) : Nat := if crc % 2 = 1 then Nat.xor (crc / 2) 0xEDB88320 else crc / 2

/-- CRC-32 of IEEE 802.3 (R278, R459). -/
def crc32 (bs : List Byte) : Nat :=
  Nat.xor (bs.foldl (fun c b => iter crc32Bit 8 (Nat.xor c b.toNat)) 0xFFFFFFFF) 0xFFFFFFFF

/-! ### SHA-2 (FIPS 180-4) -/

/-- Rotate right within a width. -/
def rotr (w n x : Nat) : Nat := Nat.lor (x / 2 ^ n) (x * 2 ^ (w - n) % 2 ^ w)

/-- What SHA-256 and SHA-384 differ in: word width, rotation amounts, round constants. -/
structure ShaKind where
  w : Nat
  s0 : Nat × Nat × Nat
  s1 : Nat × Nat × Nat
  m0 : Nat × Nat × Nat
  m1 : Nat × Nat × Nat
  k : List Nat

/-- The round constants of SHA-256. -/
def sha256K : List Nat :=
  [0x428A2F98, 0x71374491, 0xB5C0FBCF, 0xE9B5DBA5, 0x3956C25B, 0x59F111F1, 0x923F82A4, 0xAB1C5ED5,
   0xD807AA98, 0x12835B01, 0x243185BE, 0x550C7DC3, 0x72BE5D74, 0x80DEB1FE, 0x9BDC06A7, 0xC19BF174] ++
  [0xE49B69C1, 0xEFBE4786, 0x0FC19DC6, 0x240CA1CC, 0x2DE92C6F, 0x4A7484AA, 0x5CB0A9DC, 0x76F988DA,
   0x983E5152, 0xA831C66D, 0xB00327C8, 0xBF597FC7, 0xC6E00BF3, 0xD5A79147, 0x06CA6351, 0x14292967] ++
  [0x27B70A85, 0x2E1B2138, 0x4D2C6DFC, 0x53380D13, 0x650A7354, 0x766A0ABB, 0x81C2C92E, 0x92722C85,
   0xA2BFE8A1, 0xA81A664B, 0xC24B8B70, 0xC76C51A3, 0xD192E819, 0xD6990624, 0xF40E3585, 0x106AA070] ++
  [0x19A4C116, 0x1E376C08, 0x2748774C, 0x34B0BCB5, 0x391C0CB3, 0x4ED8AA4A, 0x5B9CCA4F, 0x682E6FF3,
   0x748F82EE, 0x78A5636F, 0x84C87814, 0x8CC70208, 0x90BEFFFA, 0xA4506CEB, 0xBEF9A3F7, 0xC67178F2]

/-- The round constants of SHA-384. -/
def sha384K : List Nat :=
  [0x428A2F98D728AE22, 0x7137449123EF65CD, 0xB5C0FBCFEC4D3B2F, 0xE9B5DBA58189DBBC,
   0x3956C25BF348B538, 0x59F111F1B605D019, 0x923F82A4AF194F9B, 0xAB1C5ED5DA6D8118] ++
  [0xD807AA98A3030242, 0x12835B0145706FBE, 0x243185BE4EE4B28C, 0x550C7DC3D5FFB4E2,
   0x72BE5D74F27B896F, 0x80DEB1FE3B1696B1, 0x9BDC06A725C71235, 0xC19BF174CF692694] ++
  [0xE49B69C19EF14AD2, 0xEFBE4786384F25E3, 0x0FC19DC68B8CD5B5, 0x240CA1CC77AC9C65,
   0x2DE92C6F592B0275, 0x4A7484AA6EA6E483, 0x5CB0A9DCBD41FBD4, 0x76F988DA831153B5] ++
  [0x983E5152EE66DFAB, 0xA831C66D2DB43210, 0xB00327C898FB213F, 0xBF597FC7BEEF0EE4,
   0xC6E00BF33DA88FC2, 0xD5A79147930AA725, 0x06CA6351E003826F, 0x142929670A0E6E70] ++
  [0x27B70A8546D22FFC, 0x2E1B21385C26C926, 0x4D2C6DFC5AC42AED, 0x53380D139D95B3DF,
   0x650A73548BAF63DE, 0x766A0ABB3C77B2A8, 0x81C2C92E47EDAEE6, 0x92722C851482353B] ++
  [0xA2BFE8A14CF10364, 0xA81A664BBC423001, 0xC24B8B70D0F89791, 0xC76C51A30654BE30,
   0xD192E819D6EF5218, 0xD69906245565A910, 0xF40E35855771202A, 0x106AA07032BBD1B8] ++
  [0x19A4C116B8D2D0C8, 0x1E376C085141AB53, 0x2748774CDF8EEB99, 0x34B0BCB5E19B48A8,
   0x391C0CB3C5C95A63, 0x4ED8AA4AE3418ACB, 0x5B9CCA4F7763E373, 0x682E6FF3D6B2B8A3] ++
  [0x748F82EE5DEFB2FC, 0x78A5636F43172F60, 0x84C87814A1F0AB72, 0x8CC702081A6439EC,
   0x90BEFFFA23631E28, 0xA4506CEBDE82BDE9, 0xBEF9A3F7B2C67915, 0xC67178F2E372532B] ++
  [0xCA273ECEEA26619C, 0xD186B8C721C0C207, 0xEADA7DD6CDE0EB1E, 0xF57D4F7FEE6ED178,
   0x06F067AA72176FBA, 0x0A637DC5A2C898A6, 0x113F9804BEF90DAE, 0x1B710B35131C471B] ++
  [0x28DB77F523047D84, 0x32CAAB7B40C72493, 0x3C9EBE0A15C9BEBC, 0x431D67C49C100D4C,
   0x4CC5D4BECB3E42B6, 0x597F299CFC657E2A, 0x5FCB6FAB3AD6FAEC, 0x6C44198C4A475817]

/-- SHA-256. -/
def sha256Kind : ShaKind :=
  { w := 32, s0 := (2, 13, 22), s1 := (6, 11, 25), m0 := (7, 18, 3), m1 := (17, 19, 10), k := sha256K }
/-- SHA-384. -/
def sha384Kind : ShaKind :=
  { w := 64, s0 := (28, 34, 39), s1 := (14, 18, 41), m0 := (1, 8, 7), m1 := (19, 61, 6), k := sha384K }

/-- The three-rotation mixing function of a round. -/
def shaBig (w : Nat) (r : Nat × Nat × Nat) (x : Nat) : Nat :=
  Nat.xor (Nat.xor (rotr w r.1 x) (rotr w r.2.1 x)) (rotr w r.2.2 x)

/-- The mixing function of the message schedule, whose third term shifts. -/
def shaSmall (w : Nat) (r : Nat × Nat × Nat) (x : Nat) : Nat :=
  Nat.xor (Nat.xor (rotr w r.1 x) (rotr w r.2.1 x)) (x / 2 ^ r.2.2)

/-- The message schedule: the last sixteen words, newest first, are extended by one word. -/
def shaNext (t : ShaKind) (ws : List Nat) : List Nat :=
  ((shaSmall t.w t.m1 (ws.getD 1 0) + ws.getD 6 0 + shaSmall t.w t.m0 (ws.getD 14 0) + ws.getD 15 0) % 2 ^ t.w) :: ws

/-- One round on the eight working words. -/
def shaRound (t : ShaKind) (v : List Nat) (kw : Nat) : List Nat :=
  let g (i : Nat) := v.getD i 0
  let ch := Nat.xor (Nat.land (g 4) (g 5)) (Nat.land (2 ^ t.w - 1 - g 4) (g 6))
  let maj := Nat.xor (Nat.xor (Nat.land (g 0) (g 1)) (Nat.land (g 0) (g 2))) (Nat.land (g 1) (g 2))
  let t1 := g 7 + shaBig t.w t.s1 (g 4) + ch + kw
  let t2 := shaBig t.w t.s0 (g 0) + maj
  [(t1 + t2) % 2 ^ t.w, g 0, g 1, g 2, (g 3 + t1) % 2 ^ t.w, g 4, g 5, g 6]

/-- One block of sixteen words into the hash value. -/
def shaBlock (t : ShaKind) (h : List Nat) (ws : List Nat) : List Nat :=
  let sched := (iter (shaNext t) (t.k.length - 16) ws.reverse).reverse
  let v := (sched.zip t.k).foldl (fun v p => shaRound t v (p.1 + p.2)) h
  (h.zip v).map fun p => (p.1 + p.2) % 2 ^ t.w

/-- A byte string cut into words, most significant byte first. -/
def beWords (nbytes : Nat) : (n : Nat) → List Byte → List Nat
  | 0, _ => []
  | n + 1, bs => leNat (bs.take nbytes).reverse :: beWords nbytes n (bs.drop nbytes)

/-- All blocks of a padded message. -/
def shaBlocks (t : ShaKind) : (n : Nat) → List Byte → List Nat → List Nat
  | 0, _, h => h
  | n + 1, bs, h => shaBlocks t n (bs.drop (2 * t.w)) (shaBlock t h (beWords (t.w / 8) 16 (bs.take (2 * t.w))))

/-- The message padded to whole blocks. -/
def shaPad (t : ShaKind) (bs : List Byte) : List Byte :=
  let blk := 2 * t.w
  let zeros := (2 * blk - 1 - t.w / 4 - bs.length % blk) % blk
  bs ++ [0x80#8] ++ List.replicate zeros 0#8 ++ toBE (t.w / 4) (8 * bs.length)

/-- The digest as whole words. -/
def shaRun (t : ShaKind) (iv : List Nat) (bs : List Byte) : List Byte :=
  let m := shaPad t bs
  (shaBlocks t (m.length / (2 * t.w)) m iv).flatMap (toBE (t.w / 8))

/-- SHA-256. -/
def sha256 (bs : List Byte) : List Byte :=
  shaRun sha256Kind [0x6A09E667, 0xBB67AE85, 0x3C6EF372, 0xA54FF53A, 0x510E527F, 0x9B05688C, 0x1F83D9AB, 0x5BE0CD19] bs

/-- SHA-384 (R336, R365). -/
def sha384 (bs : List Byte) : List Byte :=
  (shaRun sha384Kind [0xCBBB9D5DC1059ED8, 0x629A292A367CD507, 0x9159015A3070DD17, 0x152FECD8F70E5939,
    0x67332667FFC00B31, 0x8EB44A8768581511, 0xDB0C2E0D64F98FA7, 0x47B5481DBEFA4FA4] bs).take 48

/-- HMAC-SHA-256 with a 32-byte key (R367). -/
def hmac256 (key bs : List Byte) : List Byte :=
  let k := key ++ List.replicate (64 - key.length) 0#8
  sha256 (k.map (· ^^^ 0x5C#8) ++ sha256 (k.map (· ^^^ 0x36#8) ++ bs))

end Sys2Proof.Machine
end

