-- ==== Sys2Proof/Machine/Image.lean ====
section
/-!
DEFINITION. Signed firmware images: the 256 B header and the checks on it (R336, R366).
-/
namespace Sys2Proof.Machine

/-- MAGIC of policy firmware and of meter firmware. -/
def policyMagic : Nat := 0x48435746
def meterMagic : Nat := 0x4D545246

/-- SIZE of an image header (R336). -/
def imgSize (hdr : List Byte) : Nat := leAt hdr 12 4
/-- SVN of an image header. -/
def imgSvn (hdr : List Byte) : Nat := leAt hdr 9 1
/-- ENTRY of an image header. -/
def imgEntry (hdr : List Byte) : Nat := leAt hdr 16 4

/-- Do the fields of the header keep the table of R336, with the given MAGIC and largest body? -/
def imgFields (magic maxSize : Nat) (hdr : List Byte) : Bool :=
  decide (hdr.length = 256 ∧ leAt hdr 0 4 = magic ∧ leAt hdr 4 2 = 1 ∧ imgSvn hdr ≤ 63 ∧ leAt hdr 10 2 = 0
    ∧ imgSize hdr % 4 = 0 ∧ 4 ≤ imgSize hdr ∧ imgSize hdr ≤ maxSize
    ∧ imgEntry hdr % 2 = 0 ∧ imgEntry hdr < imgSize hdr ∧ leAt hdr 20 44 = 0 ∧ leAt hdr 208 48 = 0)

/-- Does an image verify: its fields, its digest and its signature over header bytes 0 to 111 (R336)? -/
def imgOk (magic maxSize : Nat) (sigOk : List Byte → List Byte → List Byte → Bool) (hdr body : List Byte) : Bool :=
  imgFields magic maxSize hdr && decide (body.length = imgSize hdr) && decide (sha384 body = (hdr.drop 64).take 48)
    && sigOk (sha384 (hdr.take 112)) ((hdr.drop 112).take 48) ((hdr.drop 160).take 48)

/-- MAJOR, MINOR, PATCH and SVN as bytes 0 to 3 of GET_VERSION: [7:0] major, [15:8] minor, [23:16] patch, [31:24] SVN
(R329). -/
def imgVersion (hdr : List Byte) : Word :=
  BitVec.ofNat 32 (leAt hdr 6 1 + 0x100 * leAt hdr 7 1 + 0x10000 * leAt hdr 8 1 + 0x1000000 * leAt hdr 9 1)

/-- The largest policy image body (R336). -/
def policyMax : Nat := 458752

/-- Does a policy image verify (R336)? The signing key is the fused one. -/
def policyOk (img : List Byte) : Bool :=
  imgOk policyMagic policyMax (Config.policySigOk Config.fwKeySel) (img.take 256) ((img.drop 256).take (imgSize (img.take 256)))

/-- The controller instruction bank with an image written into it (R337). -/
def fwSlotOf (valid : Bool) (img : List Byte) : FwSlot :=
  let h := img.take 256
  { valid := valid, version := imgVersion h, svn := BitVec.ofNat 6 (imgSvn h), entry := BitVec.ofNat 32 (imgEntry h)
    body := (img.drop 256).take (imgSize h) }

/-- Write a slot. -/
def FwSt.setSlot (f : FwSt) (one : Bool) (x : FwSlot) : FwSt := if one then { f with slotB := x } else { f with slotA := x }

end Sys2Proof.Machine
end

