-- ==== Sys2Proof/Machine/Meter.lean ====
section
/-!
DEFINITION. The sealed token meter: counters, event FIFO, seal records, boot, statements, window words (10).
-/
namespace Sys2Proof.Machine

/-- MTR_STATUS.SEALSAT: MTR_SEALCNT is at its ceiling (R363, R371). -/
def Meter.sealSat (m : Meter) : Bool := decide (m.sealcnt = 0xFFFFFFFF#32)

/-- The alert line and MTR_ALERT are driven: an ALERTSTAT bit that ALERTMASK leaves unmasked is 1 (R378). -/
def Meter.alertLine (m : Meter) : Bool := decide (m.alert &&& ~~~ m.cfg.alertMask ≠ 0#7)

/-- An ALERTSTAT bit is set, and a clear in the same MCLK cycle leaves it 1 (R372, R379). -/
def Meter.raise (m : Meter) (bit : Nat) : Meter :=
  { m with alert := m.alert ||| (1#7 <<< bit), raised := m.raised ||| (1#7 <<< bit) }

/-- The block with a new meter state. A rise of the alert line sets interrupt source 13 of a unit out of reset (R378). -/
def State.withMeter (s : State) (m : Meter) : State :=
  if m.alertLine ∧ !s.meter.alertLine ∧ !s.unit.clk.held then { s with meter := m, unit := s.unit.irq 13 }
  else { s with meter := m }

/-! ### Counters in two copies (R353, R354) -/

/-- What both copies hold beside the counters changes alike. -/
def MtrRest.addSuspect (t : Nat) (x : MtrRest) : MtrRest := { x with suspect := if x.suspect.contains t then x.suspect else t :: x.suspect }
def MtrRest.putAudit (k : Nat) (a : Audit) (x : MtrRest) : MtrRest := { x with audit := tset x.audit k a }
def MtrRest.putStmt (k : Nat) (b : List Byte) (x : MtrRest) : MtrRest := { x with stmts := tset x.stmts k b }

/-- Copy A beside the counters, and the meter with one of the two copies changed, or both. -/
def Meter.restA (m : Meter) : MtrRest :=
  { audit := m.audit, suspect := m.suspect, stmts := m.stmts, firmware := m.firmware, data := m.data }
def Meter.mapRest (m : Meter) (copyB : Bool) (f : MtrRest → MtrRest) : Meter :=
  let x := f (if copyB then m.restB else m.restA)
  if copyB then { m with restB := x }
  else { m with audit := x.audit, suspect := x.suspect, stmts := x.stmts, firmware := x.firmware, data := x.data }
def Meter.mapBoth (m : Meter) (f : MtrRest → MtrRest) : Meter := (m.mapRest false f).mapRest true f

/-- Two copies that decode cleanly differ: MTR_MISMCNT and MISMATCH (R354). -/
def Meter.differs (m : Meter) (n : Nat := 1) : Meter := if n = 0 then m else { m.raise 4 with mismCnt := sat32 m.mismCnt n }

/-- Two copies of a tenant's counters differ: SUSPECT as well (R354). -/
def Meter.mismatch (m : Meter) (t : Nat) : Meter := m.differs.mapBoth (MtrRest.addSuspect t)

/-- A read of a tenant's counters reads both copies (R354). -/
def Meter.readTenant (m : Meter) (t : Nat) : Meter :=
  if tget m.copyA t = tget m.copyB t then m else m.mismatch t

/-- A read of an audit entry or of a statement buffer reads both copies. -/
def Meter.readAudit (m : Meter) (k : Nat) : Meter := m.differs (if tget m.audit k = tget m.restB.audit k then 0 else 1)
def Meter.readStmt (m : Meter) (k : Nat) : Meter := m.differs (if tget m.stmts k = tget m.restB.stmts k then 0 else 1)

/-- The 64-bit words of the SUSPECT bits of some tenants in which the copies differ (R353, R354). -/
def Meter.suspectDiffers (m : Meter) (pick : Nat → Bool) : Nat :=
  (((m.suspect ++ m.restB.suspect).filter fun t => pick t && (m.suspect.contains t != m.restB.suspect.contains t)).map
    (· / 64)).eraseDups.length

/-- A read of the SUSPECT bits of some tenants reads both copies. -/
def Meter.readSuspect (m : Meter) (pick : Nat → Bool) : Meter := m.differs (m.suspectDiffers pick)

/-- A SUSPECT bit of one copy takes the value that the other has, or the other value. -/
def MtrRest.setSuspect (t : Nat) (v : Bool) (x : MtrRest) : MtrRest :=
  { x with suspect := if v then (if x.suspect.contains t then x.suspect else t :: x.suspect) else x.suspect.filter fun k => k ≠ t }

/-- One place of a copy takes what the other copy holds there. -/
def MtrRest.copyFrom (y : MtrRest) (r : MtrRegion) (k : Nat) (x : MtrRest) : MtrRest :=
  match r with
  | .audit => { x with audit := tset x.audit k (tget y.audit k) }
  | .suspect => x.setSuspect k (y.suspect.contains k)
  | .statement => { x with stmts := tset x.stmts k (tget y.stmts k) }
  | .firmware => { x with firmware := tset x.firmware k (tget y.firmware k) }
  | .data => { x with data := tset x.data k (tget y.data k) }

/-- What a read finds wrong in the two copies is put right, or left as each copy reads (R354). -/
def Meter.upset (m : Meter) : MeterUpset → Meter
  | .clean => m
  | .oneCopy true t => { m with copyB := tset m.copyB t.toNat (tget m.copyA t.toNat) }
  | .oneCopy false t => { m with copyA := tset m.copyA t.toNat (tget m.copyB t.toNat) }
  | .oneCopyAt b r k => m.mapRest b (MtrRest.copyFrom (if b then m.restA else m.restB) r k)
  | .differ true t e p d => { m with copyB := tset m.copyB t.toNat { emitted := e, prompt := p, draft := d } }
  | .differ false t e p d => { m with copyA := tset m.copyA t.toNat { emitted := e, prompt := p, draft := d } }
  | .differAudit b k n t kind res slot h =>
    m.mapRest b (MtrRest.putAudit k.toNat { sealNo := n, mtime := t, kind := kind, result := res, slot := slot, hash := h })
  | .differSuspect b t => m.mapRest b fun x => x.setSuspect t.toNat (!x.suspect.contains t.toNat)
  | .differStatement b k bs => m.mapRest b (MtrRest.putStmt k.val bs)
  | .differByte b true a v => m.mapRest b fun x => { x with firmware := tset x.firmware a.toNat v }
  | .differByte b false a v => m.mapRest b fun x => { x with data := tset x.data a.toNat v }

/-- The amounts of a beat (R355). -/
def beatTenant (b : BitVec 128) : Nat := fld b.toNat 123 112
def beatCounts (b : BitVec 128) : Counts3 :=
  { emitted := BitVec.ofNat 64 (fld b.toNat 111 101)
    prompt := BitVec.ofNat 64 (fld b.toNat 89 64)
    draft := BitVec.ofNat 64 (fld b.toNat 100 90) }

/-- Add a beat's amounts to a tenant's counters (R359). -/
def Counts3.plus (a b : Counts3) : Counts3 :=
  { emitted := a.emitted + b.emitted, prompt := a.prompt + b.prompt, draft := a.draft + b.draft }

/-- The engine adds one beat to both copies, each from its own value, and records TICK (R354, R359). -/
def Meter.count (m : Meter) (b : BitVec 128) : Meter :=
  let t := beatTenant b
  let m := m.readTenant t
  { m with
    copyA := tset m.copyA t ((tget m.copyA t).plus (beatCounts b))
    copyB := tset m.copyB t ((tget m.copyB t).plus (beatCounts b))
    lastTick := b.setWidth 64
    lastWasLast := b.getLsbD 127 }

/-- The engine takes beats until a commit point is complete or none waits (R368). -/
def Meter.settle : Nat → Meter → Meter
  | 0, m => m
  | n + 1, m =>
    if m.lastWasLast then m
    else match m.fifo with
      | [] => m
      | b :: r => Meter.settle n (({ m with fifo := r }).count b)

/-! ### Seal records (R363 to R365) -/

/-- A seal event: MTR_SEALCNT rises unless saturated, and one audit entry is appended (R363, R364). -/
def Meter.sealEvent (m : Meter) (kind result slot : Byte) (hash : List Byte) : Meter :=
  let m' := m.raise 1
  if m.sealSat then m'
  else
    let n := m.sealcnt + 1
    let m' := ({ m' with sealcnt := n }).mapBoth (MtrRest.putAudit (n.toNat % 256)
      { sealNo := n, mtime := m.mtime, kind := kind, result := result, slot := slot, hash := hash })
    if m'.sealSat then m'.raise 0 else m'

/-- The image slot of a number. -/
def Meter.slotOf (m : Meter) (one : Bool) : MtrSlot := if one then m.slot1 else m.slot0

/-- Header and body of a slot's image. -/
def MtrSlot.hdr (x : MtrSlot) : List Byte := rdBytes x.bytes 0 256
def MtrSlot.body (x : MtrSlot) : List Byte := rdBytes x.bytes 256 (min (imgSize x.hdr) 32768)

/-- The check of a slot's image: 0 OK, 0x04 SIGBAD, 0x05 ROLLBACK (R366, R373). -/
def Meter.checkSlot (m : Meter) (one : Bool) : Byte :=
  let x := m.slotOf one
  if !imgOk meterMagic 32768 Config.meterSigOk x.hdr x.body then 0x04
  else if imgSvn x.hdr < m.rollback.toNat then 0x05 else 0x00

/-- The statement buffers, the running image and firmware's data are empty. -/
def MtrRest.blank (x : MtrRest) : MtrRest := { x with stmts := [], firmware := [], data := [] }

/-- A meter reset: the engine stops and the target acknowledges nothing until boot completes (R359, R374); latches and
the response are lost (R61, R379); statement numbers start again (R367); MTR_STATUS.SLOT and LOADERONLY read 0 (R371). -/
def Meter.reboot (m : Meter) : Meter :=
  ({ m with booted := false, counting := false, serial := 0, stmtSer := 0, loading := none, resp := none, slot := false
            loaderOnly := false, rdata := [], acked := false, latch := [], dynAddr := none, events := 0 }).mapBoth MtrRest.blank

/-- A cold boot begins: counters, FIFO, SUSPECT bits and meter time start at 0; the non-volatile store survives (R360). -/
def Meter.coldReset (m : Meter) : Meter :=
  { m.reboot.mapBoth fun x => { x with suspect := [] } with
    powered := true, copyA := [], copyB := [], fifo := [], high := 0, dropCnt := 0, mismCnt := 0,
    lastTick := 0, lastWasLast := false, frac := 0, mtime := 0, warm := false, alert := 0, raised := 0, pin := 0, nextSlot := none }

/-- A warm reset begins, which boots the named slot if one is named (R351, R366). WARM reads 1 from the reset on, not from the end of
its boot (log entry 20). -/
def Meter.warmReset (m : Meter) (next : Option Bool) : Meter := { m.reboot with warm := true, nextSlot := next }

/-- What the check of a slot finds is kept (R366). -/
def Meter.noteSlot (m : Meter) (one : Bool) : Meter :=
  let x := { m.slotOf one with verified := decide (m.checkSlot one = 0x00) }
  if one then { m with slot1 := x } else { m with slot0 := x }

/-- The running image body takes its place in the SRAM (R353). -/
def MtrRest.load (body : List Byte) (x : MtrRest) : MtrRest := { x with firmware := wrBytes [] 0 body }

/-- The boot completes from the named slot, the other slot, or in loader-only mode: a seal event (R363, R365, R366). -/
def Meter.finishBoot (m : Meter) : Meter :=
  let first := m.nextSlot.getD m.bootSlot
  let kind : Byte := if m.warm then 2 else 1
  let start (m : Meter) (one : Bool) : Meter :=
    let m := m.noteSlot one
    let x := m.slotOf one
    let h := sha384 x.body
    let m := { m.mapBoth (MtrRest.load x.body) with
      booted := true, counting := true, slot := one, bootSlot := one, nextSlot := none, loaderOnly := false
      imgHash := h, rollback := if m.rollback.toNat < imgSvn x.hdr then BitVec.ofNat 6 (imgSvn x.hdr) else m.rollback }
    m.sealEvent kind 0 (if one then 1 else 0) h
  if m.checkSlot first = 0x00 then start m first
  else if m.checkSlot (!first) = 0x00 then start (m.noteSlot first) (!first)
  else
    let m' := { (m.noteSlot first).noteSlot (!first) with booted := true, counting := true, nextSlot := none, loaderOnly := true, imgHash := [] }
    (m'.raise 6).sealEvent kind (m.checkSlot first) (if first then 1 else 0) []

/-! ### Statements (R367 to R369) -/

/-- A tenant's counters as copy A reports them (R354). -/
def counts3Bytes (v : Counts3) : List Byte := toLE 8 v.emitted.toNat ++ toLE 8 v.prompt.toNat ++ toLE 8 v.draft.toNat

/-- The meter key as bytes. -/
def meterKeyBytes : List Byte := (List.range 32).map Config.meterKey

/-- The bytes of a hash register, 48 bytes (R365). -/
def Meter.hashBytes (m : Meter) : List Byte := (m.imgHash ++ List.replicate 48 0#8).take 48

/-- A statement over count tenants from first, before its MAC (R367). -/
def Meter.statementBody (m : Meter) (kind : Byte) (first count : Nat) (nonce : List Byte) : List Byte :=
  let cov := (List.range count).map (first + ·)
  let flags := (if cov.any m.suspect.contains then 1 else 0) + (if m.sealSat then 2 else 0) + (if m.warm then 4 else 0)
  toLE 4 0x54534D53 ++ toLE 2 1 ++ [kind, BitVec.ofNat 8 flags] ++ toLE 8 m.serial.toNat
    ++ toLE 8 Config.meterDevId.toNat ++ toLE 4 m.sealcnt.toNat ++ toLE 2 first ++ toLE 2 count
    ++ toLE 8 m.mtime.toNat ++ toLE 8 m.lastTick.toNat ++ nonce ++ m.hashBytes
    ++ cov.flatMap fun t => counts3Bytes (tget m.copyA t)

/-- Take a statement: at a beat boundary, over tenants read in both copies, with a SERIAL of its own (R368, R369). -/
def Meter.takeStatement (m : Meter) (kind : Byte) (first count : Nat) (nonce : List Byte) : List Byte × Meter :=
  let m := Meter.settle m.fifo.length m
  let m := (((List.range count).map (first + ·)).foldl Meter.readTenant m).readSuspect fun t => decide (first ≤ t ∧ t < first + count)
  let b := m.statementBody kind first count nonce
  (b ++ hmac256 meterKeyBytes b, { m with serial := m.serial + 1 })

/-- The scheduled statement of the next serial, in its window slot (R369). -/
def Meter.scheduled (m : Meter) : Meter :=
  if !m.booted ∨ m.loaderOnly ∨ m.cfg.stmtInt = 0#8 then m
  else
    let ser := m.serial.toNat
    let r := m.takeStatement 0 (64 * (ser % 64)) 64 (List.replicate 8 0#8)
    { r.2.mapBoth (MtrRest.putStmt (ser % 16) r.1) with stmtSer := m.serial }

/-! ### The event port (R355 to R359) -/

/-- A beat arrives: it takes a place in the FIFO, or is dropped and counted (R358). The second result says dropped. -/
def Meter.push (m : Meter) (b : BitVec 128) (parityOk : Bool) : Meter × Bool :=
  if !m.powered then (m, false)
  else if !parityOk ∨ 8192 ≤ m.fifo.length then ({ m.raise 3 with dropCnt := sat32 m.dropCnt 1 }, true)
  else
    let n := m.fifo.length + 1
    let m' := { m with fifo := m.fifo ++ [b], high := max m.high n }
    (if m.cfg.fifoHi.toNat ≤ n then m'.raise 2 else m', false)

/-- The engine takes one beat (R359). -/
def Meter.take (m : Meter) (u : MeterUpset) : Meter :=
  if !m.counting then m
  else match m.fifo with
    | [] => m
    | b :: r => ((({ m with fifo := r }).upset u).count b)

/-- The places, in units of n, at which two tables differ. -/
def diffPlaces {α : Type} [DecidableEq α] [Inhabited α] (n : Nat) (a b : SMap α) : List Nat :=
  (((a ++ b).filter fun e => decide (tget a e.1 ≠ tget b e.1)).map fun e => e.1 / n).eraseDups

/-- The places beside the counters at which the copies differ: entries, slots, and 64-bit words of bits and bytes. -/
def Meter.restDiffers (m : Meter) : Nat :=
  let a := m.restA
  let b := m.restB
  (diffPlaces 1 a.audit b.audit).length + (diffPlaces 1 a.stmts b.stmts).length + (diffPlaces 8 a.firmware b.firmware).length
    + (diffPlaces 8 a.data b.data).length + m.suspectDiffers fun _ => true

/-- One scrub of the whole meter SRAM (R354). -/
def Meter.scrub (m : Meter) (us : List MeterUpset) : Meter :=
  if !m.powered then m
  else
    let m := us.foldl Meter.upset m
    let keys := m.copyA.map Prod.fst ++ (m.copyB.map Prod.fst).filter fun k => !(m.copyA.any fun p => p.1 == k)
    keys.foldl Meter.readTenant (m.differs m.restDiffers)

/-! ### The meter window (R370 to R372) -/

/-- The configuration block (R377). -/
def MtrCfg.bytes (g : MtrCfg) : List Byte :=
  [g.staticAddr.setWidth 8, g.stmtInt] ++ toLE 2 g.alertMask.toNat ++ toLE 2 g.fifoHi.toNat ++ List.replicate 10 0#8

/-- An audit entry (R364). -/
def Audit.bytes (a : Audit) : List Byte :=
  toLE 4 a.sealNo.toNat ++ toLE 8 a.mtime.toNat ++ [a.kind, a.result, a.slot, 0#8] ++ (a.hash ++ List.replicate 48 0#8).take 48

/-- A bit as a number. -/
def b2n (b : Bool) : Nat := if b then 1 else 0

/-- MTR_STATUS (R371). -/
def Meter.statusWord (m : Meter) : Word :=
  BitVec.ofNat 32 (64 * b2n m.loaderOnly + 32 * b2n m.sealSat + 16 * b2n (!m.suspect.isEmpty) + 8 * b2n m.warm
    + 2 * b2n m.slot + b2n m.counting)

/-- A word of the meter window (R370). -/
def Meter.word (m : Meter) (off : Nat) : Word :=
  let hi (d : DWord) : Word := (d >>> 32).setWidth 32
  if off = 0x00 then Config.meterDevId.setWidth 32 else if off = 0x04 then hi Config.meterDevId
  else if off = 0x08 then m.sealcnt else if off = 0x0C then m.statusWord
  else if off = 0x10 then m.mtime.setWidth 32 else if off = 0x14 then hi m.mtime
  else if off = 0x18 then m.stmtSer.setWidth 32 else if off = 0x1C then hi m.stmtSer
  else if off = 0x20 then m.lastTick.setWidth 32 else if off = 0x24 then hi m.lastTick
  else if off = 0x28 then m.alert.setWidth 32 else if off = 0x2C then m.pin.setWidth 32
  else if off = 0x30 then BitVec.ofNat 32 (m.high * 0x10000 + m.fifo.length)
  else if off = 0x34 then m.dropCnt else if off = 0x38 then m.mismCnt
  else if 0x40 ≤ off ∧ off < 0x70 then BitVec.ofNat 32 (leAt m.hashBytes (off - 0x40) 4)
  else if 0x70 ≤ off ∧ off < 0x80 then BitVec.ofNat 32 (leAt m.cfg.bytes (off - 0x70) 4)
  else if 0x1000 ≤ off ∧ off < 0x5000 then
    BitVec.ofNat 32 (leAt (tget m.audit ((off - 0x1000) / 64)).bytes ((off - 0x1000) % 64) 4)
  else if 0x8000 ≤ off ∧ off < 0x10000 then
    BitVec.ofNat 32 (leAt (tget m.stmts ((off - 0x8000) / 2048)) ((off - 0x8000) % 2048) 4)
  else 0

/-- The _LO offsets of the window. -/
def meterLo (off : Nat) : Bool := off = 0x00 ∨ off = 0x10 ∨ off = 0x18 ∨ off = 0x20

/-- A read of a word of the window through a set of latches (R61, R370). -/
def Meter.readWord (m : Meter) (latch : SMap Word) (off : Nat) : Word × SMap Word :=
  if meterLo off then (m.word off, tset latch off (m.word (off + 4)))
  else if 4 ≤ off ∧ meterLo (off - 4) then (tget latch (off - 4), latch)
  else (m.word off, latch)

/-- A read of the window reads both copies of the SRAM behind it (R354); MTR_STATUS shows SUSPECT bits. -/
def Meter.touch (m : Meter) (off : Nat) : Meter :=
  if off = 0x0C then m.readSuspect fun _ => true
  else if 0x1000 ≤ off ∧ off < 0x5000 then m.readAudit ((off - 0x1000) / 64)
  else if 0x8000 ≤ off ∧ off < 0x10000 then m.readStmt ((off - 0x8000) / 2048) else m

/-- Words of the window in ascending order through the I3C latches. -/
def Meter.readWords : Nat → Meter → Nat → List Byte × Meter
  | 0, m, _ => ([], m)
  | n + 1, m, off =>
    let r := m.readWord m.latch off
    let q := Meter.readWords n { m.touch off with latch := r.2 } (off + 4)
    (toLE 4 r.1.toNat ++ q.1, q.2)

/-! ### Commands of the meter section -/

/-- COLD_BOOT (R351, R360): the standby rail is on. -/
def execColdBoot (s : State) : Host.Outcome State Fault Refusal :=
  let t := s.withMeter s.meter.coldReset
  .next { t with unit := { t.unit with pwr := { t.unit.pwr with standby := true } } }

/-- METER_WATCHDOG (R351). -/
def execMeterWatchdog (s : State) : Host.Outcome State Fault Refusal :=
  .next (if s.meter.powered then s.withMeter (s.meter.warmReset none) else s)

/-- METER_BOOT (R363, R366). -/
def execMeterBoot (s : State) : Host.Outcome State Fault Refusal :=
  .next (if s.meter.powered ∧ !s.meter.booted then s.withMeter s.meter.finishBoot else s)

/-- BEAT (R358): the oldest beat that the emit stage has posted crosses to the meter; the unit logs METER_DROP when it is dropped. -/
def execBeat (beat : BitVec 128) (parityOk : Bool) (s : State) : Host.Outcome State Fault Refusal :=
  match s.unit.posted with
  | [] => .next s
  | b :: rest =>
    if b ≠ beat then .next s
    else
      let r := s.meter.push beat parityOk
      let t := ({ s with unit := { s.unit with posted := rest } }).withMeter r.1
      .next (if r.2 then { t with unit := t.unit.note .meterDrop } else t)

/-- BEAT_TAKE (R359). -/
def execBeatTake (upset : MeterUpset) (s : State) : Host.Outcome State Fault Refusal :=
  .next (s.withMeter (s.meter.take upset))

/-- SCHEDULED_STATEMENT (R369). -/
def execScheduledStatement (s : State) : Host.Outcome State Fault Refusal := .next (s.withMeter s.meter.scheduled)

/-- METER_SCRUB (R354). -/
def execMeterScrub (upsets : List MeterUpset) (s : State) : Host.Outcome State Fault Refusal :=
  .next (s.withMeter (s.meter.scrub upsets))

end Sys2Proof.Machine
end

