-- ==== Sys2Proof/Machine/Tables.lean ====
section
/-!
DEFINITION. The byte layouts of the tables the host sees: request entries, tenant entries, ring descriptors, parameter
blocks, ring records, log entries, mirror entries.
-/
namespace Sys2Proof.Machine

/-- STATE codes (R236). -/
def ReqState.code : ReqState → Nat
  | .free => 0 | .opened => 1 | .active => 2 | .held => 3 | .preempted => 4
  | .parking => 5 | .parked => 6 | .resuming => 7 | .draining => 8 | .closed => 9

/-- HOLD codes (R237). -/
def Hold.code : Hold → Nat
  | .none => 0 | .ringFull => 1 | .maskLate => 2 | .budget => 3
  | .rowFault => 4 | .noCandidate => 5 | .countOvf => 6 | .deferred => 7

/-- A 32-bit value of fields: each field shifted to its low bit. -/
def pack (fs : List (Nat × Nat)) : Nat := fs.foldl (fun a f => a + f.1 * 2 ^ f.2) 0

/-- The sixteen words of a request table entry (R235). DIR is the request ID. -/
def ReqEntry.words (e : ReqEntry) (id : Nat) : List Nat :=
  [pack [(e.state.code, 28), (e.hold.code, 24), (e.prio.toNat, 21), (e.tenant.toNat, 0)],
   pack [(e.deadline.toNat, 16), (b2n e.cancel, 15), (b2n e.close, 14), (b2n e.mirror, 13), (b2n e.merge, 12),
     (b2n e.countOvf, 11), (b2n e.clamped, 10), (b2n e.adopted, 9)],
   e.position.toNat, e.maxlen.toNat, e.seed.toNat % 2 ^ 32, e.seed.toNat / 2 ^ 32, e.lasttick.toNat,
   pack [(e.ring.toNat, 16), (id, 0)],
   pack [(e.adapter.toNat, 24), (b2n e.adapterV, 23), (e.delta.toNat, 16), (b2n e.deltaV, 15), (e.gambit.toNat, 8),
     (e.slot1.toNat, 2), (e.slot0.toNat, 0)],
   pack [(e.maskid1.toNat, 16), (e.maskid0.toNat, 0)],
   pack [(e.trie.toNat, 24), (b2n e.trieV, 23), (e.cursor.toNat, 0)],
   e.pblk.toNat, e.ttl.toNat, e.endcause.toNat, 0, 0]

/-- A request table entry as bytes. -/
def ReqEntry.bytes (e : ReqEntry) (id : Nat) : List Byte := (e.words id).flatMap (toLE 4)

/-- The bits of an OPEN image that must be 0: reserved and unit-owned fields (R329). -/
def openZeroMask : List Nat :=
  [0xFF1FF000, 0x0000EFFF, 0, 0, 0, 0, 0xFFFFFFFF, 0xFFFFFFFF, 0x007070F0, 0xF000F000, 0x007FFFFF, 0, 0xFFFFFFFF,
   0xFFFFFFFF, 0xFFFFFFFF, 0xFFFFFFFF]

/-- Word i of a byte string. -/
def wordAt (bs : List Byte) (i : Nat) : Nat := leAt bs (4 * i) 4

/-- Does an entry image keep every bit 0 that OPEN requires to be 0? -/
def openImageOk (img : List Byte) : Bool :=
  (List.range 16).all fun i => decide (Nat.land (wordAt img i) (openZeroMask.getD i 0) = 0)

/-- The host-supplied fields of an entry image (R235, R329). -/
def entryOfImage (img : List Byte) : ReqEntry :=
  let w := wordAt img
  { (default : ReqEntry) with
    prio := BitVec.ofNat 3 (fld (w 0) 23 21), tenant := BitVec.ofNat 12 (w 0)
    deadline := BitVec.ofNat 16 (w 1 / 2 ^ 16), merge := (w 1).testBit 12
    position := BitVec.ofNat 32 (w 2), maxlen := BitVec.ofNat 32 (w 3)
    seed := BitVec.ofNat 64 (w 4 + 2 ^ 32 * w 5)
    adapter := BitVec.ofNat 8 (w 8 / 2 ^ 24), adapterV := (w 8).testBit 23
    delta := BitVec.ofNat 4 (w 8 / 2 ^ 16), deltaV := (w 8).testBit 15
    gambit := BitVec.ofNat 4 (w 8 / 2 ^ 8), slot1 := BitVec.ofNat 2 (w 8 / 4), slot0 := BitVec.ofNat 2 (w 8)
    maskid1 := BitVec.ofNat 12 (w 9 / 2 ^ 16), maskid0 := BitVec.ofNat 12 (w 9)
    trie := BitVec.ofNat 8 (w 10 / 2 ^ 24), trieV := (w 10).testBit 23
    pblk := BitVec.ofNat 32 (w 11) }

/-- A tenant table entry (R248). -/
def Tenant.bytes (t : Tenant) : List Byte :=
  toLE 4 t.balance.toNat ++ toLE 4 t.refill.toNat ++ toLE 4 t.ceiling.toNat ++ toLE 4 t.overdraft.toNat
    ++ toLE 4 t.period.toNat ++ toLE 4 t.next.toNat ++ toLE 4 (t.state.toNat * 2 ^ 30) ++ toLE 4 0

/-- A ring descriptor (R261). -/
def RingDesc.bytes (d : RingDesc) : List Byte :=
  toLE 8 (pack [(b2n d.valid, 63), (d.tenant.toNat, 48), (d.base.toNat / 256, 8), (d.log2size.toNat, 0)])
    ++ toLE 4 d.prod.toNat ++ toLE 2 d.notify.toNat ++ [d.count0, d.count1] ++ toLE 8 d.seq0.toNat ++ toLE 8 d.seq1.toNat

/-- A ring record with its CRC (R264, R267); `extra` is added to KIND in a replay response (R265). -/
def RingRec.bytes (r : RingRec) (extra : Nat := 0) : List Byte :=
  let b := toLE 4 (pack [(r.kind.toNat + extra, 24), (r.token.toNat, 0)]) ++ toLE 4 r.position.toNat
    ++ toLE 4 r.logprob.toNat ++ toLE 2 r.flags.toNat
  b ++ toLE 2 (crc16 b)

/-- A log entry (R413). -/
def LogEnt.bytes (e : LogEnt) : List Byte :=
  toLE 8 e.time.toNat ++ toLE 4 e.seq.toNat ++ toLE 4 e.tick.toNat ++ toLE 2 e.code.toNat
    ++ [e.src, if e.fault then 0x80#8 else 0#8] ++ toLE 4 e.arg0.toNat ++ toLE 4 e.arg1.toNat ++ toLE 4 e.arg2.toNat

/-- MSTATE codes (R401). -/
def MState.code : MState → Nat
  | .none => 0 | .pending => 1 | .bound => 2 | .refused => 3 | .lost => 4 | .stale => 5

/-- A mirror table entry (R401). -/
def MirrorEnt.bytes (e : MirrorEnt) : List Byte :=
  toLE 4 (pack [(e.mstate.code, 29), (b2n e.shadow, 28), (e.tag.toNat, 20), (e.peer.toNat, 0)])
    ++ toLE 4 e.peerReq.toNat ++ toLE 4 e.lastPos.toNat ++ toLE 4 e.lastSeen.toNat

/-- A clamped parameter block (R240). -/
def Params.bytes (p : Params) : List Byte :=
  toLE 4 p.temp.toNat ++ toLE 4 p.topP.toNat ++ toLE 4 p.minP.toNat ++ toLE 4 p.rep.toNat ++ toLE 4 p.presence.toNat
    ++ toLE 4 p.frequency.toNat ++ toLE 4 (pack [(p.rescore.toNat, 23), (p.logprobs.toNat, 18), (p.topK.toNat, 0)])
    ++ toLE 4 (pack [(b2n p.strict, 5), (p.nstop.toNat, 0)])
    ++ (List.range 8).flatMap fun i => toLE 4 (p.stopTok.getD i 0#24).toNat

/-- Change a register of the physical atoll that serves each logical atoll. -/
def Chip.mapAtl (c : Chip) (off : Nat) (f : Word → Word) : Chip :=
  (List.range 16).foldl (fun c a => c.setAtl (c.physOf a) off (f (c.atlReg (c.physOf a) off))) c

/-! ### Lookups and changes by request -/

/-- A request's entry. -/
def Chip.rq (c : Chip) (q : Nat) : ReqEntry := tget c.req q
/-- What the unit keeps beside a request's entry. -/
def Chip.ax (c : Chip) (q : Nat) : ReqAux := tget c.aux q
/-- A request's clamped parameter block. -/
def Chip.pm (c : Chip) (q : Nat) : Params := tget c.prm q
/-- Change a request's entry. -/
def Chip.modRq (c : Chip) (q : Nat) (f : ReqEntry → ReqEntry) : Chip := { c with req := tmod c.req q f }
/-- Change what the unit keeps beside a request's entry. -/
def Chip.modAx (c : Chip) (q : Nat) (f : ReqAux → ReqAux) : Chip := { c with aux := tmod c.aux q f }
/-- Change a ring descriptor. -/
def Chip.modRing (c : Chip) (d : Nat) (f : RingDesc → RingDesc) : Chip := { c with ring := tmod c.ring d f }
/-- Change a mailbox. -/
def Chip.modMbx (c : Chip) (m : Nat) (f : Mailbox → Mailbox) : Chip := { c with mbx := tmod c.mbx m f }
/-- A mailbox. -/
def Chip.mb (c : Chip) (m : Nat) : Mailbox := tget c.mbx m

/-- The request IDs whose entry is not FREE, ascending. -/
def Chip.liveIds (c : Chip) : List Nat := (c.req.filter fun p => p.2.state ≠ .free).map Prod.fst

/-- A request is in none of FREE and CLOSED. -/
def ReqEntry.live (e : ReqEntry) : Bool := e.state ≠ .free ∧ e.state ≠ .closed

/-- A hold is taken: HELD with its cause. -/
def Chip.hold (c : Chip) (q : Nat) (h : Hold) : Chip := c.modRq q fun e => { e with state := .held, hold := h }

/-- Requests by state for UNIT_REQLIVE (R275). -/
def Chip.reqLive (c : Chip) : Nat :=
  let n (f : ReqEntry → Bool) := (c.req.filter fun p => f p.2).length
  pack [(n fun e => e.state = .parking ∨ e.state = .parked ∨ e.state = .resuming, 16), (n ReqEntry.live, 0)]

/-- A hold is taken by the planner or at C; a NOTICE HELD is owed on entry into one of four holds (R242, R266). -/
def Chip.takeHold (c : Chip) (q : Nat) (h : Hold) : Chip :=
  let e := c.rq q
  let entry := !(e.state = .held && e.hold = h) && [Hold.rowFault, .noCandidate, .countOvf, .budget].contains h
  let c := if entry then c.modAx q fun a => { a with notices := a.notices ++ [(1#8, BitVec.ofNat 16 h.code)] } else c
  c.hold q h

/-- A request's mirror entry. -/
def Chip.mr (c : Chip) (q : Nat) : MirrorEnt := tget c.mir q

/-- Change a mirror entry. -/
def Chip.modMir (c : Chip) (q : Nat) (f : MirrorEnt → MirrorEnt) : Chip := { c with mir := tmod c.mir q f }

/-- A shadow becomes STALE (R405). -/
def Chip.mirStale (c : Chip) (q : Nat) : Chip := (c.modMir q fun r => { r with mstate := .stale }).note .mirrorStale 27

/-! ### The page pool and what routines stage (R142, R335) -/

/-- Free pages, uses by kind, and the low-water mark of a logical atoll's pool in its registers (R142). -/
def Chip.syncPool (c : Chip) (at_ : Nat) : Chip :=
  match c.plan.cur with
  | none => c
  | some p =>
    let uses := (c.page.filter fun e => e.1 / 0x8000 = at_).map fun e => e.2.use
    let counts := (uses.filter fun u => u = .count).length
    let masks := (uses.filter fun u => u ≠ .count ∧ u ≠ .free).length
    let free := p.pool - counts - masks
    let ph := c.physOf at_
    let low := min (fld (c.atlReg ph 0x44).toNat 31 16) free
    (c.setAtl ph 0x44 (BitVec.ofNat 32 (low * 65536 + free))).setAtl ph 0x48 (BitVec.ofNat 32 (masks * 65536 + counts))

/-- Free one page. -/
def Chip.dropPage (c : Chip) (at_ p : Nat) : Chip :=
  (({ c with page := tdel c.page (pageKey at_ p) }).syncPool at_).eventAtl (c.physOf at_) 0x131

/-- Free pages given as (key, lagoon, page). -/
def Chip.dropAll (c : Chip) (l : List (Nat × Nat × Nat)) : Chip := l.foldl (fun c g => c.dropPage g.2.1 g.2.2) c

/-- The pages of a table as (key, lagoon, page). -/
def tablePages (m : SMap (Option Nat)) : List (Nat × Nat × Nat) :=
  m.filterMap fun e => e.2.map fun p => (e.1, e.1 / 32, p)

/-- Free the grammar masks of a request that a test picks. -/
def Chip.freeGrammar (c : Chip) (q : Nat) (pick : GrammarMask → Bool) : Chip :=
  let mine (g : GrammarMask) : Bool := decide (g.req.toNat = q) && pick g
  let gone := c.grammar.filter mine
  let c := gone.foldl (fun c g => c.dropAll (tablePages g.pages)) c
  { c with grammar := c.grammar.filter fun g => !mine g }

/-- A mask that the request reads has a bad page and no reload has taken effect (R387). -/
def Chip.maskFault (c : Chip) (q : Nat) : Bool :=
  let a := c.ax q
  let bad (b : Option Nat) : Bool := match b with
    | some id => (tget c.statics id).bad
    | none => false
  bad a.bound0 || bad a.bound1 || (tget c.deny (c.rq q).tenant.toNat).bad || (tget c.deny 0).bad

/-- What a routine has staged is discarded: its pages, and a staged plan. -/
def Chip.dropStaged (c : Chip) (r : Routine) : Chip :=
  let c := c.dropAll r.pages
  if r.code = 0x0400 then ({ c with plan := { c.plan with staged := none } }).mapAtl 0x64 (· &&& ~~~ 0xC00#32) else c

/-- A request in PARKING or RESUMING whose routine is discarded returns to the state it had (R242). -/
def Chip.returnReq (c : Chip) (r : Routine) : Chip :=
  let q := r.target
  if r.code = 0x0104 then
    let a := c.ax q
    c.modRq q fun e => if e.state = .parking then { e with state := a.former, hold := a.formerHold } else e
  else if r.code = 0x0105 then
    c.modRq q fun e => if e.state = .resuming then { e with state := .parked, ttl := BitVec.ofNat 32 r.key } else e
  else c

/-- A routine is discarded, with the return of its request. -/
def Chip.discard (c : Chip) (r : Routine) : Chip := (c.dropStaged r).returnReq r

end Sys2Proof.Machine
end

