-- ==== Sys2Proof/Machine/Messages.lean ====
section
/-!
DEFINITION. Mailboxes: messages, doorbells and header checks, the end of a command, fail-stop, and the fault of a routine (R317 to R326,
R335, R386), with the refill and TTL steps of one tick (R249, R260).
-/
namespace Sys2Proof.Machine

/-! ### Messages (R322) -/

/-- COMMAND of a mailbox's message. -/
def Mailbox.code (b : Mailbox) : Nat := rdLE b.msg 0 2
/-- SEQ of a mailbox's message. -/
def Mailbox.seq (b : Mailbox) : Half := BitVec.ofNat 16 (rdLE b.msg 2 2)
/-- TARGET of a mailbox's message. -/
def Mailbox.target (b : Mailbox) : Nat := rdLE b.msg 8 4
/-- FLAGS.START. -/
def Mailbox.start (b : Mailbox) : Bool := (rdLE b.msg 6 2).testBit 0
/-- FLAGS.RAISE. -/
def Mailbox.raise (b : Mailbox) : Bool := (rdLE b.msg 6 2).testBit 1
/-- n payload bytes from offset i, as a number. -/
def Mailbox.pay (b : Mailbox) (i n : Nat) : Nat := rdLE b.msg (16 + i) n

/-- The commands of firmware interface 3.0: code, payload length, privilege (R329, R418, R440, R449). -/
def cmdTable : List (Nat × Nat × Bool) :=
  [(0x0000, 0, false), (0x0001, 0, false), (0x0002, 0, false), (0x0100, 80, false), (0x0101, 68, false),
   (0x0102, 0, false), (0x0103, 0, false), (0x0104, 4, false), (0x0105, 0, false), (0x0106, 16, true),
   (0x0107, 12, false), (0x0108, 0, false), (0x0200, 32, true), (0x0201, 8, true), (0x0300, 16, true),
   (0x0301, 16, true), (0x0302, 16, true), (0x0303, 16, true), (0x0304, 16, false), (0x0305, 0, false)] ++
  [(0x0400, 8, true), (0x0401, 4, true), (0x0402, 4, true), (0x0403, 28, true), (0x0500, 8, true), (0x0501, 0, true),
   (0x0600, 0, true), (0x0601, 0, true), (0x0602, 8, true), (0x0603, 16, true), (0x0700, 4, true), (0x0701, 0, true),
   (0x0702, 0, true), (0x0703, 4, true), (0x0704, 0, true), (0x0800, 8, false), (0x0F00, 4, true), (0x0F01, 0, true),
   (0x0F02, 4, true), (0x0F03, 4, true)]

/-- The row of a command code. -/
def cmdRow (code : Nat) : Option (Nat × Nat × Bool) := cmdTable.find? fun r => r.1 == code

/-- Does the command need privilege now? PMC_FREEZE and PMC_THAW do not while UNIT_PMACCESS.UCMD is 1 (R440). -/
def Chip.needsPriv (c : Chip) (code : Nat) (priv : Bool) : Bool :=
  priv && !((code = 0x0701 ∨ code = 0x0702) ∧ c.rbit 0x200 1)

/-- UNIT_STATUS.BOOT reads recovery (R349, R458). -/
def Chip.recovering (c : Chip) : Bool := c.rbit 0x110 9 && !c.ready

/-- The header checks in order, but for the sequence test: the status of the first that fails (R324). In recovery only
four codes are defined (R349). -/
def Chip.headerCheck (c : Chip) (m : Nat) (b : Mailbox) : Option Half :=
  let flags := rdLE b.msg 6 2
  match cmdRow b.code with
  | none => some 0x0010
  | some (code, len, priv) =>
    if c.recovering ∧ !(code = 0x0000 ∨ code = 0x0001 ∨ code = 0x0500 ∨ code = 0x0501) then some 0x0010
    else if rdLE b.msg 4 2 ≠ len then some 0x0011
    else if 4 ≤ flags ∨ rdLE b.msg 12 4 ≠ 0 ∨ (flags.testBit 1 ∧ code ≠ 0x0501)
        ∨ (flags.testBit 0 ∧ code ≠ 0x0100 ∧ code ≠ 0x0101) then some 0x0012
    else if c.needsPriv code priv ∧ !c.rbit 0x120 m then some 0x0014
    else none

/-! ### The end of a command -/

/-- The response bytes: header and payload (R322). -/
def respBytes (b : Mailbox) (status : Half) (flags : Nat) (data : List Byte) : List Byte :=
  rdBytes b.msg 0 4 ++ toLE 2 data.length ++ toLE 2 flags ++ rdBytes b.msg 8 4 ++ toLE 2 status.toNat ++ [0#8, 0#8] ++ data

/-- A mailbox enters DONE or ERROR with its response in MBX_RESP: source m / 4 is set (R344), the latency sampled (R432). -/
def Chip.enterEnd (c : Chip) (m : Nat) (b : Mailbox) (done : Bool) : Chip :=
  let c := { c with
    staging := tdel c.staging m
    mbx := tset c.mbx m { b with
      state := if done then .done else .error, queued := false, due := false, apply := false, refuse := none, ecc := [], routine := none } }
  let c := if done then c else c.event 0x041
  (c.sample 2 (histBin (c.clk.ucyc - b.ringTime))).irq (m / 4)

/-- A header check fails: ERROR at once, MBX_SEQ and the stored response unchanged (R324). -/
def Chip.failHeader (c : Chip) (m : Nat) (b : Mailbox) (status : Half) : Chip :=
  c.enterEnd m { b with resp := wrBytes [] 0 (respBytes b status 0 []) } false

/-- An accepted command ends: the response is stored, and statuses below 0x0010 end in DONE (R326, R330). -/
def Chip.finish (c : Chip) (m : Nat) (status : Half) (data : List Byte := []) (clamped : Bool := false) : Chip :=
  let b := c.mb m
  let r := wrBytes [] 0 (respBytes b status (b2n clamped) data)
  let done := decide (status.toNat < 16)
  c.enterEnd m { b with resp := r, stored := r, endedDone := done } done

/-- Mailbox commands that keep working after a fail-stop (R386). -/
def worksStopped (code : Nat) : Bool :=
  code = 0x0000 ∨ code = 0x0001 ∨ code = 0x0002 ∨ code = 0x0600 ∨ code = 0x0800

/-- Mailbox commands that are applied at once while the unit is frozen (R446). -/
def worksFrozen (code : Nat) : Bool :=
  worksStopped code ∨ (0x0700 ≤ code ∧ code ≤ 0x0704) ∨ (0x0F00 ≤ code ∧ code ≤ 0x0F03)

/-- Is a command accepted now due at once (R327, R349, R446), rather than in the next step's window (R326)? -/
def Chip.dueAtOnce (c : Chip) (code : Nat) : Bool :=
  c.recovering || (c.ready && !c.run && !c.stp.active) || (c.dbg.frozen && worksFrozen code)

/-- A step has started in this cycle: its T+0 (R50). -/
def Chip.atStart (c : Chip) : Bool := c.stp.active && decide (c.clk.ucyc = c.stp.t0)

/-- What a step's T+0 brings takes place now: in its cycle, or in the next one where holdover has started the step, since a holdover
tick is settled as its cycle ends (R57, R282, R396). -/
def Chip.atT0 (c : Chip) : Bool :=
  c.stp.active && (decide (c.clk.ucyc = c.stp.t0) || (c.stp.holdover && decide (c.clk.ucyc = c.stp.t0 + 1)))

/-- RING (R319, R321, R323, R324, R326). -/
def Chip.doRing (c : Chip) (m : Nat) : Chip :=
  let b := c.mb m
  match b.state with
  | .busyBoot => c
  | .posted | .accepted => c.note .mbxBusy 0 m
  | _ =>
    let b := { b with state := .posted, ringTime := c.clk.ucyc, apply := false, refuse := none, ecc := [], due := false }
    match c.headerCheck m b with
    | some st => c.failHeader m b st
    | none =>
      let d := (b.seq - b.seqLast).toNat
      if b.seqValid ∧ d = 0 then
        c.enterEnd m { b with resp := tset b.stored 6 (tget b.stored 6 ||| 2#8) } b.endedDone
      else if b.seqValid ∧ 32768 ≤ d then c.failHeader m b 0x0013
      else { c with mbx := tset c.mbx m { b with state := .accepted, seqValid := true, seqLast := b.seq
                                                 due := c.dueAtOnce b.code || c.atStart } }

/-- ACK (R319). -/
def Chip.doAck (c : Chip) (m : Nat) : Chip :=
  c.modMbx m fun b => if b.state = .done ∨ b.state = .error then { b with state := .idle } else b

/-- A step starts: every ACCEPTED command rung up to now is due in its window (R326). -/
def Chip.markDue (c : Chip) : Chip :=
  { c with mbx := c.mbx.map fun p => (p.1, if p.2.state = .accepted ∧ p.2.routine.isNone then { p.2 with due := true } else p.2) }

/-! ### Fail-stop (R386) -/

/-- The routines in progress end with FAILSTOPPED, and what they have staged is discarded (R422). PARK_FAIL stays as it is (log entry 37). -/
def Chip.stopRoutines (c : Chip) : Chip :=
  c.mbx.foldl (fun c p => match p.2.routine with
    | some r => (if r.code = 0x0501 ∧ r.ready then c else if r.failed = some 0x0050 then c.returnReq r else c.discard r).finish p.1 0x0077
    | none => c) c

/-- The unit stops service until reset, with a cause (R386, R421): RUN clears, the step in progress goes no further,
accepted commands are due at once. -/
def Chip.failStop (c : Chip) (cause : Nat) : Chip :=
  if c.stopped then c
  else
    let c := c.setReg 0x160 ((c.reg 0x160 &&& 0x8FFFFFFF#32) ||| 0x80000000#32 ||| (BitVec.ofNat 32 cause <<< 28))
    let c := ({ c with
      stp := { c.stp with active := false, mirrorDue := [], mirrorWait := [], beats := [], advance := [] }
      lock := { c.lock with own := none, theirs := none, waiting := false } }).clrReg 0x008 1#32
    ((c.note .failstop).stopRoutines).markDue

/-- A step is in progress and not halted by debug mode (R446, R447). -/
def Chip.runs (c : Chip) : Bool := c.stp.active && !c.halts

/-! ### Refill and TTL duties (R249, R260) -/

/-- The entry cannot be read (R387). -/
def Tenant.unreadable (t : Tenant) : Bool := t.badSet || t.badBal

/-- One tick of a tenant's refill (R249). -/
def Tenant.tick (t : Tenant) : Tenant :=
  if t.unreadable ∨ t.period = 0#32 ∨ t.state = 0#2 then t
  else
    let n := t.next - 1
    if n ≠ 0#32 then { t with next := n }
    else if t.balance.toInt < t.ceiling.toInt then
      let b := satI32 (t.balance.toInt + t.refill.toNat)
      { t with next := t.period, balance := if b.toInt < t.ceiling.toInt then b else t.ceiling }
    else { t with next := t.period }

/-- One tick of a parked request's TTL (R260). -/
def ReqEntry.tickTtl (e : ReqEntry) : ReqEntry :=
  if e.state = .parked ∧ e.ttl ≠ 0#32 then { e with ttl := e.ttl - 1 } else e

/-- A routine that a staging fault has discarded ends with FAULT; its request returns to the state it had (R242, R335). -/
def Chip.endFault (c : Chip) (m : Nat) : Chip :=
  match (c.mb m).routine with
  | none => c
  | some r => if r.failed = some 0x0050 then (c.returnReq r).finish m 0x0050 else c

/-- Routines that a staging fault has discarded end (R335). -/
def Chip.endFaults (c : Chip) : Chip := (List.range 16).foldl Chip.endFault c

/-- A fault while staging discards what is staged; the command ends with FAULT, and the entry of its request changes, at the next command
window, or at once while RUN is 0 and no step runs (R234, R242, R327, R335). -/
def Chip.routineFault (c : Chip) (m : Nat) : Chip :=
  match (c.mb m).routine with
  | none => c
  | some r =>
    if (r.code = 0x0501 ∧ r.ready) ∨ r.failed = some 0x0050 then c
    else
      let c := if r.code = 0x0104 ∨ r.code = 0x0105 then c.orReg 0x0C0 0x20#32 else c
      let c := ((c.dropStaged r).note .routineFault 28 r.code.toNat r.target).modMbx m fun b =>
        { b with routine := some { r with failed := some 0x0050, pages := [] } }
      if c.stp.active ∨ (c.ready ∧ c.run) then c else c.endFaults

end Sys2Proof.Machine
end

