-- ==== Sys2Proof/Machine/Faults.lean ====
section
/-!
DEFINITION. Fault drops, strikes, and the staging of repairs (R382, R383, R396 to R399).
-/
namespace Sys2Proof.Machine

/-! ### Rows of the step -/

/-- Change the rows of the step that a test picks. -/
def Chip.mapRows (c : Chip) (pick : Row → Bool) (f : Row → Row) : Chip :=
  { c with stp := { c.stp with rows := c.stp.rows.map fun r => if pick r then f r else r } }

/-- The rows of the step in a wave. -/
def Chip.waveRows (c : Chip) (wave : Nat) : List Row := c.stp.rows.filter fun r => r.wave = wave

/-- The row of a wave in a slot. -/
def Chip.rowAt (c : Chip) (wave slot : Nat) : Option Row := c.stp.rows.find? fun r => r.wave = wave ∧ r.slot = slot

/-- Drop the picked rows that are not dropped yet, each counted as an event of the given code (R54, R152, R383). -/
def Chip.dropRows (c : Chip) (pick : Row → Bool) (h : Hold) (code : Nat) : Chip :=
  let n := (c.stp.rows.filter fun r => pick r ∧ r.drop = none).length
  (c.mapRows (fun r => pick r ∧ r.drop = none) fun r => { r with drop := some h, predOff := true }).event code n

/-- Rows whose grammar mask has not come are dropped with cause MASK_LATE (R152). -/
def Chip.maskDrop (c : Chip) (pick : Row → Bool) : Chip :=
  let n := (c.stp.rows.filter fun r => pick r ∧ r.drop = none).length
  let c := if n = 0 then c else (c.count 0x06C n).orReg 0x060 4#32
  c.dropRows pick .maskLate 0x012

/-- A fault drop of the picked rows: with a row go all rows of its request. Each row dropped counts in UNIT_FDROPCNT, and
UNIT_RPRSTAT.FDROP is set (R383, R421). A row past its commit point is not dropped. -/
def Chip.faultDrop (c : Chip) (pick : Row → Bool) : Chip :=
  let reqs := ((c.stp.rows.filter fun r => pick r && !r.faultDrop).map fun r => r.req)
  if c.stp.committed ∨ !c.stp.active ∨ reqs = [] then c
  else
    let hit (r : Row) : Bool := reqs.contains r.req && !r.faultDrop
    let n := (c.stp.rows.filter hit).length
    let c := c.mapRows hit fun r => { r with drop := some (r.drop.getD .deferred), faultDrop := true, predOff := true }
    ((c.count 0x178 n).orReg 0x160 2#32).event 0x013 n

/-! ### Spares (R17, R396, R421) -/

/-- The half-register of spare lane k of a physical atoll. -/
def Chip.spareHalf (c : Chip) (p k : Nat) : Nat := fld (c.atlReg p (0x80 + 4 * (k / 2))).toNat (16 * (k % 2) + 15) (16 * (k % 2))

/-- Write the half-register of spare lane k. -/
def Chip.setSpareHalf (c : Chip) (p k v : Nat) : Chip :=
  let off := 0x80 + 4 * (k / 2)
  let w := (c.atlReg p off).toNat
  c.setAtl p off (BitVec.ofNat 32 (if k % 2 = 0 then w / 65536 * 65536 + v else w % 65536 + v * 65536))

/-- The spare lanes of a physical atoll that a repair may take, ascending: not in use, and not found faulty while idle (R390). -/
def Chip.freeSpares (c : Chip) (p : Nat) : List Nat :=
  (List.range 8).filter fun k => !(c.spareHalf p k).testBit 15 && !c.rpr.dead.contains (p, k)

/-- The physical lane that serves a logical lane of a physical atoll; of two spares taken for it, the later (R19, R421). -/
def Chip.physLane (c : Chip) (p lane : Nat) : Nat :=
  match ((List.range 8).reverse).find? fun k => c.spareHalf p k = 0x8000 + lane with
  | some k => 256 + k
  | none => lane

/-- The logical lane that a physical lane serves, if any. -/
def Chip.logicalLane (c : Chip) (p pl : Nat) : Option Nat :=
  if 256 ≤ pl then
    let h := c.spareHalf p (pl - 256)
    if h.testBit 15 ∧ !h.testBit 14 ∧ c.physLane p (h % 256) = pl then some (h % 256) else none
  else if c.physLane p pl = pl then some pl else none

/-- Repairs staged in a physical atoll that take a spare lane or column. -/
def Part.takesSpare (p : Nat) : Part → Bool
  | .lane q _ => q = p
  | .cksum q => q = p
  | _ => false

/-- The background slot time that a repair's copy takes, in UCLK (R396); a row's copy fits any slot. -/
def Part.copyLen : Part → Nat
  | .row _ _ => 1
  | .lane _ _ => 512
  | .cksum _ => 0
  | .atoll _ => 16640

/-- Add a repair to the staged ones unless it is staged already (R396). -/
def Chip.stage (c : Chip) (x : Part) : Chip :=
  if c.rpr.staged.any fun s => s.1 == x then c
  else { c with rpr := { c.rpr with staged := c.rpr.staged ++ [(x, x.copyLen, c.tick.cnt)] } }

/-- May the spare atoll still be brought in: not in use, not found faulty while idle (R390), and no repair staged that takes it? -/
def Chip.spareAtollFree (c : Chip) : Bool :=
  !c.rbit 0x164 31 && !c.rpr.deadAtolls.contains (c.rfld 0x164 12 8) && !(c.rpr.staged.any fun s => match s.1 with
    | .atoll _ => true
    | _ => false)

/-- An atoll that serves no logical atoll is found faulty: it is never brought in, and a repair staged onto it has no spare left (R390,
R399). -/
def Chip.idleAtollFaulty (c : Chip) (p : Nat) : Chip :=
  let wanted := c.rfld 0x164 12 8 = p ∧ !c.rbit 0x164 31 ∧ c.rpr.staged.any fun s => match s.1 with
    | .atoll _ => true
    | _ => false
  let c := { c with rpr := { c.rpr with deadAtolls := if c.rpr.deadAtolls.contains p then c.rpr.deadAtolls else p :: c.rpr.deadAtolls } }
  if wanted then c.failStop 1 else c

/-- Stage an atoll repair, which discards the atoll's staged lane repairs; with no spare atoll left the unit fail-stops
with cause NO_SPARE (R399). -/
def Chip.stageAtoll (c : Chip) (p : Nat) : Chip :=
  if c.rpr.staged.any fun s => s.1 == .atoll p then c
  else if (c.logicalOf p).isNone then c.idleAtollFaulty p
  else if c.spareAtollFree then
    ({ c with rpr := { c.rpr with staged := c.rpr.staged.filter fun s => !(s.1.takesSpare p) } }).stage (.atoll p)
  else c.failStop 1

/-- Stage a repair that takes a spare lane or column of the atoll; with none left it becomes an atoll repair (R396). -/
def Chip.stageSpare (c : Chip) (p : Nat) (x : Part) : Chip :=
  if c.rpr.staged.any fun s => s.1 == x ∨ s.1 == .atoll p then c
  else if (c.rpr.staged.filter fun s => s.1.takesSpare p).length < (c.freeSpares p).length then c.stage x
  else c.stageAtoll p

/-- Stage the retirement of a logical lane of a physical atoll. -/
def Chip.stageLane (c : Chip) (p lane : Nat) : Chip := c.stageSpare p (.lane p lane)

/-- A strike of the physical lane that serves a global logical lane: the second within 1,024 steps retires the lane (R382, R396). Its
self-test goes ahead of the rotation (R392). -/
def Chip.strike (c : Chip) (g : Nat) : Chip :=
  let p := c.physOf (g / 256)
  let l := c.physLane p (g % 256)
  let now := c.stp.num
  let recent := c.rpr.strikes.filter fun x => decide ((now - x.2.2).toNat < 1024)
  let again := recent.any fun x => x.1 == p && x.2.1 == l
  let struck := if c.rpr.struck.contains (p, l) then c.rpr.struck else c.rpr.struck ++ [(p, l)]
  let c := { c with rpr := { c.rpr with strikes := (p, l, now) :: recent, struck := struck } }
  if again then c.stageLane p (g % 256) else c

/-- An accumulator entry of a lane is found with bad parity (R96, R380): the event, its counter, a strike. -/
def Chip.accFound (c : Chip) (at_ lane : Nat) : Chip :=
  let p := c.physOf at_
  let c := c.setAtl p 0x24 (sat32 (c.atlReg p 0x24) 1)
  let c := c.orAtl p 0x0C 0x10#32
  (c.note .accParity (p + 1)).strike (256 * at_ + lane)

/-- An accumulator entry of a lane reads with bad parity: what that is (R96), and a fault drop of the row slot of the set's wave. -/
def Chip.accParity (c : Chip) (at_ lane : Nat) (wave slot : Nat) : Chip :=
  (c.accFound at_ lane).faultDrop fun r => r.wave = wave ∧ r.slot = slot

/-- Row slots whose accumulator entries a debug read has found bad are fault-dropped once the step runs and has its rows (R451). -/
def Chip.accDrops (c : Chip) : Chip :=
  if c.dbg.accBad = [] ∨ (c.stp.active ∧ !c.stp.planned) then c
  else
    let set (x : Nat × Nat × Nat) : SetInfo := let st := tget c.atoll x.1; if x.2.1 = 1 then st.set1 else st.set0
    { c with dbg := { c.dbg with accBad := [] } }.faultDrop fun r =>
      c.dbg.accBad.any fun x => decide (r.wave = (set x).wave ∧ r.slot = x.2.2)

/-- A strait transfer is found bad (R380): bad parity strikes the lane, copies that differ are logged; every row that it carries is
fault-dropped. -/
def Chip.straitFound (c : Chip) (x : StraitFind) : Chip :=
  (match x.lane with
    | some g => (c.note .straitParity).strike g
    | none => c.note .dupMismatch).faultDrop fun r => x.rows.contains (r.wave, r.slot)

/-- Strait transfers that are found bad. -/
def Chip.straits (c : Chip) (l : List StraitFind) : Chip := l.foldl Chip.straitFound c

/-! ### Spare rows (R17, R396, R399, R420) -/

/-- Spare rows of a macro. -/
def macroSpares (k : Nat) : Nat := 4 * Config.macroRows512 k

/-- Spare rows of a macro that repairs have taken, in force or staged. -/
def Chip.rowsTaken (c : Chip) (k : Nat) : Nat :=
  Config.fusedRows k + tget c.rpr.rows k + (c.rpr.staged.filter fun s => match s.1 with
    | .row m a => Config.sramMacro m a = k
    | _ => false).length

/-- Is a spare row left in the macro of a word? -/
def Chip.spareRowLeft (c : Chip) (mem addr : Nat) : Bool :=
  decide (c.rowsTaken (Config.sramMacro mem addr) < macroSpares (Config.sramMacro mem addr))

/-- A spare row replaces the row of a word: UNIT_SRAMRPR counts rows spared, and macros whose last spare row has been taken. -/
def Chip.takeRowSpare (c : Chip) (mem addr : Nat) : Chip :=
  let k := Config.sramMacro mem addr
  let c := { c with rpr := { c.rpr with rows := tmod c.rpr.rows k fun n => n + 1 } }
  let w := (c.reg 0x174).toNat
  let last := macroSpares k ≤ Config.fusedRows k + tget c.rpr.rows k
  c.setReg 0x174 (BitVec.ofNat 32 (min 65535 (w / 65536 + b2n last) * 65536 + min 65535 (w % 65536 + 1)))

/-- A corrected error (R381). -/
def Chip.corrected (c : Chip) (n : Nat := 1) : Chip := (c.count 0x16C n).event 0x050 n

/-- An uncorrectable word is found: counted, UE set, ECC_UE logged with the memory and word address (R381, R421). -/
def Chip.eccUe (c : Chip) (mem addr : Nat) : Chip := ((c.count 0x170 1).orReg 0x160 1#32).note .eccUe 0 mem addr

end Sys2Proof.Machine
end

