-- ==== Sys2Proof/Machine/Ecc.lean ====
section
/-!
DEFINITION. Bad words in memories: where they are, what a read that meets one does, and row sparing (R22, R381, R385, R387, R396, R399).
-/
namespace Sys2Proof.Machine

/-! ### Memories and their spare rows (R22, R387, R396) -/

/-- The code of a memory, as ECC_UE reports it. -/
def siteCode : MemSite → Nat
  | .scratchpad _ => 1
  | .lagoonData _ => 2
  | .countPage _ _ => 3
  | .dirEntry _ _ => 4
  | .maskPage _ _ => 5
  | .deltaList _ _ => 6
  | .adapterSlot _ => 7
  | .trieStore _ _ => 8
  | .candStore _ => 9
  | .reqEntry _ => 10
  | .tenantEntry _ => 11
  | .replayBuffer _ => 12
  | .eventLog => 13
  | .staging _ => 14
  | .atollImem _ _ => 15
  | .fwBank _ => 16
  | .fwData => 17
  | .mergeBuffer _ => 18
  | .mirrorBuffer _ => 19
  | .logWrite => 13

/-- The global logical lane whose scratchpad the site is in. -/
def sitePad : MemSite → Option Nat
  | .scratchpad g => some g
  | _ => none

/-- The logical atoll whose lagoon or instruction memory the site is in. -/
def siteAtoll : MemSite → Option Nat
  | .lagoonData g => some (g / 256)
  | .countPage a _ | .dirEntry a _ | .maskPage a _ | .deltaList a _ | .atollImem a _ => some a
  | _ => none

/-- The place of a word within a memory. The memories of an atoll are told apart by the physical atoll, so that the spare atoll's macros
have their own spare rows (R17). -/
def Chip.placeOf (c : Chip) (site : MemSite) (addr : Nat) : Nat :=
  match (sitePad site).map (· / 256), siteAtoll site with
  | some a, _ => c.physOf a * 2 ^ 32 + addr
  | none, some a => c.physOf a * 2 ^ 32 + addr
  | none, none => addr

/-- A row repair: with no spare row left in the macro, a lane or atoll repair instead, or SPARE_EXHAUSTED in unit SRAM or a controller
memory (R396, R399). -/
def Chip.spareRow (c : Chip) (site : MemSite) (addr : Nat) : Chip :=
  let w := c.placeOf site addr
  if c.rpr.staged.any fun s => s.1 == .row (siteCode site) w then c
  else if c.spareRowLeft (siteCode site) w then c.stage (.row (siteCode site) w)
  else match sitePad site, siteAtoll site with
    | some g, _ => c.stageLane (c.physOf (g / 256)) (g % 256)
    | none, some a => c.stageAtoll (c.physOf a)
    | none, none => (c.orReg 0x160 4#32).note .spareExhausted

/-- A scrub pass corrects a word: a row in which another pass has corrected one already is to be spared (R381, R396). -/
def Chip.scrubbed (c : Chip) (site : MemSite) (addr pass : Nat) : Chip :=
  let c := c.corrected
  let k := Config.sramRow (siteCode site) (c.placeOf site addr)
  match tget c.rpr.worn k with
  | some n => if n = pass then c else ({ c with rpr := { c.rpr with worn := tdel c.rpr.worn k } }).spareRow site addr
  | none => { c with rpr := { c.rpr with worn := tset c.rpr.worn k (some pass) } }

/-! ### Uncorrectable words (R385, R387) -/

/-- The request of a count page. -/
def Chip.pageOwner (c : Chip) (at_ p : Nat) : Option Nat :=
  (c.dir.find? fun e => decide (e.1 / 256 / 4096 = at_ ∧ e.2.getLsbD 15 ∧ e.2.toNat % 0x8000 = p)).map fun e => e.1 / 256 % 4096

/-- A bound shadow no longer follows its primary (R387, R405). -/
def Chip.shadowLost (c : Chip) (q : Nat) : Chip := if (c.mr q).shadow ∧ (c.mr q).mstate = .bound then c.mirStale q else c

/-- A request has lost counts to a bad word (R387): COUNT_OVF, with which a shadow is STALE (R405). -/
def Chip.countUe (c : Chip) (q : Nat) : Chip :=
  (((c.modRq q fun e => { e with countOvf := true }).modAx q fun a => { a with lost := true }).note .countUe).shadowLost q

/-- A bad count page is replaced by one filled with zeros. -/
def Chip.ueCount (c : Chip) (at_ p : Nat) : Chip :=
  match c.pageOwner at_ p with
  | none => c
  | some q => { c.countUe q with page := tmod c.page (pageKey at_ p) fun g => { g with bytes := [] } }

/-- A bad directory entry is replaced by one with VALID 0. -/
def Chip.ueDir (c : Chip) (at_ e : Nat) : Chip :=
  let k := at_ * 4096 * 256 + e
  if (tget c.dir k).getLsbD 15 then { c.countUe (e / 256 % 4096) with dir := tdel c.dir k } else c

/-- The rows of requests that read a bad mask page are fault-dropped. The requests become HELD until a reload at C, or where the planner
meets them (R242, R387). -/
def Chip.dropMasked (c : Chip) : Chip := c.faultDrop fun r => c.maskFault r.req.toNat

/-- Does a table of mask pages hold the page of a lagoon? -/
def holdsPage (m : SMap (Option Nat)) (at_ p : Nat) : Bool := (tablePages m).any fun g => g.2.1 == at_ && g.2.2 == p

/-- A grammar mask is discarded; its row is dropped as one whose mask has not come (R152, R387). -/
def Chip.ueGrammar (c : Chip) (g : GrammarMask) : Chip :=
  (c.freeGrammar g.req.toNat fun x => x == g).maskDrop fun r => r.req = g.req ∧ r.pos = g.pos

/-- A bad mask page: a deny list or a static mask is bad until it is reloaded, a grammar mask is discarded. -/
def Chip.ueMask (c : Chip) (at_ p : Nat) : Chip :=
  let deny := c.deny.map fun (e : Nat × DenyList) => if holdsPage e.2.pages at_ p then (e.1, { e.2 with bad := true }) else e
  let stat := c.statics.map fun (e : Nat × StaticMask) => if holdsPage e.2.pages at_ p then (e.1, { e.2 with bad := true }) else e
  let gram := c.grammar.filter fun g => holdsPage g.pages at_ p
  if deny = c.deny ∧ stat = c.statics ∧ gram = [] then c
  else ((gram.foldl Chip.ueGrammar { c with deny := deny, statics := stat }).note .maskUe).dropMasked

/-- Requests to which a table word belongs are quarantined (R385). -/
def Chip.ueRequest (c : Chip) (q : Nat) : Chip :=
  (c.modAx q fun a => { a with quarantined := true }).note .tableUe 0 q

/-- A tenant's entry cannot be read until both commands have rewritten it. -/
def Chip.ueTenant (c : Chip) (t : Nat) : Chip :=
  ({ c with tnt := tmod c.tnt t fun x => { x with badSet := true, badBal := true } }).note .tableUe

/-- An adapter whose slots include a bad word is no longer valid. -/
def Chip.ueAdapter (c : Chip) (slot : Nat) : Chip :=
  { c with adpDir := c.adpDir.map fun e =>
      if e.1 ≤ slot ∧ slot < e.1 + e.2.slots.toNat then (e.1, { e.2 with valid := false }) else e }

/-- A delta set is revoked. -/
def DeltaSet.revoke (d : DeltaSet) : DeltaSet := { d with revoked := true }
def Chip.ueDelta (c : Chip) (set : Nat) : Chip := { c with delta := tmod c.delta set fun d => d.map DeltaSet.revoke }

/-- A block of a trie image is bad. -/
def Chip.ueTrie (c : Chip) (ext block : Nat) : Chip :=
  match tget c.trie ext with
  | none => c
  | some t => { c with trie := tset c.trie ext (some { t with bad := block :: t.bad }) }

/-- A bad instruction word: every row of the step is fault-dropped until its restore (R388). -/
def Chip.ueImem (c : Chip) (at_ word : Nat) : Chip :=
  let c := if c.rpr.restore.contains (at_, word) then c
    else { c with rpr := { c.rpr with restore := c.rpr.restore ++ [(at_, word)] } }
  c.faultDrop fun _ => true

/-- The controller restarts at the next tick. -/
def Chip.ueCore (c : Chip) : Chip := { c with fw := { c.fw with restartDue := true } }

/-- The boot ROM reloads the running slot from the boot store and verifies it; the controller restarts at the next tick. -/
def Chip.ueBank (c : Chip) (img : List Byte) : Chip :=
  let ok := policyOk img && decide (c.fw.roll.toNat ≤ imgSvn (img.take 256))
  { c.ueCore with fw := c.ueCore.fw.setSlot c.fw.active (if ok then fwSlotOf true img else default) }

/-- Merge messages of a request are lost. -/
def Chip.ueMerge (c : Chip) (q : Nat) : Chip :=
  { c with merge := { c.merge with recv := c.merge.recv.filter fun x => x.req.toNat ≠ q } }

/-- The next log write finds the region failed (R417). -/
def Chip.ueLog (c : Chip) : Chip := { c with log := { c.log with failNext := true } }

/-- The consequence of an uncorrectable word for the stored value (R381, R387). -/
def Chip.ueConsequence (c : Chip) : MemSite → Chip
  | .scratchpad g => c.strike g
  | .lagoonData g => c.strike g
  | .countPage a p => c.ueCount a p
  | .dirEntry a e => c.ueDir a e
  | .maskPage a p => c.ueMask a p
  | .deltaList _ s => c.ueDelta s
  | .adapterSlot s => c.ueAdapter s
  | .trieStore e b => c.ueTrie e b
  | .candStore _ => c
  | .reqEntry q => c.ueRequest q
  | .tenantEntry t => c.ueTenant t
  | .replayBuffer x => { c with replay := tdel c.replay (x % 65536) }
  | .eventLog => c
  | .staging m => c.routineFault m
  | .atollImem a w => c.ueImem a w
  | .fwBank img => c.ueBank img
  | .fwData => c.ueCore
  | .mergeBuffer q => c.ueMerge q
  | .mirrorBuffer q => c.shadowLost q
  | .logWrite => c

/-- An uncorrectable word is met. One in the log's active region fails the region before ECC_UE is logged (R417); one that a log write's
read-back finds is not logged before that write. -/
def Chip.ueFound (c : Chip) (site : MemSite) (addr : Nat) : Chip :=
  match site with
  | .logWrite => (((c.count 0x170 1).orReg 0x160 1#32)).ueLog
  | .eventLog => (c.ueLog).eccUe (siteCode site) addr
  | _ => (c.eccUe (siteCode site) addr).ueConsequence site

/-! ### Reads in the foreground (R381, R387) -/

/-- Memories whose bad word fault-drops the rows that read it (R387); the others have a consequence of their own. -/
def dropsReaders : MemSite → Bool
  | .scratchpad _ | .lagoonData _ | .candStore _ => true
  | _ => false

/-- A read meets a bad word. -/
def Chip.readFound (c : Chip) (x : ReadFind) : Chip :=
  if !x.bad then c.corrected
  else
    let c := c.ueFound x.site x.addr
    if dropsReaders x.site then c.faultDrop fun r => x.readers.contains (r.wave, r.slot) else c

/-- A command's reads meet bad words. -/
def Chip.reads (c : Chip) (l : List ReadFind) : Chip := l.foldl Chip.readFound c

end Sys2Proof.Machine
end

