-- ==== Sys2Proof/Machine/Mailbox.lean ====
section
/-!
DEFINITION. Mailboxes: the duties of a step's command window, verdicts, the application of a due command and the commit of a routine
(R249, R260, R315, R326 to R335).
-/
namespace Sys2Proof.Machine

/-! ### The duties of a window -/

/-- The slot of a number. -/
def FwSt.slot (f : FwSt) (one : Bool) : FwSlot := if one then f.slotB else f.slotA

/-- ACTIVATE_FW ends in DONE: RAISE lifts the roll count to the active image's SVN (R339, R340). -/
def Chip.activated (c : Chip) (m : Nat) (b : Mailbox) : Chip :=
  let svn := (c.fw.slot c.fw.active).svn
  let roll := if b.raise ∧ c.fw.roll.toNat < svn.toNat then svn else c.fw.roll
  ({ c with fw := { c.fw with roll := roll } }).finish m 0x0000

/-- One step of trial passes: at the fourth, ACTIVATE_FW ends in DONE (R339). -/
def Chip.trialStep (c : Chip) (m : Nat) : Chip :=
  let b := c.mb m
  match b.routine with
  | none => c
  | some r =>
    if r.code ≠ 0x0501 ∨ !r.ready ∨ c.fw.revertDue then c
    else if 3 ≤ r.steps then c.activated m b
    else c.modMbx m fun b => { b with routine := some { r with steps := r.steps + 1 } }

/-- Has firmware delivered its verdict on the mailbox's command (R315)? -/
def Mailbox.answered (b : Mailbox) : Bool := b.apply || b.refuse.isSome

/-- Mailboxes whose due command had no verdict by T+1,023 (R328). -/
def Chip.missing (c : Chip) : List Nat :=
  (c.mbx.filter fun p => (p.2.state = .accepted && p.2.due && p.2.routine.isNone && !p.2.answered) || c.stp.missed.contains p.1).map Prod.fst

/-- Are verdicts missing for the window of the step in progress (R328)? A frozen unit's commands are in no window (R446). -/
def Chip.late (c : Chip) : Bool := !c.dbg.frozen && !c.missing.isEmpty

/-- What firmware and the mailboxes do once per step at T+1,024, before any command of the window: refills and TTL decrements, a step
of an activation's trial, and the end of discarded routines (R249, R260, R335, R339). Where verdicts are missing it is skipped (R328). -/
def Chip.duties (c : Chip) : Chip :=
  if !c.stp.dutyDue ∨ c.late then c
  else
    let c := { c with
      tnt := c.tnt.map fun p => (p.1, p.2.tick)
      req := c.req.map fun p => (p.1, p.2.tickTtl)
      stp := { c.stp with dutyDue := false }
      fw := { c.fw with lateRun := 0 } }
    ((List.range 16).foldl Chip.trialStep c).endFaults

/-! ### Application and commit -/

/-- Is TARGET of the command a request ID (R329, R418)? -/
def namesRequest (code : Nat) : Bool := (0x0100 ≤ code ∧ code ≤ 0x0108) ∨ code = 0x0304 ∨ code = 0x0602

/-- The request that a command names, REPAIR_STATUS with 0x0001_0000 above its ID (R385, R418). -/
def namedRequest (code target : Nat) : Option Nat :=
  if namesRequest code then some target
  else if code = 0x0600 ∧ 65536 ≤ target ∧ target < 69632 then some (target - 65536) else none

/-- Does a command queue behind a routine that has been applied and has not ended (R334)? SET_PLAN queues behind
SET_PLAN (R283). -/
def Routine.blocks (r : Routine) (code target : Nat) : Bool :=
  let rc := r.code.toNat
  (namesRequest code ∧ target = r.target ∧ (rc = 0x0104 ∨ rc = 0x0105 ∨ rc = 0x0106))
    ∨ (code = 0x0302 ∧ rc = 0x0302 ∧ target = r.target)
    ∨ ((code = 0x0500 ∨ code = 0x0501) ∧ (rc = 0x0500 ∨ rc = 0x0501))
    ∨ (code = 0x0400 ∧ rc = 0x0400)

/-- Some routine of another mailbox blocks the command. -/
def Chip.blocked (c : Chip) (m code target : Nat) : Bool :=
  c.mbx.any fun p => p.1 != m && match p.2.routine with
    | some r => r.blocks code target
    | none => false

/-- The command window of the step in progress, T+1,024 to T+1,535 (R50, R326). -/
def Chip.inWindow (c : Chip) : Bool := c.stp.active && decide (1024 ≤ c.since ∧ c.since ≤ 1535) && !c.stp.planned

/-- The loads and routines whose commit depends on nothing but a tick after their copy (R333). -/
def tickCommits (r : Routine) : Bool :=
  [0x0104, 0x0105, 0x0107, 0x0300, 0x0301, 0x0302, 0x0303, 0x0304].contains r.code.toNat || (r.code = 0x0500 && r.ready)

/-- A load or routine is still to commit in the window of the step in progress, before the window's commands (R333). -/
def Chip.commitsDue (c : Chip) : Bool :=
  c.mbx.any fun p => p.2.routine.any fun r =>
    tickCommits r && decide (c.tick.cnt ≠ r.tick ∧ r.left = 0 ∧ r.failed ≠ some 0x0050)

/-- May commands be applied now? In a step in its window, once its commits are done and unless verdicts are missing (R328);
while frozen only those of R446; else while RUN is 0 or the unit is in recovery (R327, R349). -/
def Chip.windowOpen (c : Chip) (code : Nat) : Bool :=
  if c.dbg.frozen then worksFrozen code
  else if c.stp.active then c.inWindow && !c.stp.fwLate && !c.late && !c.commitsDue
  else !(c.ready && c.run)

/-- A command from another mailbox clears an accepted first half of the debug key (R445). -/
def Chip.clearHalf (c : Chip) (m : Nat) : Chip :=
  match c.dbg.half with
  | some (n, _, _) => if n = m then c else { c with dbg := { c.dbg with half := none } }
  | none => c

/-- Has a mailbox a command with its verdict that the window may take up now? -/
def Chip.passed (c : Chip) (m : Nat) : Bool :=
  let b := c.mb m
  b.state == .accepted && b.due && b.answered && b.routine.isNone && c.windowOpen b.code && !decide (c.dbg.stepMbx = some m)

/-- Does such a command of another mailbox come before that of mailbox m: an earlier doorbell, or one of the same cycle and a
lower index (R50)? One that waits behind a routine does not. -/
def Chip.ahead (c : Chip) (m : Nat) : Bool :=
  (List.range 16).any fun n =>
    c.passed n && decide ((c.mb n).ringTime * 16 + n < (c.mb m).ringTime * 16 + m) && !c.blocked n (c.mb n).code (c.mb n).target

/-- A command of the step's window has been applied: no commit comes after it (R333). -/
def Chip.windowUsed (c : Chip) : Chip := { c with stp := { c.stp with applied := true } }

/-- A command is taken up: in a step's window the duties come first, and no commit after it. One that is applied at once, while RUN is 0
or while frozen, belongs to no window (R327, R446). -/
def Chip.takeUp (c : Chip) : Chip := if c.stp.active ∧ !c.dbg.frozen then (c.duties).windowUsed else c

/-- Take up the command that mailbox m holds, if it has been accepted, is due, has its verdict, is the command of this code and its turn
has come in doorbell order (R50). A REFUSE ends it with its status (R315); of an APPLY, FAILSTOPPED (R386), ENTRY_UE (R385) and queueing
(R334) come before the command's own effect, and before these what its reads meet (R381). -/
def Chip.applyCmd (c : Chip) (m : Mbx) (code : Nat) (body : Chip → Mailbox → Chip) : Chip :=
  let b := c.mb m
  if !c.passed m ∨ b.code ≠ code ∨ c.ahead m then c
  else if b.refuse.isSome then (c.takeUp).finish m (b.refuse.getD 0)
  else if c.stopped ∧ !worksStopped code then c.finish m 0x0077
  else
    let c := ((c.takeUp).clearHalf m).reads b.ecc
    if code ≠ 0x0100 ∧ (namedRequest code b.target).any fun q => (c.ax q).quarantined then c.finish m 0x0070
    else if c.blocked m code b.target then c.modMbx m fun b => { b with queued := true, ecc := [] }
    else ((c.modMbx m fun b => { b with queued := false, ecc := [] }).event 0x040) |> fun c => body c (c.mb m)

/-- The command becomes a load or routine: it stays ACCEPTED with ROUTINE set (R318, R333). -/
def Chip.beginRoutine (c : Chip) (m : Mbx) (r : Routine) : Chip :=
  c.modMbx m fun b => { b with routine := some r, due := false, apply := false, refuse := none, ecc := [] }

/-- A routine applied now. -/
def Chip.newRoutine (c : Chip) (b : Mailbox) (key : Nat := 0) (pages : List (Nat × Nat × Nat) := []) : Routine :=
  { code := BitVec.ofNat 16 b.code, target := b.target, tick := c.tick.cnt, key := key, pages := pages, ready := false,
    failed := none, steps := 0, left := 0, began := c.clk.ucyc }

/-- The bytes of a load count against the step's share of the loader (R331). -/
def Chip.loading (c : Chip) (n : Nat) : Chip := { c with stp := { c.stp with loaded := c.stp.loaded + n } }

/-- Commit the load or routine that mailbox m holds, in the command window and before its commands (R50, R333), if it is of this code,
was applied before the tick of the step in progress, has been copied, and no fault has been found in what it staged (R335). A commit is
hardware state: it needs no verdict (R328). The duties of T+1,024 come before it, unless verdicts are missing (R260, R328). -/
def Chip.commitCmd (c : Chip) (m : Mbx) (code : Nat) (body : Chip → Mailbox → Routine → Chip) : Chip :=
  let b := c.mb m
  match b.routine with
  | none => c
  | some r =>
    if r.code.toNat ≠ code ∨ c.tick.cnt = r.tick ∨ r.left ≠ 0 ∨ !c.runs ∨ !c.inWindow ∨ c.stp.applied ∨ r.failed = some 0x0050 then c
    else body c.duties b r

/-- Restart the controller at the running slot's ENTRY with its data memory cleared (R328, R338). -/
def Chip.restartCore (c : Chip) : Chip :=
  let slot := if c.fw.active then c.fw.slotB else c.fw.slotA
  { c with fw := { c.fw with core := { pc := slot.entry, x := [], data := [] } } }

/-! ### Commands -/

/-- RING (R324). -/
def execRing (m : Mbx) (s : State) : Host.Outcome State Fault Refusal := .next { s with unit := s.unit.doRing m }

/-- ACK (R319). -/
def execAck (m : Mbx) (s : State) : Host.Outcome State Fault Refusal := .next { s with unit := s.unit.doAck m }

/-- A verdict on a due command is delivered. In a step that is not frozen, one that comes after T+1,023 was missing in time: it counts for
the next window (R326, R328). -/
def Chip.answer (c : Chip) (m : Nat) (apply : Bool) (refuse : Option Half) (ecc : List ReadFind) : Chip :=
  let b := c.mb m
  if b.state = .accepted ∧ b.due ∧ b.routine.isNone then
    let missed := c.stp.active && !c.dbg.frozen && decide (1023 < c.since) && !b.answered
    let c := if missed then { c with stp := { c.stp with missed := m :: c.stp.missed } } else c
    c.modMbx m fun b => { b with apply := apply, refuse := refuse, ecc := ecc }
  else c

/-- The APPLY verdict of a due command; where the two controller cores disagree, CTRL_MISMATCH and a restart at the
next tick instead (R315, R380). -/
def Chip.verdict (c : Chip) (m : Nat) (finds : VerdictFinds) : Chip :=
  if finds.mismatch then { c.note .ctrlMismatch 28 with fw := { c.fw with restartDue := true } } else c.answer m true none finds.ecc

/-- VERDICT_APPLY (R315). -/
def execVerdictApply (m : Mbx) (finds : VerdictFinds) (s : State) : Host.Outcome State Fault Refusal :=
  .next { s with unit := s.unit.verdict m finds }

/-- The status codes from 0x0010 up that R330 lists; the others are reserved. -/
def refuseCodes : List Nat :=
  (List.range 6).map (· + 0x10) ++ (List.range 14).map (· + 0x20) ++ (List.range 4).map (· + 0x30) ++ (List.range 5).map (· + 0x40)
    ++ [0x50, 0x60, 0x61] ++ (List.range 8).map (· + 0x70) ++ (List.range 8).map (· + 0x80)

/-- The REFUSE verdict of a due command, with a status that R330 lists: the command ends with it when its turn comes (R315, R326). -/
def Chip.refuseCmd (c : Chip) (m : Nat) (status : Half) : Chip :=
  if refuseCodes.contains status.toNat then c.answer m false (some status) [] else c

/-- VERDICT_REFUSE (R315). -/
def execVerdictRefuse (m : Mbx) (status : Half) (s : State) : Host.Outcome State Fault Refusal :=
  .next { s with unit := s.unit.refuseCmd m status }

/-- NOP (R329). -/
def execMbxNop (m : Mbx) (s : State) : Host.Outcome State Fault Refusal :=
  .next { s with unit := s.unit.applyCmd m 0x0000 fun c b =>
    if b.target ≠ 0 then c.finish m 0x0015 else c.finish m 0x0000 }

/-- Firmware interface version of the running image; the boot ROM of recovery reports major 0 (R3, R329, R349). -/
def Chip.ifVersion (c : Chip) : Word :=
  if c.recovering then 0 else if c.fw.active then c.fw.slotB.version else c.fw.slotA.version

/-- GET_VERSION (R329). -/
def execGetVersion (m : Mbx) (s : State) : Host.Outcome State Fault Refusal :=
  .next { s with unit := s.unit.applyCmd m 0x0001 fun c b =>
    if b.target ≠ 0 then c.finish m 0x0015
    else c.finish m 0x0000 (toLE 4 c.ifVersion.toNat ++ toLE 4 (c.reg 0x000).toNat) }

/-- GET_CAPS (R329). -/
def execGetCaps (m : Mbx) (s : State) : Host.Outcome State Fault Refusal :=
  .next { s with unit := s.unit.applyCmd m 0x0002 fun c b =>
    if b.target ≠ 0 then c.finish m 0x0015
    else c.finish m 0x0000 ([0x004, 0x140, 0x144, 0x148, 0x14C, 0x150, 0x154, 0x158].flatMap fun o => toLE 4 (c.reg o).toNat) }

/-- An activation has flipped the slots and is on trial (R339). -/
def Chip.onTrial (c : Chip) : Bool := c.mbx.any fun p => match p.2.routine with
  | some r => r.code = 0x0501 ∧ r.ready
  | none => false

/-- FW_LATE (R328): from T+1,024 on, before the planner runs, verdicts are missing. No command of the window is applied, and the duties are skipped. In the first 4
steps after an activation a revert becomes due (R339). -/
def Chip.fwLateNow (c : Chip) : Chip :=
  if !c.stp.active ∨ c.since < 1024 ∨ c.stp.planned ∨ c.stp.fwLate ∨ !c.late then c
  else
    let n := c.missing.length
    let run := c.fw.lateRun + 1
    let c := { c with
      stp := { c.stp with fwLate := true, dutyDue := false }
      fw := { c.fw with
        lateRun := run
        restartDue := c.fw.restartDue || decide (16 ≤ run)
        revertDue := c.fw.revertDue || c.onTrial } }
    ((c.orReg 0x110 4#32).note .fwLate 0 n).endFaults

/-- FW_LATE (R328). -/
def execFwLate (missing : Nat) (s : State) : Host.Outcome State Fault Refusal :=
  .next { s with unit := if s.unit.missing.length = missing then s.unit.fwLateNow else s.unit }

/-- A restart that is due takes place at the T+0 of a step: FW_RESTART, RESTARTED and the fault interrupt (R7, R328). -/
def Chip.fwRestartNow (c : Chip) : Chip :=
  if !c.fw.restartDue ∨ !c.atT0 then c
  else
    let c := { c with fw := { c.fw with restartDue := false, lateRun := 0 } }
    (c.restartCore.orReg 0x110 2#32).note .fwRestart 28

/-- FW_RESTART (R328). -/
def execFwRestart (s : State) : Host.Outcome State Fault Refusal := .next { s with unit := s.unit.fwRestartNow }

/-- REFILL (R249): the duties of the step, at T+1,024 and if they are still due. -/
def execRefill (s : State) : Host.Outcome State Fault Refusal :=
  .next { s with unit := if s.unit.runs ∧ s.unit.inWindow then s.unit.duties else s.unit }

end Sys2Proof.Machine
end

