-- ==== Sys2Proof/Machine/Regs.lean ====
section
/-!
DEFINITION. The register window: what each word reads as, and what a write to it does (R11 to R14, R234, R453 to R458).
-/
namespace Sys2Proof.Machine

/-! ### Register rows: offset, RW bits, RW1C bits, reserved bits -/

/-- A row of a register map. -/
structure RegRow where
  off : Nat
  rw : Nat
  w1c : Nat
  rsvd : Nat

/-- A read-only register with its reserved bits. -/
def ro (off : Nat) (rsvd : Nat := 0) : RegRow := ⟨off, 0, 0, rsvd⟩

/-- The unit control page: R458, R61 to R63, R164, R205 to R208. -/
def ctrlRows1 : List RegRow :=
  [ro 0x000 0x00000F00, ro 0x004 0xFF0007FF, ⟨0x008, 0, 0, 0xFFFF00FA⟩, ro 0x00C 0xFFFFE6F0,
   ⟨0x010, 0, 0x18, 0xFF0000E4⟩, ro 0x014 0xFF00FF00, ro 0x018, ro 0x01C 0x3F000000,
   ⟨0x020, 0, 0, 0xFF008000⟩, ⟨0x024, 0, 0x3F, 0xFFFFF0C0⟩, ro 0x028, ro 0x02C, ro 0x030, ro 0x034, ro 0x038, ro 0x03C,
   ro 0x040, ro 0x044, ro 0x048, ⟨0x060, 0, 0x7F, 0xFFFFFF80⟩, ro 0x064, ro 0x068, ro 0x06C, ro 0x070, ro 0x074, ro 0x078,
   ⟨0x080, 0, 0xFF, 0xFFFFFF00⟩, ro 0x084, ro 0x088, ro 0x08C, ⟨0x090, 0, 0, 0x7F00C0C0⟩, ro 0x094 0xFFFFC0F8, ro 0x098]

/-- The unit control page: R230 to R232, R273 to R275, R309, R325, R332, R341, R345. -/
def ctrlRows2 : List RegRow :=
  [ro 0x0A0 0xFFE0FFE0, ⟨0x0A4, 0, 0xF, 0xFFFFFFF0⟩, ro 0x0A8, ro 0x0AC, ro 0x0B0, ro 0x0B4, ro 0x0B8,
   ⟨0x0C0, 0, 0x7F, 0xFFFFFF80⟩, ro 0x0C4 0xE000E000, ro 0x0C8, ro 0x0CC, ro 0x0D0, ⟨0x0D4, 0, 0, 0xFFFFFF00⟩,
   ⟨0x0D8, 0, 0, 0x00000FFF⟩, ⟨0x0DC, 0, 0, 0xFFFF0000⟩, ro 0x0E0, ro 0x0E4, ro 0x100, ro 0x104,
   ⟨0x110, 0, 0x7, 0xFFFFF808⟩, ro 0x114, ro 0x118, ro 0x11C 0xFFFFFFC0, ⟨0x120, 0xFFFF, 0, 0xFFFF0000⟩,
   ⟨0x124, 0, 0, 0xFFFFFF00⟩, ⟨0x128, 0, 0xFFFF, 0xFFFF0000⟩, ⟨0x12C, 0, 0, 0xFFFF0000⟩,
   ⟨0x130, 0xFFFFFFFF, 0, 0⟩, ⟨0x134, 0xFFFFFFFF, 0, 0⟩, ⟨0x138, 0xFFFFFFFF, 0, 0⟩, ⟨0x13C, 0xFFFFFFFF, 0, 0⟩,
   ro 0x140 0x1F, ro 0x144 0xFFFFE000, ro 0x148, ro 0x14C, ro 0x150, ro 0x154, ro 0x158]

/-- The unit control page: R420, R421, R437, R467, R469. -/
def ctrlRows3 : List RegRow :=
  [⟨0x160, 0, 0xFF, 0x0FFEFF00⟩, ro 0x164 0x7FE0E0F0, ro 0x168 0x7FFFFF00, ro 0x16C, ro 0x170, ro 0x174, ro 0x178,
   ro 0x17C 0xF0FE00F0, ⟨0x180, 0, 0x10, 0xFFFFFFE1⟩, ro 0x184, ro 0x188, ⟨0x18C, 0xFFFFFFFF, 0, 0⟩, ro 0x190, ro 0x194,
   ro 0x198 0x0FFFE000, ro 0x19C, ro 0x1A0, ro 0x1A4, ro 0x1A8, ro 0x1AC, ro 0x1B0, ro 0x1B4, ro 0x1B8, ro 0x1BC,
   ⟨0x200, 0x3, 0, 0xFFFFFFFC⟩, ⟨0x540, 0, 0x3, 0xFFFFFFFC⟩, ro 0x544]

/-- The nine port blocks (R467). -/
def portRows : List RegRow :=
  (List.range 9).flatMap fun p =>
    let b := 0x400 + 0x20 * p
    [⟨b, 0, 0xF, 0xFFFFFF30⟩, ro (b + 4), ro (b + 8), ro (b + 12), ro (b + 16)]

/-- The row of a control-page offset; none is reserved space (R456). -/
def ctrlRow (off : Nat) : Option RegRow := (ctrlRows1 ++ ctrlRows2 ++ ctrlRows3 ++ portRows).find? fun r => r.off == off

/-- The registers of an atoll window: R115 to R117, R142, R306 to R308, R420. -/
def atlRows : List RegRow :=
  [ro 0x00 0xC000000F, ro 0x04, ro 0x08, ⟨0x0C, 0, 0x1F, 0xFFFFFFE0⟩, ro 0x10, ro 0x14, ro 0x18, ro 0x1C, ro 0x20, ro 0x24,
   ro 0x40 0xFFFF0000, ro 0x44, ro 0x48, ro 0x60 0xC000000F, ⟨0x64, 0, 0x3, 0xFFFFF2FC⟩, ro 0x68 0xE000E000, ro 0x6C,
   ro 0x70 0x001FE000, ro 0x74, ro 0x78, ro 0x80 0x3F003F00, ro 0x84 0x3F003F00, ro 0x88 0x3F003F00, ro 0x8C 0x3F003F00]

/-! ### Words that are views of other state -/

/-- The low or high word of a 64-bit value. -/
def half64 (d : DWord) (hi : Bool) : Word := if hi then (d >>> 32).setWidth 32 else d.setWidth 32

/-- A firmware version register: MAJOR, MINOR, PATCH, SVN from the high byte down; 0 when not VALID (R341). -/
def FwSlot.verReg (x : FwSlot) : Word :=
  if x.valid then BitVec.ofNat 32 (leNat (toBE 4 x.version.toNat)) else 0

/-- A LOAD_FW is writing or verifying (R341). -/
def Chip.fwLoading (c : Chip) : Bool := c.mbx.any fun p => match p.2.routine with
  | some r => r.code = 0x0500 ∧ !r.ready ∧ r.failed = none
  | none => false

/-- An activation takes place at the next tick (R341). -/
def Chip.fwPending (c : Chip) : Bool := c.mbx.any fun p => match p.2.routine with
  | some r => r.code = 0x0501 ∧ r.steps = 0 ∧ !r.ready
  | none => false

/-- A word of the unit control page as it reads. A pending write of an RW register reads back (R11); limits and other
registers read the value in force (R343). -/
def Chip.ctrlWord (c : Chip) (off : Nat) : Word :=
  let b (x : Bool) (i : Nat) : Word := if x then 1#32 <<< i else 0
  if off = 0x008 then c.reg 0x008 &&& 1#32
  else if off = 0x00C then c.reg 0x00C ||| b c.pwr.halved 11 ||| b c.stopped 12
  else if off = 0x024 then c.reg 0x024 ||| b c.stp.active 8
  else if off = 0x028 then half64 c.tick.cnt false else if off = 0x02C then half64 c.tick.cnt true
  else if off = 0x030 then half64 c.tick.ts false else if off = 0x034 then half64 c.tick.ts true
  else if off = 0x0C4 then BitVec.ofNat 32 c.reqLive
  else if off = 0x0E0 then half64 c.recseq false else if off = 0x0E4 then half64 c.recseq true
  else if off = 0x100 then (match c.plan.cur with
    | some p => p.planId
    | none => 0)
  else if off = 0x104 then (match c.plan.staged with
    | some p => p.plan.planId
    | none => 0)
  else if off = 0x110 then c.reg 0x110 ||| b c.fw.active 4 ||| b c.fw.slotA.valid 5 ||| b c.fw.slotB.valid 6
    ||| b c.fwLoading 7 ||| b c.fwPending 8
  else if off = 0x114 then c.fw.slotA.verReg else if off = 0x118 then c.fw.slotB.verReg
  else if off = 0x11C then c.fw.roll.setWidth 32
  else if off = 0x160 then c.reg 0x160 ||| b (!c.rpr.staged.isEmpty) 16
  else if off = 0x180 then b c.log.spare 1 ||| b c.log.afail 2 ||| b c.log.bfail 3 ||| b c.log.lcValid 4
  else if off = 0x184 then half64 c.log.seq false else if off = 0x188 then half64 c.log.seq true
  else if off = 0x198 then b c.lock.bound 31 ||| b c.lock.follower 30 ||| b c.lock.contain 29 ||| b c.lock.diverged 28
    ||| c.lock.peer.setWidth 32
  else if 0x1A0 ≤ off ∧ off < 0x1C0 then
    BitVec.ofNat 32 (if c.log.lastChance = default then 0 else leAt c.log.lastChance.bytes (off - 0x1A0) 4)
  else if off = 0x020 ∨ off = 0x090 ∨ off = 0x0D4 ∨ off = 0x0D8 ∨ off = 0x0DC ∨ off = 0x124 then
    (tget c.regNext off).getD (c.reg off)
  else c.reg off

/-- MBX_STATUS.STATE codes (R318). -/
def MbxState.code : MbxState → Nat
  | .idle => 0 | .posted => 1 | .accepted => 2 | .done => 3 | .error => 4 | .busyBoot => 5

/-- A word of a mailbox page (R317, R348). -/
def Chip.mbxWord (c : Chip) (m off : Nat) : Word :=
  let b := c.mb m
  if off < 0x100 then (if b.state = .busyBoot then 0 else BitVec.ofNat 32 (rdLE b.msg off 4))
  else if off < 0x200 then BitVec.ofNat 32 (rdLE b.resp (off - 0x100) 4)
  else if off = 0x204 then BitVec.ofNat 32 (pack [(b2n b.routine.isSome, 9), (b2n b.queued, 8), (b.state.code, 0)])
  else if off = 0x208 then BitVec.ofNat 32 (pack [(b2n b.seqValid, 16), (b.seqLast.toNat, 0)])
  else 0

/-- The active region of the log (R417). -/
def Chip.logRegion (c : Chip) : SMap LogEnt := if c.log.spare then c.log.b else c.log.a

/-- A log entry that was never written reads 0. -/
def LogEnt.view (e : LogEnt) : List Byte := if e = default then List.replicate 32 0#8 else e.bytes

/-! ### Counter window words (R435, R436, R439) -/

/-- The published bank (R429). -/
def PmcSt.published (p : PmcSt) : Capture := if p.actBank then p.bank1 else p.bank0

/-- PMC_SELn (R436). -/
def PmcCtr.selWord (t : PmcCtr) : Nat :=
  let nxt := match t.pend with
    | some (e, _, _) => e
    | none => t.event
  pack [(b2n t.chain, 31), (b2n t.ovfIrq, 30), (b2n t.pend.isSome, 29), (nxt.toNat, 16), (t.event.toNat, 0)]

/-- A word of the counter window; none is reserved space. -/
def Chip.pmcWord (c : Chip) (off : Nat) : Option Word :=
  let pub := c.pmc.published
  if off < 0x680 then some (half64 (tget pub.ent (off / 8)) (off % 8 = 4))
  else if 0x1000 ≤ off ∧ off < 0x1340 then some (BitVec.ofNat 32 (tget c.pmc.ctr ((off - 0x1000) / 4)).selWord)
  else if off = 0x2000 then some (half64 c.pmc.seq false) else if off = 0x2004 then some (half64 c.pmc.seq true)
  else if off = 0x2008 then some (half64 pub.tick false) else if off = 0x200C then some (half64 pub.tick true)
  else if off = 0x2010 then some (BitVec.ofNat 32 (pack [(b2n c.pmc.hold, 1), (b2n c.pmc.cause, 0)]))
  else if 0x2020 ≤ off ∧ off < 0x203C then some (tget c.pmc.ovfBits ((off - 0x2020) / 4))
  else if 0x3000 ≤ off ∧ off < 0x3400 then some (tget pub.bins ((off - 0x3000) / 4))
  else if 0x3400 ≤ off ∧ off < 0x3420 then
    let e := (off - 0x3400) / 4
    let h := tget c.pmc.hist e
    some (BitVec.ofNat 32 (pack [(b2n (h.pend.isSome || h.clear), 4), (b2n (pub.sats.getLsbD e), 3), (h.measure.toNat, 0)]))
  else if 0xF000 ≤ off ∧ off < 0xF040 then some (half64 (tget pub.ent ((off - 0xF000) / 4)) false)
  else none

/-! ### Debug window (R450, R451) -/

/-- DBG_STATUS (R450). -/
def Chip.dbgStatus (c : Chip) : Word :=
  BitVec.ofNat 32 (pack [(c.dbg.fails.toNat, 6), (b2n c.dbg.atEnd, 5), (b2n c.dbg.stepping, 4), (b2n c.dbg.frozen, 3),
    (b2n c.dbg.unlocked, 2), (b2n c.dbg.half.isSome, 1), (b2n Config.debugFuseBlown, 0)])

/-- DBG_ACC and DBG_PEEK are served while unlocked and frozen or halted (R450). -/
def Chip.dbgLive (c : Chip) : Bool := c.dbg.unlocked && (c.dbg.frozen || c.dbg.halted)

/-- The logical atoll and lane a debug selection shows, if the physical parts serve any. -/
def Chip.dbgLane (c : Chip) (sel : Word) : Option (Nat × Nat) :=
  let p := fld sel.toNat 20 16
  match c.logicalOf p, c.logicalLane p (fld sel.toNat 8 0) with
  | some a, some l => some (a, l)
  | _, _ => none

/-- A debug read of an accumulator entry (R451). -/
def Chip.readDbgAcc (c : Chip) (e : Nat) : Word × Chip :=
  if !c.dbgLive then (0, c.note .dbgDenied)
  else match c.dbgLane c.dbg.accSel with
    | none => (0, c)
    | some (a, l) =>
      let st := tget c.atoll a
      let set := st.activeSet != c.dbg.accSel.getLsbD 24
      (tget c.acc (accKey (256 * a + l) set e), c)

/-- A debug read of an accumulator entry finds bad parity: the affected row slot is dropped when the step runs on (R96, R451). -/
def Chip.dbgAccBad (c : Chip) (e : Nat) : Chip :=
  match c.dbgLane c.dbg.accSel with
  | none => c
  | some (a, l) =>
    let st := tget c.atoll a
    let set := st.activeSet != c.dbg.accSel.getLsbD 24
    let c := c.accFound a l
    let c := { c with dbg := { c.dbg with accBad := c.dbg.accBad ++ [(a, b2n set, e)] } }
    if c.halts then c else c.accDrops

/-- A debug read of a scratchpad word finds an error: a corrected word is counted; an uncorrectable one is counted and logged, its raw data
is not specified, and only a row that reads the word later takes the consequence (R451). -/
def Chip.dbgPeekEcc (c : Chip) (addr : Nat) (uncorrectable : Bool) : Chip :=
  match c.dbgLane c.dbg.peekSel with
  | none => c
  | some (a, l) =>
    if uncorrectable then
      let r := (c.eccUe 1 (padKey (256 * a + l) addr)).free
      { r.2 with bus := { r.2.bus with rdata := r.1.setWidth 64 } }
    else c.corrected

/-- A debug read of a scratchpad word (R451). -/
def Chip.readDbgPeek (c : Chip) (addr : Nat) : Word × Chip :=
  if !c.dbgLive then (0, c.note .dbgDenied)
  else match c.dbgLane c.dbg.peekSel with
    | none => (0, c)
    | some (a, l) => (BitVec.ofNat 32 (rdLE c.scratch (padKey (256 * a + l) addr) 4), c)

/-! ### Reads -/

/-- The _LO words of the unit's window; each pair has one latch (R61). -/
def loWord (off : Nat) : Bool :=
  [0x28, 0x30, 0xD8, 0xE0, 0x184, 0x92000, 0x92008].contains off
    || (0x100000 ≤ off && off < 0x210000 && (off % 0x10000 == 0x04 || off % 0x10000 == 0x74))
    || (0x800000 ≤ off && off < 0x810000 && meterLo (off - 0x800000))

/-- A bitwise function of the region of a word that is reserved space (R453, R456). -/
def reservedWord (off : Nat) : Bool :=
  if off < 0x1000 then (ctrlRow off).isNone
  else if off < 0x10000 then true
  else if off < 0x20000 then decide (0x20C ≤ off % 0x1000)
  else if off < 0x90000 then false
  else if off < 0xA0000 then
    let o := off - 0x90000
    !(o < 0x680 || (0x1000 ≤ o && o < 0x1340) || (0x2000 ≤ o && o < 0x2014) || (0x2020 ≤ o && o < 0x203C)
      || (0x3000 ≤ o && o < 0x3420) || (0xF000 ≤ o && o < 0xF040))
  else if off < 0xC0000 then false
  else if off < 0x100000 then true
  else if off < 0x210000 then !(atlRows.any fun r => r.off == off % 0x10000)
  else if off < 0x400000 then true
  else if off < 0x800000 then
    let o := off - 0x400000
    !(o < 0x14 || (0x1000 ≤ o && o < 0x1200) || (0x8000 ≤ o && o < 0x10000))
  else if off < 0x810000 then
    let o := off - 0x800000
    !(o < 0x3C || (0x40 ≤ o && o < 0x80) || (0x1000 ≤ o && o < 0x5000) || 0x8000 ≤ o)
  else true

/-- An access is refused: UNIT_ADDRERR holds it, and the interval's entry counts it (R456). Cause 0 reserved space,
1 privilege, 2 width. -/
def Chip.refuseAccess (c : Chip) (cause off : Nat) : Chip :=
  let c := c.setReg 0x01C (BitVec.ofNat 32 (pack [(cause, 30), (off % 2 ^ 24, 0)]))
  let up (x : Option (Nat × Nat)) : Option (Nat × Nat) := match x with
    | some (o, n) => some (o, n + 1)
    | none => some (off, 1)
  { c with bus := { c.bus with
    addrRsvd := if cause = 0 then up c.bus.addrRsvd else c.bus.addrRsvd
    addrPriv := if cause = 1 then up c.bus.addrPriv else c.bus.addrPriv
    addrWidth := if cause = 2 then up c.bus.addrWidth else c.bus.addrWidth } }

/-- A word of a table window through its entry latch: offset 0 of an entry loads the latch (R234). -/
def latched (latch : Option (Nat × List Byte)) (entry : Nat) (live : List Byte) (o : Nat) :
    Nat × Option (Nat × List Byte) :=
  if o = 0 then (leAt live 0 4, some (entry, live))
  else match latch with
    | some (e, bs) => (if e = entry then leAt bs o 4 else leAt live o 4, latch)
    | none => (leAt live o 4, latch)

/-- A word of a physical atoll's window: ATL_SEQPC shows the program counters of the logical atoll it serves (R306). -/
def Chip.atlWord (c : Chip) (phys off : Nat) : Word :=
  if off = 0x68 then (match c.logicalOf phys with
    | some a => BitVec.ofNat 32 ((tget c.atoll a).tilePc % 8192 * 65536 + (tget c.atoll a).lanePc % 8192)
    | none => 0)
  else c.atlReg phys off

/-- A word of the unit's window outside the meter window, with what its read changes. -/
def Chip.readWord (c : Chip) (off : Nat) : Word × Chip :=
  if reservedWord off then (0, c.refuseAccess 0 off)
  else if off < 0x1000 then (c.ctrlWord off, c)
  else if off < 0x20000 then (c.mbxWord ((off - 0x10000) / 0x1000) (off % 0x1000), c)
  else if off < 0x60000 then
    let q := (off - 0x20000) / 64
    let r := latched c.bus.reqLatch q ((c.rq q).bytes q) (off % 64)
    (BitVec.ofNat 32 r.1, { c with bus := { c.bus with reqLatch := r.2 } })
  else if off < 0x80000 then
    let t := (off - 0x60000) / 32
    let r := latched c.bus.tntLatch t (tget c.tnt t).bytes (off % 32)
    (BitVec.ofNat 32 r.1, { c with bus := { c.bus with tntLatch := r.2 } })
  else if off < 0x90000 then
    let d := (off - 0x80000) / 16
    ((if off % 16 = 0 then tget c.cons d else if off % 16 = 4 then (tget c.ring d).prod else 0), c)
  else if off < 0xA0000 then ((c.pmcWord (off - 0x90000)).getD 0, c)
  else if off < 0xC0000 then
    (BitVec.ofNat 32 (leAt (tget c.logRegion ((off - 0xA0000) / 32)).view (off % 32) 4), c)
  else if off < 0x210000 then (c.atlWord ((off - 0x100000) / 0x10000) (off % 0x10000), c)
  else
    let o := off - 0x400000
    if o = 0 then (c.dbgStatus, c)
    else if !c.dbg.unlocked then (0, c.note .dbgDenied)
    else if o = 4 then (c.dbg.accSel, c) else if o = 8 then (c.dbg.peekSel, c)
    else if o = 12 then (c.dbg.frzTicks, c) else if o = 16 then (c.dbg.halt, c)
    else if o < 0x8000 then c.readDbgAcc ((o - 0x1000) / 4) else c.readDbgPeek (o - 0x8000)

/-- A 4-byte privileged read of the window: _LO words latch their _HI words, _HI words return the latch (R61). The meter section serves
its window while it has power; while the unit is held in reset every other word reads 0 (R457). -/
def State.wordRead (s : State) (off : Nat) : State :=
  let put (s : State) (w : Word) : State := { s with unit := { s.unit with bus := { s.unit.bus with rdata := w.setWidth 64 } } }
  let setLatch (s : State) (w : Word) : State := { s with unit := { s.unit with latch := tset s.unit.latch off w } }
  if 0x800000 ≤ off ∧ off < 0x810000 then
    if !s.meter.powered then put s 0
    else if reservedWord off then put { s with unit := if s.unit.clk.held then s.unit else s.unit.refuseAccess 0 off } 0
    else if loWord off then put (setLatch s (s.meter.word (off - 0x800000 + 4))) (s.meter.word (off - 0x800000))
    else if 4 ≤ off ∧ loWord (off - 4) then put s (tget s.unit.latch (off - 4))
    else put (s.withMeter (s.meter.touch (off - 0x800000))) (s.meter.word (off - 0x800000))
  else if s.unit.clk.held then put s 0
  else if loWord off then
    let r := s.unit.readWord off
    let h := r.2.readWord (off + 4)
    put (setLatch { s with unit := r.2 } h.1) r.1
  else if 4 ≤ off ∧ loWord (off - 4) then put s (tget s.unit.latch (off - 4))
  else
    let r := s.unit.readWord off
    put { s with unit := r.2 } r.1

/-- DBG_ACC (R451). -/
def execDbgAcc (entry : Fin 128) (bad : Bool) (s : State) : Host.Outcome State Fault Refusal :=
  let t := s.wordRead (0x401000 + 4 * entry.val)
  .next (if bad ∧ !s.unit.clk.held ∧ s.unit.dbgLive then { t with unit := t.unit.dbgAccBad entry.val } else t)

/-- DBG_PEEK (R451). -/
def execDbgPeek (addr : BitVec 15) (ecc : Option Bool) (s : State) : Host.Outcome State Fault Refusal :=
  let t := s.wordRead (0x408000 + addr.toNat / 4 * 4)
  .next (match ecc with
    | some u => if !s.unit.clk.held ∧ s.unit.dbgLive then { t with unit := t.unit.dbgPeekEcc addr.toNat u } else t
    | none => t)

/-! ### Refused accesses (R454 to R456, R438) -/

/-- May an unprivileged access reach this word (R453)? Never one that is reserved space (R479). -/
def userMay (write : Bool) (off : Nat) : Bool :=
  !reservedWord (off / 4 * 4) && ((0x10000 ≤ off && off < 0x20000) || (0x80000 ≤ off && off < 0xA0000)
    || (0x800000 ≤ off && off < 0x810000 && !write))

/-- Is the width or alignment of an access refused (R455)? -/
def badWidth (write : Bool) (off width : Nat) : Bool :=
  off % width != 0 || !(width == 4 || width == 8 || (!write && (width == 1 || width == 2)))

/-- Is the offset in the counter window? -/
def inCounters (off : Nat) : Bool := decide (0x90000 ≤ off ∧ off < 0xA0000)

/-- An unprivileged read of the counter window is refused, and logged once in a tick interval (R438). -/
def Chip.pmcDeny (c : Chip) : Chip :=
  if c.bus.pmcDenied then c else ({ c with bus := { c.bus with pmcDenied := true } }).note .pmcDenied

/-- What an access at an offset is refused with for its path or for reserved space; none where it is for neither (R314, R438, R444, R454,
R456). -/
def Chip.refusal (c : Chip) (path : AccessPath) (write : Bool) (off : Nat) : Option Chip :=
  let w := off / 4 * 4
  if path = .user then
    if inCounters w ∧ !write ∧ (!c.rbit 0x200 0 ∨ 0x9F000 ≤ w) then some c.pmcDeny
    else if userMay write off then none else some (c.refuseAccess 1 off)
  else if reservedWord w ∨ (path = .controller ∧ 0x400000 ≤ w ∧ w < 0x810000) then some (c.refuseAccess 0 off)
  else none

/-- An access of a refused width or alignment: the first case that it meets (R455, R456). -/
def Chip.widthRefused (c : Chip) (path : AccessPath) (write : Bool) (off : Nat) : Chip :=
  if c.clk.held then c else (c.refusal path write off).getD (c.refuseAccess 2 off)

end Sys2Proof.Machine
end

