-- ==== Sys2Proof/Machine/Bus.lean ====
section
/-!
DEFINITION. Writes to the register window, unit reset, and controller writes to the limit registers (R11 to R14, R45, R62,
R207, R262, R275, R332, R342 to R346, R458, R477).
-/
namespace Sys2Proof.Machine

/-! ### Unit reset (R477) -/

/-- Unit reset: everything at its Reset column, the unit held in reset. What lies outside the unit, the fused roll count
and the rails keep their state; what has left the unit stays out. -/
def Chip.resetUnit (c : Chip) : Chip :=
  { Chip.reset with
    psram := c.psram, out := c.out, fresh := c.fresh
    fw := { Chip.reset.fw with roll := c.fw.roll }
    pwr := { (default : PwrSt) with rails := c.pwr.rails, standby := c.pwr.standby } }

/-! ### Field writes -/

/-- The log of a write with non-zero reserved bits (R13). -/
def Chip.noteRsvd (c : Chip) (off rsvd : Nat) (val : Word) : Chip :=
  if Nat.land val.toNat rsvd ≠ 0 then c.note .rsvdWrite 0 off val.toNat else c

/-- The log of a write of a reserved encoding (R14). -/
def Chip.noteValue (c : Chip) (off : Nat) (val : Word) (bad : Bool) : Chip :=
  if bad then c.note .rsvdValue 0 off val.toNat else c

/-- The value last written to a register whose writes wait for the next tick, or the value in force. -/
def Chip.lastWritten (c : Chip) (off : Nat) : Word := (tget c.regNext off).getD (c.reg off)

/-- A value waits for the next tick. -/
def Chip.setNext (c : Chip) (off : Nat) (w : Word) : Chip := { c with regNext := tset c.regNext off (some w) }

/-- UNIT_TICKCFG: is BGSLOT, or PERIOD_US, of a value a reserved encoding (R62)? -/
def bgslotBad (w : Word) : Bool := let b := fld w.toNat 23 16; b < 0x08 ∨ 0x40 < b
def periodBad (w : Word) : Bool := let p := fld w.toNat 14 0; p < 100 ∨ 20000 < p

/-- A host write of UNIT_TICKCFG (R13, R14, R62) (log entry 77). -/
def Chip.writeTickcfg (c : Chip) (val : Word) : Chip :=
  let old := (c.lastWritten 0x020).toNat
  let b := if bgslotBad val then fld old 23 16 else fld val.toNat 23 16
  let p := if periodBad val then fld old 14 0 else fld val.toNat 14 0
  let c := { c with cyc := { c.cyc with tickcfg := true } }
  let c := (c.noteRsvd 0x020 0xFF008000 val).noteValue 0x020 val (bgslotBad val || periodBad val)
  c.setNext 0x020 (BitVec.ofNat 32 (b * 0x10000 + p))

/-- A host write of UNIT_MERGECFG: one whose INDEX exceeds SIZEM1 changes nothing (R207). -/
def Chip.writeMergecfg (c : Chip) (val : Word) : Chip :=
  let c := c.noteRsvd 0x090 0x7F00C0C0 val
  if fld val.toNat 5 0 < fld val.toNat 13 8 then c.noteValue 0x090 val true
  else c.setNext 0x090 (val &&& 0x80FF3F3F#32)

/-- A host write of UNIT_LOADCFG (R332). -/
def Chip.writeLoadcfg (c : Chip) (val : Word) : Chip :=
  let q := fld val.toNat 7 0
  let c := c.noteRsvd 0x124 0xFFFFFF00 val
  if q < 0x10 ∨ 0x40 < q then c.noteValue 0x124 val true else c.setNext 0x124 (BitVec.ofNat 32 q)

/-- Is any request PARKING, PARKED or RESUMING (R275)? -/
def Chip.anyParked (c : Chip) : Bool :=
  c.req.any fun p => p.2.state = .parking ∨ p.2.state = .parked ∨ p.2.state = .resuming

/-- A host write of a parking register (R275). -/
def Chip.writePark (c : Chip) (off : Nat) (val : Word) : Chip :=
  let rsvd := if off = 0x0D4 then 0xFFFFFF00 else if off = 0x0D8 then 0x00000FFF else 0xFFFF0000
  let c := c.noteRsvd off rsvd val
  if c.anyParked then c.note .parkBusy 0 off val.toNat
  else c.setNext off (val &&& ~~~ (BitVec.ofNat 32 rsvd))

/-- A host write of UNIT_IRQMASK: clearing the mask of a pending source sends its message (R345, R346). -/
def Chip.writeIrqmask (c : Chip) (val : Word) : Chip :=
  let old := c.reg 0x12C
  let c := (c.noteRsvd 0x12C 0xFFFF0000 val).setReg 0x12C (val &&& 0xFFFF#32)
  (List.range 16).foldl (fun c i =>
    if old.getLsbD i ∧ !val.getLsbD i ∧ c.rbit 0x128 i then c.msix i else c) c

/-- RUN is set: the holdover count starts from this write, and there has been no tick since (R46, R63). -/
def Chip.startRun (c : Chip) : Chip :=
  let c := { c with tick := { c.tick with holdBase := c.clk.now, inHold := false, holdDue := false } }
  (c.clrReg 0x024 0xC00#32).orReg 0x008 1#32

/-- RUN is cleared: no further step starts, holdover ends; while no step runs the accepted commands are due (R45, R46,
R327). -/
def Chip.stopRun (c : Chip) : Chip :=
  let c := ({ c with tick := { c.tick with inHold := false, holdDue := false } }).clrReg 0x008 1#32
  if c.ready ∧ !c.stp.active then c.markDue else c

/-- A host write of UNIT_CTRL (R458): RESET with the key resets the unit; RUN starts or stops steps; a write of 1 after
a fail-stop is ignored (R386). -/
def Chip.writeCtrl (c : Chip) (val : Word) : Chip :=
  let c := c.noteRsvd 0x008 0xFFFF00FA val
  if val.getLsbD 2 ∧ fld val.toNat 15 8 = 0xA5 then c.resetUnit
  else
    let c := c.noteValue 0x008 val (val.getLsbD 2)
    if val.getLsbD 0 then (if c.stopped ∨ c.run then c else c.startRun)
    else if c.run then c.stopRun else c

/-- A host write of a ring's CONS (R262). -/
def Chip.writeCons (c : Chip) (d : Nat) (val : Word) : Chip := { c with cons := tset c.cons d val }

/-- A write of a register that its row describes (R11 to R13). -/
def Chip.writeRow (c : Chip) (r : RegRow) (val : Word) : Chip :=
  let rw := BitVec.ofNat 32 r.rw
  let kept := c.clears r.off (c.reg r.off) (BitVec.ofNat 32 r.w1c) val
  (c.setReg r.off ((kept &&& ~~~ rw) ||| (val &&& rw))).noteRsvd r.off r.rsvd val

/-- A host write of UNIT_IRQSTAT: a pending source that hardware has set in the cycle of the clear stays, and sends its message
(R12, R345, R346). -/
def Chip.writeIrqstat (c : Chip) (val : Word) : Chip :=
  let stays := tget c.cyc.set 0x128 &&& val &&& ~~~ c.reg 0x12C &&& 0xFFFF#32
  let c := (c.setReg 0x128 (c.clears 0x128 (c.reg 0x128) 0xFFFF#32 val)).noteRsvd 0x128 0xFFFF0000 val
  (List.range 16).foldl (fun c i => if stays.getLsbD i then c.msix i else c) c

/-- A host write of UNIT_LOGSTAT: LCVALID clears unless it was set in this cycle (R12, R421). -/
def Chip.writeLogstat (c : Chip) (r : RegRow) (val : Word) : Chip :=
  let clear := val.getLsbD 4 && !(tget c.cyc.set 0x180).getLsbD 4
  ({ c with log := { c.log with lcValid := c.log.lcValid && !clear } }).writeRow r val

/-- A write to the unit control page. -/
def Chip.writeCtrlPage (c : Chip) (off : Nat) (val : Word) : Chip :=
  if off = 0x008 then c.writeCtrl val
  else if off = 0x020 then c.writeTickcfg val
  else if off = 0x090 then c.writeMergecfg val
  else if off = 0x0D4 ∨ off = 0x0D8 ∨ off = 0x0DC then c.writePark off val
  else if off = 0x124 then c.writeLoadcfg val
  else if off = 0x12C then c.writeIrqmask val
  else match ctrlRow off with
    | none => c
    | some r => if off = 0x128 then c.writeIrqstat val else if off = 0x180 then c.writeLogstat r val else c.writeRow r val

/-- A write to a mailbox page (R317, R319, R321, R348). -/
def Chip.writeMbx (c : Chip) (m off : Nat) (val : Word) : Chip :=
  let b := c.mb m
  if off < 0x100 then
    if b.state = .busyBoot then c
    else if b.state = .posted ∨ b.state = .accepted then c.note .mbxLocked 0 m off
    else c.modMbx m fun b => { b with msg := wrBytes b.msg off (toLE 4 val.toNat) }
  else if off < 0x200 then c
  else if off = 0x200 then
    let c := if b.state = .busyBoot then c else c.noteRsvd (0x10000 + 0x1000 * m + off) 0xFFFFFFFC val
    if val.getLsbD 0 then c.doRing m else if val.getLsbD 1 then c.doAck m else c
  else if off = 0x204 then c.noteRsvd (0x10000 + 0x1000 * m + off) 0xFFFFFCF8 val
  else c.noteRsvd (0x10000 + 0x1000 * m + off) 0xFFFE0000 val

/-- DBG_ACCSEL or DBG_PEEKSEL after a write: a reserved ATOLL or LANE leaves its field unchanged (R14, R450). -/
def dbgSel (old val : Word) (setBit : Nat) : Word :=
  let a := if 16 < fld val.toNat 20 16 then fld old.toNat 20 16 else fld val.toNat 20 16
  let l := if 263 < fld val.toNat 8 0 then fld old.toNat 8 0 else fld val.toNat 8 0
  BitVec.ofNat 32 (pack [(setBit, 24), (a, 16), (l, 0)])

/-- A write to the debug window (R450). -/
def Chip.writeDbg (c : Chip) (off : Nat) (val : Word) : Chip :=
  if !c.dbg.unlocked then c.note .dbgDenied
  else
    let bad := decide (16 < fld val.toNat 20 16 ∨ 263 < fld val.toNat 8 0)
    if off = 4 then
      let c := (c.noteRsvd 0x400004 0xFEE0FE00 val).noteValue 0x400004 val bad
      { c with dbg := { c.dbg with accSel := dbgSel c.dbg.accSel val (fld val.toNat 24 24) } }
    else if off = 8 then
      let c := (c.noteRsvd 0x400008 0xFFE0FE00 val).noteValue 0x400008 val bad
      { c with dbg := { c.dbg with peekSel := dbgSel c.dbg.peekSel val 0 } }
    else if off = 0 then c.noteRsvd 0x400000 0xFFFFFF00 val
    else c

/-- A write to an atoll window (R115, R142, R306, R420). -/
def Chip.writeAtl (c : Chip) (p off : Nat) (val : Word) : Chip :=
  match atlRows.find? fun r => r.off == off with
  | none => c
  | some r =>
    let c := c.setAtl p off (c.clears (atlKey p off) (c.atlReg p off) (BitVec.ofNat 32 r.w1c) val)
    c.noteRsvd (atlKey p off) r.rsvd val

/-- A privileged 4-byte write by the host, by region (R453). While the unit is held in reset it is dropped (R457); a misaligned one is
refused (R455). An 8-byte write is two of them. -/
def Chip.hostWrite (c : Chip) (off : Nat) (val : Word) : Chip :=
  if c.clk.held then c
  else if off % 4 ≠ 0 then c.widthRefused .supervisor true off
  else if reservedWord off then c.refuseAccess 0 off
  else if inCounters off then
    let o := off - 0x90000
    if 0x2020 ≤ o ∧ o < 0x203C then
      let w := (o - 0x2020) / 4
      let left := c.clears off (tget c.pmc.ovfBits w) 0xFFFFFFFF#32 val
      let c := { c with pmc := { c.pmc with ovfBits := tset c.pmc.ovfBits w left } }
      if w = 6 then c.noteRsvd off 0xFFFF0000 val else c
    else c.note .rsvdWrite 0 off val.toNat
  else if 0x800000 ≤ off ∧ off < 0x810000 then c.note .mtrWrite
  else if off < 0x1000 then c.writeCtrlPage off val
  else if off < 0x20000 then c.writeMbx ((off - 0x10000) / 0x1000) (off % 0x1000) val
  else if off < 0x80000 then c.note .tableWrite 0 off val.toNat
  else if off < 0x90000 then
    if off % 16 = 0 then c.writeCons ((off - 0x80000) / 16) val
    else if off % 16 = 4 then c else c.noteRsvd off 0xFFFFFFFF val
  else if off < 0xC0000 then c
  else if off < 0x210000 then c.writeAtl ((off - 0x100000) / 0x10000) (off % 0x10000) val
  else c.writeDbg (off - 0x400000) val

/-! ### Controller writes to the limits (R342, R343) -/

/-- A field of a limit register: offset, high bit, low bit, least and greatest legal value, and which way is tighter. -/
structure LimField where
  off : Nat
  hi : Nat
  lo : Nat
  min : Nat
  max : Nat

/-- The integer fields of the limit registers (R342) (log entry 76). -/
def limFields : List LimField :=
  [⟨0x140, 31, 25, 40, 125⟩, ⟨0x140, 24, 14, 1, 1024⟩, ⟨0x140, 13, 10, 0, 8⟩, ⟨0x140, 9, 5, 1, 16⟩, ⟨0x144, 12, 0, 1, 4096⟩]

/-- Is an FP32 pattern finite? -/
def f32Finite (w : Word) : Bool := fld w.toNat 30 23 ≠ 255

/-- The order of FP32 patterns as numbers: a signed key, with −0 equal to +0. -/
def f32Key (w : Word) : Int := if w.toNat < 2 ^ 31 then Int.ofNat w.toNat else -(Int.ofNat (w.toNat - 2 ^ 31))

/-- The outcome of one field of a limit write. -/
inductive LimVerdict where
  | take | loose | bad | conflict
  deriving DecidableEq, Repr

/-- The largest NPHASE of a template of the plan in force or staged (R343). -/
def Chip.maxNphase (c : Chip) : Nat :=
  let f (p : Plan) : Nat := p.nphase.foldl max 0
  max (match c.plan.cur with
    | some p => f p
    | none => 0) (match c.plan.staged with
    | some p => f p.plan
    | none => 0)

/-- The verdict on an integer field: reserved value, looser than the pending value, or PHASES below a template (R343). -/
def Chip.limInt (c : Chip) (f : LimField) (val : Word) : LimVerdict :=
  let v := fld val.toNat f.hi f.lo
  let cur := fld (c.lastWritten f.off).toNat f.hi f.lo
  if v < f.min ∨ f.max < v then .bad
  else if cur < v then .loose
  else if f.lo = 5 ∧ v < c.maxNphase then .conflict else .take

/-- Is the limit at an offset a lower bound? -/
def limIsLo (off : Nat) : Bool := off = 0x148 ∨ off = 0x150

/-- The verdict on an FP32 limit, with the value its partner bound will have (R343). -/
def Chip.limFp (c : Chip) (off : Nat) (val other : Word) : LimVerdict :=
  let cur := c.lastWritten off
  if !f32Finite val then .bad
  else if off = 0x158 ∧ val.toNat ≥ 2 ^ 31 then .bad
  else if limIsLo off then
    if f32Key other < f32Key val then .bad else if f32Key val < f32Key cur then .loose else .take
  else if off ≠ 0x158 ∧ f32Key val < f32Key other then .bad
  else if f32Key cur < f32Key val then .loose else .take

/-- The partner bound of an FP32 limit. -/
def limPartner (off : Nat) : Nat :=
  if off = 0x148 then 0x14C else if off = 0x14C then 0x148 else if off = 0x150 then 0x154 else 0x150

/-- Log a dropped field of a limit write by a controller (R343). -/
def Chip.noteLimit (c : Chip) (off : Nat) (val : Word) : LimVerdict → Chip
  | .take => c
  | .loose => c.note .lockedWrite 28 off val.toNat
  | .bad => c.note .rsvdValue 28 off val.toNat
  | .conflict => c.note .limitConflict 28

/-- A limit register with one field written. -/
def setField (w : Word) (hi lo v : Nat) : Word :=
  BitVec.ofNat 32 (w.toNat - fld w.toNat hi lo * 2 ^ lo + v * 2 ^ lo)

/-- A controller write to a limit register: each field on its own, judged against its pending value (R343). Before the
boot ROM has run there is no controller write. -/
def Chip.limitWrite (c : Chip) (off : Nat) (val : Word) : Chip :=
  if off = 0x140 ∨ off = 0x144 then
    let c := c.noteRsvd off (if off = 0x140 then 0x1F else 0xFFFFE000) val
    (limFields.filter fun f => f.off == off).foldl (fun c f =>
      match c.limInt f val with
      | .take => c.setNext off (setField (c.lastWritten off) f.hi f.lo (fld val.toNat f.hi f.lo))
      | v => c.noteLimit off val v) c
  else if [0x148, 0x14C, 0x150, 0x154, 0x158].contains off then
    match c.limFp off val (c.lastWritten (limPartner off)) with
    | .take => c.setNext off val
    | v => c.noteLimit off val v
  else c

/-! ### Accesses of any width and path (R313, R453 to R457) -/

/-- What a read answers. -/
def State.withRdata (s : State) (d : DWord) : State := { s with unit := { s.unit with bus := { s.unit.bus with rdata := d } } }

/-- The bad words that a read meets (R381). -/
def State.meets (s : State) (ecc : List ReadFind) : State := if s.unit.clk.held then s else { s with unit := s.unit.reads ecc }

/-- Is the register a limit, which the controller may write (R343)? -/
def limReg (off : Nat) : Bool := [0x140, 0x144, 0x148, 0x14C, 0x150, 0x154, 0x158].contains off

/-- The write of a word that its path allows: no user write of the counter window (R438), the limits on the controller path (R343). -/
def Chip.pathWrite (c : Chip) (path : AccessPath) (off : Nat) (val : Word) : Chip :=
  if path = .user ∧ inCounters off then c.note .rsvdWrite 0 off val.toNat
  else if path = .controller ∧ limReg off then c.limitWrite off val
  else c.hostWrite off val

/-- An access to the word that holds an offset: refused, or served as 4 bytes (R454 to R457). -/
def State.accessWord (s : State) (path : AccessPath) (write : Bool) (off : Nat) (val : Word) : State :=
  if s.unit.clk.held then (if write ∨ path = .controller then s.withRdata 0 else s.wordRead (off / 4 * 4))
  else match s.unit.refusal path write off with
    | some c => ({ s with unit := c }).withRdata 0
    | none => if write then { s with unit := s.unit.pathWrite path off val } else s.wordRead (off / 4 * 4)

/-- An access to the unit window (R455): refused for its width, one word, two words in ascending order, or the 1 or 2 bytes addressed of a
word. -/
def State.access (s : State) (path : AccessPath) (write : Bool) (off width : Nat) (data : DWord) : State :=
  if badWidth write off width then ({ s with unit := s.unit.widthRefused path write off }).withRdata 0
  else if width = 4 then s.accessWord path write off (data.setWidth 32)
  else if width = 8 then
    let t := s.accessWord path write off (data.setWidth 32)
    let u := t.accessWord path write (off + 4) ((data >>> 32).setWidth 32)
    if write then u else u.withRdata (u.unit.bus.rdata <<< 32 ||| t.unit.bus.rdata)
  else
    let t := s.accessWord path false off 0
    t.withRdata (BitVec.ofNat 64 (t.unit.bus.rdata.toNat / 2 ^ (8 * (off % 4)) % 2 ^ (8 * width)))

/-- The plan descriptor with bytes written at an offset (R316). -/
def patchDesc (d : PlanDesc) (off : Nat) (bs : List Byte) : PlanDesc :=
  ⟨(List.range 64).map fun i => if off ≤ i ∧ i < off + bs.length then bs.getD (i - off) 0 else d.bytes.getD i 0⟩

/-- An access of the controller to a range of its own: data memory and plan descriptor are read and written, the running slot's bank is
read; what the command port reads as is a free value, since its layout is not given (R313) (log entry 13). -/
def Chip.coreAccess (c : Chip) (path : AccessPath) (write : Bool) (off width : Nat) (data : DWord) : Chip :=
  let bs := toLE width data.toNat
  let put (c : Chip) (v : Nat) : Chip := { c with bus := { c.bus with rdata := BitVec.ofNat 64 v } }
  if c.clk.held then put c 0
  else match path with
    | .coreData =>
      if write then { c with fw := { c.fw with core := { c.fw.core with data := wrBytes c.fw.core.data off bs } } }
      else put c (rdLE c.fw.core.data off width)
    | .descriptor =>
      if write then { c with plan := { c.plan with desc := patchDesc c.plan.desc off bs } }
      else put c (leAt c.plan.desc.bytes off width)
    | .coreBank => if write then c else put c (leAt (c.fw.slot c.fw.active).body off width)
    | .commandPort => if write then c else put c.free.2 (c.free.1.toNat % 2 ^ (8 * width))
    | _ => c

/-- READ_LO (R61, R455). -/
def execReadLo (at_ : ReadAt) (s : State) : Host.Outcome State Fault Refusal :=
  .next ((s.meets at_.ecc).access .supervisor false at_.off.toNat 4 0)

/-- ENTRY_LATCH_READ (R234): a read of a word of a table entry; offset 0 loads the entry latch. -/
def execEntryLatchRead (at_ : ReadAt) (s : State) : Host.Outcome State Fault Refusal :=
  .next ((s.meets at_.ecc).access .supervisor false at_.off.toNat 4 0)

/-- REFUSED_ACCESS (R456): an access of any width and path. -/
def execRefusedAccess (write : Bool) (off : BitVec 24) (width : Nat) (data : AccessData) (path : AccessPath) (s : State) :
    Host.Outcome State Fault Refusal :=
  let t := s.meets data.ecc
  .next (match path with
    | .coreData | .descriptor | .coreBank | .commandPort =>
      { t with unit := t.unit.coreAccess path write off.toNat width data.val }
    | _ => t.access path write off.toNat width data.val)

/-! ### Commands -/

/-- A write to instruction memory that is not the SET_PLAN loader's is dropped; one to the active bank is recorded (R281). -/
def Chip.imemWrite (c : Chip) (p : Nat) (bank : Bool) : Chip :=
  if c.clk.held ∨ bank ≠ c.bankSel then c else (c.orAtl p 0x64 2#32).note .ibankActive (p + 1)

/-- REGISTER_WRITE (R11). -/
def execRegisterWrite (off : BitVec 24) (data : WriteData) (s : State) : Host.Outcome State Fault Refusal :=
  .next { s with unit := match data.imem with
    | some x => s.unit.imemWrite x.1.val x.2
    | none => s.unit.hostWrite off.toNat data.val }

/-- RUN (R45): a write of UNIT_CTRL whose RESET bit is 0. -/
def execRun (val : Word) (s : State) : Host.Outcome State Fault Refusal := .next { s with unit := s.unit.hostWrite 0x008 val }

/-- RESET (R477): a write of UNIT_CTRL. -/
def execReset (val : Word) (s : State) : Host.Outcome State Fault Refusal :=
  .next { s with unit := s.unit.hostWrite 0x008 val }

/-- MERGECFG_WRITE (R207). -/
def execMergecfgWrite (val : Word) (s : State) : Host.Outcome State Fault Refusal :=
  .next { s with unit := s.unit.hostWrite 0x090 val }

/-- PARK_CONFIG_WRITE (R275). -/
def execParkConfigWrite (off : BitVec 24) (val : Word) (s : State) : Host.Outcome State Fault Refusal :=
  .next { s with unit := if off.toNat = 0x0D4 ∨ off.toNat = 0x0D8 ∨ off.toNat = 0x0DC then s.unit.hostWrite off.toNat val
                         else s.unit }

/-- CONS_WRITE (R263): the host writes a ring's consumer index. -/
def execConsWrite (desc : BitVec 12) (val : Word) (s : State) : Host.Outcome State Fault Refusal :=
  .next { s with unit := s.unit.hostWrite (0x80000 + 16 * desc.toNat) val }

/-- IRQ_UNMASK (R346). -/
def execIrqUnmask (val : Word) (s : State) : Host.Outcome State Fault Refusal :=
  .next { s with unit := s.unit.hostWrite 0x12C val }

/-- LIMIT_WRITE (R343). -/
def execLimitWrite (off : BitVec 24) (val : Word) (s : State) : Host.Outcome State Fault Refusal :=
  .next { s with unit := if s.unit.clk.held then s.unit else s.unit.limitWrite off.toNat val }

end Sys2Proof.Machine
end

