-- ==== Sys2Proof/Machine/Boot.lean ====
section
/-!
DEFINITION. Reset release, boot, policy firmware images, power and heat (R64, R65, R336 to R340, R347 to R349, R472 to R477).
-/
namespace Sys2Proof.Machine

/-- UNIT_STATUS.BOOT (R458). -/
def Chip.boot (c : Chip) : Nat := c.rfld 0x00C 3 1

/-- Set UNIT_STATUS.BOOT. -/
def Chip.setBoot (c : Chip) (v : Nat) : Chip :=
  c.setReg 0x00C ((c.reg 0x00C &&& ~~~ 0xE#32) ||| BitVec.ofNat 32 (2 * v))

/-! ### Boot (R347) -/

/-- RESET_RELEASE (R64, R347, R472): the unit leaves reset only while VDD_STBY is present. FCLK runs from the PLLs' lock, at most 0.5 ms
later, UCLK from 64 reference cycles after that, and HCLK from another 64; the tick receiver starts to sample with UCLK (R40). -/
def Chip.release (c : Chip) : Chip :=
  if !c.clk.held ∨ !c.pwr.standby then c
  else
    let lock := min Config.pllLock 525000
    { c with
    clk := { (default : Clocks) with fclk0 := lock, uclk0 := lock + 672, hclk0 := lock + 1344 }
    tick := { c.tick with lastChange := lock + 672 }
    pwr := { c.pwr with rails := true, tripped := false } }

/-- RESET_RELEASE (R347). -/
def execResetRelease (s : State) : Host.Outcome State Fault Refusal := .next { s with unit := s.unit.release }

/-- ALIGNMENT (R64, R65): once every clock runs, the crossings are trained and BIST starts, which will find `bist` in the silicon; or three
attempts have failed and the unit does not become READY. -/
def Chip.align (c : Chip) (trained : Bool) (bist : List BistFault) : Chip :=
  if c.clk.held ∨ c.clk.now < c.clk.hclk0 ∨ c.boot ≠ 0 ∨ c.rbit 0x00C 8 then c
  else if trained then { c.setBoot 1 with rpr := { c.rpr with bist := bist } }
  else (c.orReg 0x00C 0x100#32).note .alignFail

/-- ALIGNMENT (R64). -/
def execAlignment (training : Training) (s : State) : Host.Outcome State Fault Refusal :=
  .next { s with unit := s.unit.align training.trained training.bist }

/-- BOOT_VERIFY (R347, R349), after the boot ROM has run: image A into slot A; if it fails, image B into slot B; if both fail, recovery, in
which mailbox 0 reads IDLE. -/
def Chip.bootVerify (c : Chip) (a b : List Byte) : Chip :=
  let good (img : List Byte) : Bool := policyOk img && decide (c.fw.roll.toNat ≤ imgSvn (img.take 256))
  if c.clk.held ∨ c.boot ≠ 3 then c
  else if good a then
    (({ c with fw := { c.fw with slotA := fwSlotOf true a, active := false } }).restartCore).setBoot 4
  else if good b then
    (({ c with fw := { c.fw with slotB := fwSlotOf true b, active := true } }).restartCore).setBoot 4
  else ((c.setBoot 6).orReg 0x110 0x200#32).modMbx 0 fun b => { b with state := .idle }

/-- BOOT_VERIFY (R347). -/
def execBootVerify (imageA imageB : List Byte) (s : State) : Host.Outcome State Fault Refusal :=
  .next { s with unit := s.unit.bootVerify imageA imageB }

/-- The unit's ingress credits after READY by class (R460). -/
def fullPool (cls : Nat) : Nat :=
  if cls = 0 ∨ cls = 1 then 2048 else if cls = 2 then 1024 else if cls = 3 ∨ cls = 5 then 512 else 0

/-- The classes a port receives (R460). -/
def ingressClasses : List Nat := [0, 1, 2, 3, 5]

/-- Credits are added to the totals that a port has advertised, by class (R460). -/
def FabPort.grant (p : FabPort) (pool : Nat → Nat) : FabPort :=
  { p with granted := ingressClasses.foldl (fun g k => tset g k (tget g k + pool k)) p.granted }

/-- Credits of an ingress class before READY (R463). -/
def bootPool : Nat := 8

/-- The base of a port's registers (R467). -/
def fabOff (p : Nat) : Nat := 0x400 + 0x20 * p

/-- Every trained port moves up to its full pools (R463). -/
def Chip.fullPools (c : Chip) : Chip :=
  (List.range 9).foldl (fun c p =>
    if c.rbit (fabOff p) 6 then { c with fab := tmod c.fab p fun x => x.grant fun k => fullPool k - bootPool } else c) c

/-- READY (R347, R348, R463): every mailbox IDLE with VALID 0, no interrupt pending and every source masked, every trained
port at its full pools. -/
def Chip.becomeReady (c : Chip) : Chip :=
  if c.clk.held ∨ c.boot ≠ 4 then c
  else
    let c := ((c.setBoot 5).orReg 0x00C 1#32).clrReg 0x110 0x200#32
    let c := (c.setReg 0x128 0#32).setReg 0x12C 0xFFFF#32
    { c.fullPools with
      mbx := c.mbx.map fun p => (p.1, { p.2 with state := .idle, seqValid := false, routine := none, queued := false }) }

/-! ### Policy firmware (R336 to R340) -/

/-- Is the slot of a number the running one? In recovery no slot runs. -/
def Chip.slotRuns (c : Chip) (n : Nat) : Bool := !c.recovering && decide ((n = 1) = (c.fw.active = true))

/-- The image in package SRAM that a LOAD_FW names. -/
def Chip.fwImage (c : Chip) (b : Mailbox) : List Byte :=
  let a := b.pay 0 8
  rdBytes c.psram a (256 + min policyMax (rdLE c.psram (a + 12) 4))

/-- LOAD_FW (R337): the inactive slot becomes invalid while it is written. -/
def Chip.loadFw (c : Chip) (m : Mbx) (b : Mailbox) : Chip :=
  if 2 ≤ b.target then c.finish m 0x0015
  else if c.slotRuns b.target then c.finish m 0x0042
  else
    let c := { c with fw := c.fw.setSlot (b.target == 1) default }
    c.beginRoutine m { c.newRoutine b with left := (c.fwImage b).length }

/-- LOAD_FW (R337). -/
def execLoadFw (m : Mbx) (s : State) : Host.Outcome State Fault Refusal :=
  .next { s with unit := s.unit.applyCmd m 0x0500 fun c b => c.loadFw m b }

/-- The verified slot becomes VALID and the command ends with its version (R329, R337). -/
def Chip.commitFw (c : Chip) (m : Mbx) (b : Mailbox) : Chip :=
  let one := b.target == 1
  let x := c.fw.slot one
  ({ c with fw := c.fw.setSlot one { x with valid := true } }).finish m 0x0000 (toLE 4 x.version.toNat)

/-- FW_IMAGE_VERIFIED (R336, R337): SIG_BAD, ROLLBACK, or an image that waits for its commit tick; in recovery it commits
at once (R349). -/
def Chip.fwVerified (c : Chip) (m : Mbx) : Chip :=
  let b := c.mb m
  match b.routine with
  | none => c
  | some r =>
    if r.code ≠ 0x0500 ∨ r.ready ∨ (r.left ≠ 0 ∧ !c.recovering) then c
    else
      let img := c.fwImage b
      if !policyOk img then c.finish m 0x0040
      else if imgSvn (img.take 256) < c.fw.roll.toNat then c.finish m 0x0041
      else
        let c := { c with fw := c.fw.setSlot (b.target == 1) (fwSlotOf false img) }
        if c.recovering then c.commitFw m b
        else c.modMbx m fun b => { b with routine := some { r with ready := true, tick := c.tick.cnt } }

/-- FW_IMAGE_VERIFIED (R336). -/
def execFwImageVerified (m : Mbx) (s : State) : Host.Outcome State Fault Refusal :=
  .next { s with unit := s.unit.fwVerified m }

/-- LOAD_FW_COMMIT (R337). -/
def execLoadFwCommit (m : Mbx) (s : State) : Host.Outcome State Fault Refusal :=
  .next { s with unit := s.unit.commitCmd m 0x0500 fun c b r => if r.ready then c.commitFw m b else c }

/-- ACTIVATE_FW (R338); in recovery the image starts at once (R349). -/
def Chip.activateFw (c : Chip) (m : Mbx) (b : Mailbox) : Chip :=
  if 2 ≤ b.target then c.finish m 0x0015
  else if c.slotRuns b.target then c.finish m 0x0042
  else if !(c.fw.slot (b.target == 1)).valid then c.finish m 0x0043
  else if c.recovering then
    let c := ({ c with fw := { c.fw with active := b.target == 1 } }).restartCore
    ((c.activated m b).setBoot 4).clrReg 0x110 0x200#32
  else c.beginRoutine m (c.newRoutine b)

/-- ACTIVATE_FW (R338). -/
def execActivateFw (m : Mbx) (s : State) : Host.Outcome State Fault Refusal :=
  .next { s with unit := s.unit.applyCmd m 0x0501 fun c b => c.activateFw m b }

/-- At the T+0 of the next step the active slot flips and the controller restarts; the image is then on trial (R338, R339). -/
def Chip.activateCommit (c : Chip) (m : Mbx) : Chip :=
  match (c.mb m).routine with
  | none => c
  | some r =>
    if r.code ≠ 0x0501 ∨ r.ready ∨ c.tick.cnt = r.tick ∨ !c.atT0 ∨ c.stopped then c
    else (({ c with fw := { c.fw with active := r.target == 1, lateRun := 0 } }).restartCore).modMbx m fun b =>
      { b with routine := some { r with ready := true } }

/-- ACTIVATE_FW_COMMIT (R338). -/
def execActivateFwCommit (m : Mbx) (s : State) : Host.Outcome State Fault Refusal := .next { s with unit := s.unit.activateCommit m }

/-- FW_REVERT (R339): at a tick the slots flip back, the previous image restarts, the command ends with FW_REVERTED. -/
def Chip.fwRevertNow (c : Chip) : Chip :=
  if !c.fw.revertDue ∨ !c.atT0 then c
  else
    let c := ({ c with fw := { c.fw with active := !c.fw.active, revertDue := false, lateRun := 0 } }).restartCore
    let c := (c.orReg 0x110 1#32).note .fwRevert 28
    (List.finRange 16).foldl (fun c m => match (c.mb m.val).routine with
      | some r => if r.code = 0x0501 ∧ r.ready then c.finish m.val 0x0044 else c
      | none => c) c

/-- FW_REVERT (R339). -/
def execFwRevert (s : State) : Host.Outcome State Fault Refusal := .next { s with unit := s.unit.fwRevertNow }

/-! ### Power and heat (R472 to R477) -/

/-- An upward crossing of 95 °C sets THERMWARN and is logged once (R474). -/
def Chip.crossWarn (c : Chip) (tj : Byte) : Chip :=
  if 95 ≤ tj.toNat ∧ c.pwr.tj.toNat < 95 then (c.orReg 0x010 8#32).note .thermWarn else c

/-- A temperature report: UNIT_TEMP, the warning, and the cycle at which TJ was last at or above 100 °C (R474, R475). -/
def Chip.setTemp (c : Chip) (tj : Byte) : Chip :=
  let c := c.crossWarn tj
  let mx := max (c.rfld 0x014 23 16) tj.toNat
  let hot := 100 ≤ tj.toNat ∨ 100 ≤ c.pwr.tj.toNat
  let c := c.setReg 0x014 (BitVec.ofNat 32 (mx * 0x10000 + tj.toNat))
  { c with pwr := { c.pwr with tj := tj, lastHot := if hot then c.clk.now else c.pwr.lastHot } }

/-- UNIT_LIMITS.POWER in mW (R342). -/
def Chip.powerLimit (c : Chip) : Nat := 1000 * c.rfld 0x140 31 25

/-- POWER_WINDOW (R473): PAVG, PMAX, and OVERPOWER when the average exceeds UNIT_LIMITS.POWER. -/
def Chip.powerWindow (c : Chip) (mw : Nat) (tj : Byte) : Chip :=
  if c.clk.held then c
  else
    let w := min 255 (mw / 1000)
    let c := c.setTemp tj
    let mx := max (c.rfld 0x010 15 8) w
    let c := c.setReg 0x010 ((c.reg 0x010 &&& 0x1F#32) ||| BitVec.ofNat 32 (w * 0x10000 + mx * 0x100))
    let c := { c with pwr := { c.pwr with windows := (mw :: c.pwr.windows).take 8 } }
    if c.powerLimit < mw then (c.orReg 0x010 0x10#32).note .overpower else c

/-- POWER_WINDOW (R473). -/
def execPowerWindow (milliwatt : Nat) (tj : Byte) (s : State) : Host.Outcome State Fault Refusal :=
  .next { s with unit := s.unit.powerWindow milliwatt tj }

/-- Is there a power cause: did the last window exceed UNIT_LIMITS.POWER (R473)? -/
def Chip.overDrawn (c : Chip) : Bool := c.pwr.windows.head?.any fun w => decide (c.powerLimit < w)

/-- CLK_HALVED (R67, R473, R474): one halving, with every cause in force in UNIT_PWRSTAT. A thermal cause is a TJ of 105 °C. -/
def Chip.halve (c : Chip) (thermal power : Bool) (tj : Byte) : Chip :=
  let thermal := thermal && decide (105 ≤ tj.toNat)
  let power := power && c.overDrawn
  let cause := pack [(b2n thermal, 0), (b2n power, 1)]
  if c.clk.held ∨ cause = 0 then c
  else
    let c := (c.setTemp tj).orReg 0x010 (BitVec.ofNat 32 (pack [(b2n thermal, 0), (b2n power, 1)]))
    if c.pwr.halved then c
    else
      let c := { c with pwr := { c.pwr with halved := true }, clk := { c.clk with phase := false } }
      ((c.count 0x018 1).orReg 0x024 8#32).note .clkHalved 0 1 cause

/-- CLK_HALVED (R67). -/
def execClkHalved (thermal power : Bool) (tj : Byte) (s : State) : Host.Outcome State Fault Refusal :=
  .next { s with unit := s.unit.halve thermal power tj }

/-- Do both conditions for the end of halving hold (R475)? 10 ms are 10,500,000 undivided UCLK. -/
def Chip.coolEnough (c : Chip) : Bool :=
  decide (c.pwr.tj.toNat < 100 ∧ 10500000 ≤ c.clk.now - c.pwr.lastHot ∧ c.pwr.windows.length = 8)
    && c.pwr.windows.all fun w => decide (10 * w ≤ 9 * c.powerLimit)

/-- Halving ends at a tick once both conditions hold; the crossings re-train in the next background slot (R67, R475). -/
def Chip.endHalving (c : Chip) : Chip :=
  if !c.pwr.halved ∨ !c.coolEnough then c
  else
    let cause := c.rfld 0x010 1 0
    let c := { c with pwr := { c.pwr with halved := false, retrainDue := true } }
    (c.clrReg 0x010 3#32).note .clkHalved 0 0 cause

/-- THERM_WARN (R474): logged once per upward crossing of 95 °C. -/
def execThermWarn (tj : Byte) (s : State) : Host.Outcome State Fault Refusal :=
  .next { s with unit := if s.unit.clk.held then s.unit else s.unit.setTemp tj }

/-- THERMAL_TRIP (R474, R477): at 115 °C THERMTRIP_N drives low and the unit is in reset. -/
def execThermalTrip (tj : Byte) (s : State) : Host.Outcome State Fault Refusal :=
  .next { s with unit :=
    if tj.toNat < 115 then s.unit
    else
      let c := s.unit.resetUnit
      { c with pwr := { c.pwr with tripped := true } } }

/-- RAIL_LOSS (R472): the unit resets. Loss of VDD_STBY stops the meter, which keeps only its non-volatile store (R360). -/
def execRailLoss (standby : Bool) (s : State) : Host.Outcome State Fault Refusal :=
  let c := s.unit.resetUnit
  let c := { c with pwr := { c.pwr with rails := standby && c.pwr.rails, standby := c.pwr.standby && !standby } }
  .next { s with
    unit := c
    meter := if standby then { s.meter.coldReset with powered := false } else s.meter }

end Sys2Proof.Machine
end

