-- ==== Sys2Proof/Machine/Fp.lean ====
section
/-!
DEFINITION. Floating point: exact values, one rounding per operation, the formats of the manual, exp and log (R16, R79,
R81 to R83, R92, R104, R297, R298).
-/
namespace Sys2Proof.Machine

/-- A value of a floating-point format: NaN, an infinity, or a finite number (-1)^neg × m × 2^e. -/
inductive Fp where
  | nan
  | inf (neg : Bool)
  | fin (neg : Bool) (m : Nat) (e : Int)
  deriving DecidableEq, Repr, Inhabited

/-! ### Rounding -/

/-- m / 2^k to the nearest integer, ties to even; `more` says that something below m's last bit is left over. -/
def rneShift (m k : Nat) (more : Bool) : Nat :=
  if k = 0 then m
  else
    let q := m / 2 ^ k
    let r := m % 2 ^ k
    let h := 2 ^ (k - 1)
    if h < r ∨ (r = h ∧ (more ∨ q % 2 = 1)) then q + 1 else q

/-- The bits below the sign of m × 2^e rounded to nearest even in a format of p significant bits whose smallest step is
2^emin: exponent field above p − 1 fraction bits. A result beyond the format's range has an exponent field beyond it. -/
def magBits (p : Nat) (emin : Int) (m : Nat) (e : Int) (more : Bool) : Nat :=
  if m = 0 then 0
  else
    let u := max (e + (m.log2 : Int) - (p - 1 : Nat)) emin
    let q := if u ≤ e then m * 2 ^ (e - u).toNat else rneShift m (u - e).toNat more
    (u - emin).toNat * 2 ^ (p - 1) + q

/-- A finite number whose bits below the sign are given, in a format of p significant bits with smallest step 2^emin. -/
def ofMag (p : Nat) (emin : Int) (neg : Bool) (bits : Nat) : Fp :=
  let x := bits / 2 ^ (p - 1)
  let f := bits % 2 ^ (p - 1)
  if x = 0 then .fin neg f emin else .fin neg (2 ^ (p - 1) + f) (emin + (x - 1 : Nat))

/-! ### Formats -/

/-- The NaN that an operation produces. -/
def nan32 : Word := Config.nanSign ++ 0x1FF#9 ++ Config.nanPayload

/-- The sign bit of a word or half word. -/
def negBit (n w : Nat) : Bool := n / 2 ^ (w - 1) % 2 = 1

/-- The value of an FP32 bit pattern. -/
def Fp.ofF32 (w : Word) : Fp :=
  let n := w.toNat
  let b := n % 2 ^ 31
  if 0x7F800000 < b then .nan else if b = 0x7F800000 then .inf (negBit n 32) else ofMag 24 (-149) (negBit n 32) b

/-- A value rounded to FP32, nearest even. -/
def Fp.toF32 (x : Fp) (more : Bool := false) : Word :=
  match x with
  | .nan => nan32
  | .inf neg => if neg then 0xFF800000#32 else 0x7F800000#32
  | .fin neg m e =>
    let b := min (magBits 24 (-149) m e more) 0x7F800000
    BitVec.ofNat 32 ((if neg then 2 ^ 31 else 0) + b)

/-- The value of a BF16 or FP16 bit pattern, by significant bits and smallest step. -/
def ofHalf (p : Nat) (emin : Int) (h : Half) : Fp :=
  let n := h.toNat
  let b := n % 2 ^ 15
  let top := 2 ^ 15 - 2 ^ (p - 1)
  if top < b then .nan else if b = top then .inf (negBit n 16) else ofMag p emin (negBit n 16) b

/-- A value rounded to BF16 or FP16, nearest even, with IEEE 754 overflow. -/
def toHalf (p : Nat) (emin : Int) (x : Fp) : Half :=
  let top := 2 ^ 15 - 2 ^ (p - 1)
  match x with
  | .nan => BitVec.ofNat 16 (Config.nanSign.toNat * 2 ^ 15 + top + 2 ^ (p - 2) + Config.nanPayload.toNat % 2 ^ (p - 2))
  | .inf neg => BitVec.ofNat 16 ((if neg then 2 ^ 15 else 0) + top)
  | .fin neg m e => BitVec.ofNat 16 ((if neg then 2 ^ 15 else 0) + min (magBits p emin m e false) top)

/-- BF16 and FP16. -/
def Fp.ofBf16 (h : Half) : Fp := ofHalf 8 (-133) h
def Fp.toBf16 (x : Fp) : Half := toHalf 8 (-133) x
def Fp.ofFp16 (h : Half) : Fp := ofHalf 11 (-24) h
def Fp.toFp16 (x : Fp) : Half := toHalf 11 (-24) x

/-- FP8 E4M3: no infinity, S.1111.111 is NaN. -/
def Fp.ofE4m3 (n : Nat) : Fp := if n % 128 = 127 then .nan else ofMag 4 (-9) (negBit n 8) (n % 128)

/-- FP8 E5M2: infinities and NaNs as IEEE 754. -/
def Fp.ofE5m2 (n : Nat) : Fp :=
  if 124 < n % 128 then .nan else if n % 128 = 124 then .inf (negBit n 8) else ofMag 3 (-16) (negBit n 8) (n % 128)

/-- Nearest even to E4M3, saturating at ±448; NaN becomes 0x7F (R298). -/
def Fp.toE4m3 : Fp → Byte
  | .nan => 0x7F#8
  | .inf neg => if neg then 0xFE#8 else 0x7E#8
  | .fin neg m e => BitVec.ofNat 8 ((if neg then 128 else 0) + min (magBits 4 (-9) m e false) 0x7E)

/-- Nearest even to E5M2, saturating at ±57,344 (R83). -/
def Fp.toE5m2 : Fp → Byte
  | .nan => 0x7F#8
  | .inf neg => if neg then 0xFB#8 else 0x7B#8
  | .fin neg m e => BitVec.ofNat 8 ((if neg then 128 else 0) + min (magBits 3 (-16) m e false) 0x7B)

/-- The elements of the 4-bit and 6-bit MX formats, which have no NaN and no infinity (R79). -/
def Fp.ofE2m1 (n : Nat) : Fp := ofMag 2 (-1) (negBit n 4) (n % 8)
def Fp.ofE3m2 (n : Nat) : Fp := ofMag 3 (-4) (negBit n 6) (n % 32)
def Fp.ofE2m3 (n : Nat) : Fp := ofMag 4 (-3) (negBit n 6) (n % 32)

/-- A signed integer of w bits times 2^e (INT4, INT8, and MXINT4 with e = −2, R486). -/
def Fp.ofSigned (w : Nat) (e : Int) (n : Nat) : Fp :=
  if negBit n w then .fin true (2 ^ w - n % 2 ^ w) e else .fin false (n % 2 ^ w) e

/-- An integer. -/
def Fp.ofInt (i : Int) : Fp := .fin (decide (i < 0)) i.natAbs 0

/-- 2^e, the value of an E8M0 code e + 127; 0xFF is NaN. -/
def Fp.ofE8m0 (n : Nat) : Fp := if n = 255 then .nan else .fin false 1 ((n : Int) - 127)

/-! ### Exact operations -/

/-- Neither NaN nor infinite. -/
def Fp.finite : Fp → Bool
  | .fin _ _ _ => true
  | _ => false

/-- The negated value. -/
def Fp.neg : Fp → Fp
  | .nan => .nan
  | .inf n => .inf !n
  | .fin n m e => .fin (!n) m e

/-- The absolute value. -/
def Fp.abs : Fp → Fp
  | .nan => .nan
  | .inf _ => .inf false
  | .fin _ m e => .fin false m e

/-- The signed significand of a finite value at a smaller exponent. -/
def sigAt (neg : Bool) (m : Nat) (e f : Int) : Int :=
  let x : Int := m * 2 ^ (e - f).toNat
  if neg then -x else x

/-- Exact sum. Two zeros of one sign keep it; any other exact zero is +0. -/
def Fp.add : Fp → Fp → Fp
  | .nan, _ => .nan
  | _, .nan => .nan
  | .inf a, .inf b => if a = b then .inf a else .nan
  | .inf a, _ => .inf a
  | _, .inf b => .inf b
  | .fin a m e, .fin b n f =>
    let g := min e f
    let s := sigAt a m e g + sigAt b n f g
    if s = 0 then .fin (a && b && m = 0) 0 g else .fin (decide (s < 0)) s.natAbs g

/-- Exact difference. -/
def Fp.sub (x y : Fp) : Fp := x.add y.neg

/-- Exact product. -/
def Fp.mul : Fp → Fp → Fp
  | .nan, _ => .nan
  | _, .nan => .nan
  | .inf a, .inf b => .inf (a != b)
  | .inf a, .fin b m _ => if m = 0 then .nan else .inf (a != b)
  | .fin a m _, .inf b => if m = 0 then .nan else .inf (a != b)
  | .fin a m e, .fin b n f => .fin (a != b) (m * n) (e + f)

/-- Multiplication by 2^k. -/
def Fp.scale : Fp → Int → Fp
  | .fin a m e, k => .fin a m (e + k)
  | x, _ => x

/-- x < y in the ordered sense. -/
def Fp.lt (x y : Fp) : Bool :=
  match x, y with
  | .nan, _ => false
  | _, .nan => false
  | .inf a, .inf b => a && !b
  | .inf a, .fin _ _ _ => a
  | .fin _ _ _, .inf b => !b
  | .fin a m e, .fin b n f =>
    let g := min e f
    decide (sigAt a m e g < sigAt b n f g)

/-- x = y in the ordered sense: the two zeros are equal, NaN equals nothing. -/
def Fp.eq (x y : Fp) : Bool :=
  match x, y with
  | .nan, _ => false
  | _, .nan => false
  | _, _ => !x.lt y && !y.lt x

/-- Is the value NaN? -/
def Fp.isNan : Fp → Bool
  | .nan => true
  | _ => false

/-- The nearest integer, ties to even, of a finite value; 0 for others. -/
def Fp.toInt : Fp → Int
  | .fin neg m e =>
    let q : Nat := if 0 ≤ e then m * 2 ^ e.toNat else rneShift m (-e).toNat false
    if neg then -(q : Int) else q
  | _ => 0

/-- floor(log2 |x|) of a finite non-zero value. -/
def Fp.log2 : Fp → Int
  | .fin _ m e => (m.log2 : Int) + e
  | _ => 0

/-! ### FP32 operations on bit patterns -/

/-- rne(a + b). -/
def fadd (a b : Word) : Word := ((Fp.ofF32 a).add (Fp.ofF32 b)).toF32
/-- rne(a − b). -/
def fsub (a b : Word) : Word := ((Fp.ofF32 a).sub (Fp.ofF32 b)).toF32
/-- rne(a × b). -/
def fmul (a b : Word) : Word := ((Fp.ofF32 a).mul (Fp.ofF32 b)).toF32
/-- rne(a × b + c), one rounding. -/
def ffma (a b c : Word) : Word := (((Fp.ofF32 a).mul (Fp.ofF32 b)).add (Fp.ofF32 c)).toF32

/-- rne(a / b). -/
def fdiv (a b : Word) : Word :=
  match Fp.ofF32 a, Fp.ofF32 b with
  | .nan, _ => nan32
  | _, .nan => nan32
  | .inf _, .inf _ => nan32
  | .inf x, .fin y _ _ => (Fp.inf (x != y)).toF32
  | .fin x _ _, .inf y => (Fp.fin (x != y) 0 0).toF32
  | .fin x m e, .fin y n f =>
    if n = 0 then (if m = 0 then nan32 else (Fp.inf (x != y)).toF32)
    else
      let q := m * 2 ^ 80 / n
      (Fp.fin (x != y) q (e - f - 80)).toF32 (m * 2 ^ 80 % n ≠ 0)

/-- Is an FP32 pattern NaN? -/
def fnan (a : Word) : Bool := (Fp.ofF32 a).isNan
/-- a < b, ordered. -/
def flt (a b : Word) : Bool := (Fp.ofF32 a).lt (Fp.ofF32 b)
/-- a ≤ b, ordered. -/
def fle (a b : Word) : Bool := flt a b || (Fp.ofF32 a).eq (Fp.ofF32 b)

/-- The greater of two values with −0 below +0; a NaN operand gives NaN (R297). -/
def fmax (a b : Word) : Word :=
  if fnan a ∨ fnan b then nan32
  else if flt a b then b else if flt b a then a else if a.msb then b else a
/-- The lesser of two values with −0 below +0; a NaN operand gives NaN (R297). -/
def fmin (a b : Word) : Word :=
  if fnan a ∨ fnan b then nan32
  else if flt a b then a else if flt b a then b else if a.msb then a else b

/-! ### Stochastic rounding (R92) -/

/-- sr(x, d): the part cut off below the nearer FP32 toward zero, in 256ths of a spacing, plus d moves it one spacing
away from zero when it reaches 256. -/
def Fp.sr (x : Fp) (d : Nat) : Word :=
  match x with
  | .fin neg m e =>
    if m = 0 then x.toF32
    else
      let u := max (e + (m.log2 : Int) - 23) (-149)
      if u ≤ e then x.toF32
      else
        let k := (u - e).toNat
        let a := m / 2 ^ k
        let q := m % 2 ^ k * 256 / 2 ^ k
        let a' := if 256 ≤ q + d ∧ m % 2 ^ k ≠ 0 then a + 1 else a
        (Fp.fin neg a' u).toF32
  | _ => x.toF32

/-! ### exp and log (R104, R297): 192 fraction bits, one rounding -/

/-- ln 2 in units of 2^−192, rounded down. -/
def ln2Fix : Nat := 4350955369971217654477563090224794165364344896676135745069

/-- e^r for r in [0, 1), in units of 2^−192: its power series summed from the last term inwards. -/
def expFix (r : Nat) : (n : Nat) → Nat → Nat
  | 0, acc => acc
  | n + 1, acc => expFix r n (2 ^ 192 + r * acc / (2 ^ 192 * (n + 1)))

/-- e^x to the nearest FP32, ties to even; exp(−inf) is +0 and exp(0) is 1.0. -/
def fexp (w : Word) : Word :=
  match Fp.ofF32 w with
  | .nan => nan32
  | .inf neg => if neg then 0#32 else 0x7F800000#32
  | .fin neg m e =>
    if m = 0 then 0x3F800000#32
    else if 8 ≤ (m.log2 : Int) + e then (if neg then 0#32 else 0x7F800000#32)
    else
      let x : Int := sigAt neg m e (-192)
      let k := x / (ln2Fix : Int)
      let r := (x - k * (ln2Fix : Int)).toNat
      (Fp.fin false (expFix r 48 (2 ^ 192)) (k - 192)).toF32 true

/-- Σ z^(2i+1)/(2i+1) for i below n, in units of 2^−192, with p = z^(2i+1) of the first term. -/
def atanhFix (z2 : Nat) : (n : Nat) → (i p acc : Nat) → Nat
  | 0, _, _, acc => acc
  | n + 1, i, p, acc => atanhFix z2 n (i + 1) (p * z2 / 2 ^ 192) (acc + p / (2 * i + 1))

/-- ln y for y = m / 2^l in [1, 2), in units of 2^−192. -/
def lnFix (m l : Nat) : Nat :=
  let z := (m - 2 ^ l) * 2 ^ 192 / (m + 2 ^ l)
  2 * atanhFix (z * z / 2 ^ 192) 64 0 z 0

/-- The natural logarithm to the nearest FP32, ties to even. -/
def flog (w : Word) : Word :=
  match Fp.ofF32 w with
  | .nan => nan32
  | .inf neg => if neg then nan32 else 0x7F800000#32
  | .fin neg m e =>
    if m = 0 then 0xFF800000#32
    else if neg then nan32
    else
      let l := m.log2
      let y : Int := (e + (l : Int)) * (ln2Fix : Int) + (lnFix m l : Int)
      if y = 0 then 0#32 else (Fp.fin (decide (y < 0)) y.natAbs (-192)).toF32 true

/-! ### The running pair (R104, R105) -/

/-- −inf. -/
def negInf : Word := 0xFF800000#32

/-- The pair after one more value (R104). -/
def pairStep (ms : Word × Word) (x : Word) : Word × Word :=
  if x = negInf ∨ fnan x ∨ x = 0x7F800000#32 then ms
  else if flt ms.1 x then (x, ffma ms.2 (fexp (fsub ms.1 x)) 0x3F800000#32)
  else (ms.1, fadd ms.2 (fexp (fsub x ms.1)))

/-- Two pairs combined, the lower-numbered operand first (R105). -/
def pairJoin (a b : Word × Word) : Word × Word :=
  let m := fmax a.1 b.1
  if m = negInf then (m, 0#32)
  else (m, ffma a.2 (fexp (fsub a.1 m)) (fmul b.2 (fexp (fsub b.1 m))))

/-- One level of a fixed binary tree: neighbours joined, the lower one on the left. -/
def joinPairs {α : Type} (f : α → α → α) : List α → List α
  | a :: b :: r => f a b :: joinPairs f r
  | l => l

/-- A fixed binary tree over 2^levels leaves (R101, R105, R109, R175). -/
def treeJoin {α : Type} (f : α → α → α) (dflt : α) (levels : Nat) (l : List α) : α :=
  (iter (joinPairs f) levels l).headD dflt

end Sys2Proof.Machine
end

