-- ==== Sys2Proof/Machine/Operands.lean ====
section
/-!
DEFINITION. Encodings: tile commands, lane instructions, operand fields and operand descriptors (R287, R290 to R293, R297).
-/
namespace Sys2Proof.Machine

/-! ### Operand fields (R291) -/

/-- What an operand field names. -/
inductive Opnd where
  | desc (n : Nat)
  | vec (n : Nat)
  | scal (n : Nat)
  | pred (n : Nat)
  | none
  | bad
  deriving DecidableEq, Repr, Inhabited

/-- The operand that a field encodes. -/
def opnd (b : Byte) : Opnd :=
  let n := b.toNat
  if n < 0x40 then .desc n
  else if n < 0x60 then .vec (n - 0x40)
  else if n < 0x70 then .scal (n - 0x60)
  else if 0x90 ≤ n ∧ n < 0x98 then .pred (n - 0x90)
  else if n = 0xFF then .none else .bad

/-- Kinds of operand that a field of an opcode may allow: none, a descriptor, a vector register, a scalar register, a
predicate; d is a descriptor or vector register, ds one of these or a scalar. -/
def kNone : Nat := 1
def kDesc : Nat := 2
def kD : Nat := 6
def kS : Nat := 8
def kDS : Nat := 14
def kP : Nat := 16

/-- The kind bit of an operand. -/
def opndBit : Opnd → Nat
  | .none => 0
  | .desc _ => 1
  | .vec _ => 2
  | .scal _ => 3
  | .pred _ => 4
  | .bad => 5

/-- Does a field allow the operand? -/
def opndFits (kinds : Nat) (o : Opnd) : Bool := kinds.testBit (opndBit o)

/-- A row of the opcode table: code, kinds of D, A and B, the bits of MOD[27:0] it uses, whether it takes a predicate. -/
structure OpRow where
  code : Nat
  d : Nat
  a : Nat
  b : Nat
  bits : Nat
  pred : Bool

/-- The opcode table (R297), but for SLI, whose MOD is its immediate. -/
def opRows : List OpRow :=
  [⟨0x00, kNone, kNone, kNone, 0, false⟩, ⟨0x01, kNone, kNone, kNone, 0, false⟩, ⟨0x02, (kS + kNone), kNone, kNone, 0xFFFFFFF, false⟩,
   ⟨0x03, kNone, kNone, kNone, 0, false⟩, ⟨0x04, kNone, kNone, kNone, 0xF, false⟩, ⟨0x05, kNone, kNone, kNone, 0xF, false⟩,
   ⟨0x11, kS, kS, kNone, 0, true⟩, ⟨0x12, kS, kS, kS, 0, true⟩, ⟨0x13, kS, kS, kS, 0, true⟩,
   ⟨0x14, kS, kS, kS, 0, true⟩, ⟨0x15, kS, kS, kS, 0, true⟩, ⟨0x16, kS, kS, kS, 0, true⟩,
   ⟨0x17, kS, kS, kS, 0, true⟩, ⟨0x18, kS, kS, kS, 0, true⟩, ⟨0x19, kS, kS, kS, 0, true⟩,
   ⟨0x1A, kS, kS, kS, 0, true⟩, ⟨0x1B, kS, kS, kS, 0, true⟩, ⟨0x1C, kS, kS, kS, 0, true⟩,
   ⟨0x1D, kS, kD, kNone, 0xFFF, true⟩, ⟨0x1E, kD, kS, kNone, 0x7FF, true⟩, ⟨0x20, kDesc, kNone, kNone, 0xFF, false⟩,
   ⟨0x21, kDesc, kS, kNone, 0, true⟩, ⟨0x28, kP, kS, kS, 0xF, true⟩, ⟨0x29, kP, kS, kNone, 0, true⟩,
   ⟨0x2A, kP, kP, kP, 0x3, true⟩] ++
  [⟨0x40, kD, kDS, kNone, 0, true⟩, ⟨0x41, kD, kDS, kDS, 0, true⟩, ⟨0x42, kD, kDS, kDS, 0, true⟩,
   ⟨0x43, kD, kDS, kDS, 0, true⟩, ⟨0x44, kD, kDS, kDS, 0, true⟩, ⟨0x45, kD, kDS, kDS, 0, true⟩,
   ⟨0x46, kD, kDS, kDS, 0, true⟩, ⟨0x47, kD, kDS, kDS, 0, true⟩, ⟨0x48, kD, kDS, kNone, 0, true⟩,
   ⟨0x49, kD, kDS, kNone, 0, true⟩, ⟨0x4A, kD, kDS, kDS, 0x7, true⟩, ⟨0x4B, kD, kDS, kDS, 0x3F, true⟩,
   ⟨0x4C, kD, kS, kNone, 0, true⟩, ⟨0x4D, kD, kD, kD, 0x3, true⟩, ⟨0x58, kD, kS, kNone, 0, true⟩,
   ⟨0x59, kD, kD, kNone, 0, true⟩, ⟨0x5A, kD, kD, kD, 0x3F, true⟩, ⟨0x5B, kNone, kS, kNone, 0, true⟩,
   ⟨0x60, kD, kS, kNone, 0, true⟩, ⟨0x61, kD, kS, kNone, 0, true⟩, ⟨0x62, kD, kS, kNone, 0, true⟩,
   ⟨0x63, kD, kNone, kNone, 0x7, true⟩, ⟨0x64, kD, kS, kS, 0x1, true⟩, ⟨0x68, kNone, kS, kS, 0, true⟩,
   ⟨0x69, kNone, kS, kNone, 0, true⟩, ⟨0x6A, kNone, kS, kNone, 0, true⟩]

/-- Is an opcode defined (R297)? -/
def opDefined (op : Nat) : Bool := op = 0x10 || opRows.any fun r => r.code == op

/-- A reserved field of a defined lane instruction is non-zero, an operand field is of a kind the opcode does not allow,
or a code field holds a reserved code (R290, R291, R297 to R299). A LOOP of LEN 0 counts here. -/
def laneReserved (op : Nat) (f : LaneF) : Bool :=
  let m := f.mod.toNat
  if op = 0x10 then !(opndFits kS (opnd f.d) && opndFits kNone (opnd f.a) && opndFits kNone (opnd f.b))
  else match opRows.find? fun r => r.code == op with
    | none => false
    | some r =>
      !(opndFits r.d (opnd f.d) && opndFits r.a (opnd f.a) && opndFits r.b (opnd f.b))
        || decide (Nat.land (m % 2 ^ 28) (2 ^ 28 - 1 - r.bits) ≠ 0) || (!r.pred && decide (2 ^ 28 ≤ m))
        || (op = 0x28 && decide (6 ≤ m % 8)) || (op = 0x4A && decide (6 ≤ m % 8)) || (op = 0x63 && decide (m % 8 = 7))
        || (op = 0x02 && decide (m % 2 ^ 28 / 2 ^ 16 = 0))

/-- The 64-bit word of a lane instruction (R290). -/
def laneWord (op : Nat) (f : LaneF) : DWord := BitVec.ofNat 8 op ++ f.d ++ f.a ++ f.b ++ f.mod

/-- The fields of a lane word beside its opcode. -/
def laneFields (w : Nat) : LaneF :=
  { d := BitVec.ofNat 8 (fld w 55 48), a := BitVec.ofNat 8 (fld w 47 40), b := BitVec.ofNat 8 (fld w 39 32), mod := BitVec.ofNat 32 w }

/-! ### Tile commands (R287) -/

/-- A reserved field of a defined tile command is non-zero. -/
def tileReserved (w : Nat) : Bool :=
  let top := fld w 63 60
  if top = 1 then decide (fld w 27 22 ≠ 0 ∨ 2 ≤ fld w 29 28)
  else if top = 2 then decide (fld w 59 4 ≠ 0)
  else decide (fld w 59 0 ≠ 0)

/-- Is TOP defined? -/
def tileDefined (w : Nat) : Bool := [0x1, 0x2, 0xE, 0xF].contains (fld w 63 60)

/-! ### Descriptors (R292) -/

/-- An operand descriptor's fields; `elem` is the element size in bytes. -/
structure Desc where
  space : Nat
  peer : Nat
  etype : Nat
  count : Nat
  stride : Int
  rsvd : Bool
  base : Nat
  deriving DecidableEq, Repr, Inhabited

/-- The signed value of an n-bit field. -/
def signedOf (n v : Nat) : Int := if v < 2 ^ (n - 1) then v else (v : Int) - 2 ^ n

/-- The fields of a descriptor. -/
def descOf (w : DWord) : Desc :=
  let n := w.toNat
  { space := fld n 63 62, peer := fld n 61 58, etype := fld n 57 55, count := fld n 54 44 + 1,
    stride := signedOf 20 (fld n 43 24), rsvd := n.testBit 23, base := fld n 22 0 }

/-- Bytes of an element. -/
def elemBytes (etype : Nat) : Nat :=
  if etype = 3 ∨ etype = 4 then 1 else if etype = 1 ∨ etype = 2 ∨ etype = 5 then 2 else if etype = 7 then 8 else 4

/-- The byte address of element i. -/
def Desc.addr (d : Desc) (i : Nat) : Int := (d.base : Int) + (i : Int) * d.stride

/-- Do all bytes of all elements lie from lo up to, not including, hi? Addresses move one way, so the ends decide. -/
def Desc.within (d : Desc) (lo hi : Int) : Bool :=
  let a := d.addr 0
  let b := d.addr (d.count - 1)
  let n : Int := elemBytes d.etype
  decide (lo ≤ a ∧ lo ≤ b ∧ a + n ≤ hi ∧ b + n ≤ hi)

/-- Is element i wholly inside one of the regions (base, size)? -/
def Desc.elemIn (d : Desc) (rs : List (Nat × Nat)) (i : Nat) : Bool :=
  rs.any fun r => decide ((r.1 : Int) ≤ d.addr i ∧ d.addr i + elemBytes d.etype ≤ ((r.1 + r.2 : Nat) : Int))

end Sys2Proof.Machine
end

