-- ==== Sys2Proof/Machine/Plan.lean ====
section
/-!
DEFINITION. Plans: the image (R277 to R280), layouts and column places (R74, R193, R226), SET_PLAN and the switch (R282 to
R284).
-/
namespace Sys2Proof.Machine

/-! ### Head configuration words (R116) -/

def cfgKsplit (w : Nat) : Nat := 2 ^ fld w 29 27
def cfgRound (w : Nat) : Bool := w.testBit 26
def cfgSpill (w : Nat) : Nat := fld w 25 18
def cfgCpl (w : Nat) : Nat := fld w 17 11
def cfgWfmt (w : Nat) : Nat := fld w 10 7
def cfgAfmt (w : Nat) : Nat := fld w 6 4

/-- Integer weight formats: INT4 and INT8 (R79). -/
def intFmt (wfmt : Nat) : Bool := wfmt = 2 ∨ wfmt = 9
/-- MX formats, with E8M0 scales per 32 k (R79). -/
def mxFmt (wfmt : Nat) : Bool := wfmt = 0 ∨ wfmt = 1 ∨ (3 ≤ wfmt ∧ wfmt ≤ 6)
/-- 4-bit formats (R79). -/
def fourBit (wfmt : Nat) : Bool := wfmt ≤ 2
/-- KT: k-values of a tile (R76). -/
def ktOf (wfmt : Nat) : Nat := if fourBit wfmt then 128 else 64

/-- Does R79 list the pair of weight format and array input format? -/
def fmtPair (wfmt afmt : Nat) : Bool :=
  if mxFmt wfmt then afmt ≤ 1
  else if intFmt wfmt then afmt = 4
  else if wfmt = 7 ∨ wfmt = 8 then afmt = 2 ∨ afmt = 3
  else if wfmt = 0xA then afmt = 5
  else if wfmt = 0xB then afmt = 6 else false

/-- A head configuration as it is loaded: a SPILL of 0 in a float format becomes 64 (R95). -/
def cfgLoaded (w : Nat) : Nat :=
  if w ≠ 0 ∧ cfgSpill w = 0 ∧ !intFmt (cfgWfmt w) then w + 64 * 2 ^ 18 else w

/-! ### A plan in force -/

def Plan.cpl (p : Plan) : Nat := cfgCpl p.head0.toNat
/-- The configuration word of a head, as loaded. -/
def Plan.cfg (p : Plan) (draft : Bool) : Nat := cfgLoaded (if draft then p.head1.toNat else p.head0.toNat)
/-- The hidden dimension of a head. -/
def Plan.hdim (p : Plan) (draft : Bool) : Nat := if draft then p.h1 else p.h0
/-- k-chunks of a head (R76). -/
def Plan.kc (p : Plan) (draft : Bool) : Nat := cdiv (p.hdim draft) (ktOf (cfgWfmt (p.cfg draft)))
/-- Column groups of a row named row-wide: pieces × cpl (R131, R136). -/
def Plan.groups (p : Plan) : Nat := p.pieces * p.cpl
/-- Mask pages of one block (R148). -/
def Plan.maskPages (p : Plan) : Nat := cdiv p.groups 8
/-- The bitmap length of a mask in bytes (R149). -/
def Plan.maskLen (p : Plan) : Nat := cdiv p.n 8
/-- Does the plan belong to a merge group? -/
def Plan.merged (p : Plan) : Bool := p.merge.getLsbD 7
/-- The token ID of column 0 (R167, R196). -/
def Plan.baseToken (p : Plan) : Nat := if p.merged then p.index * 4096 * p.cpl else 0
/-- Do rows of the target or draft head arrive as score-in rows (R278)? -/
def Plan.scoreIn (p : Plan) (draft : Bool) : Bool := if draft then p.draftSrc = 2 else p.tsrc = 1
/-- F(p) and M(p) of a template (R53). -/
def Plan.fence (p : Plan) (template phase : Nat) : Nat × Nat := p.fences.getD (16 * template + phase) (0, 0)
/-- A wave shape: W and head. -/
def Plan.shape (p : Plan) (i : Nat) : Nat × Bool := p.waves.getD i (1, false)
/-- A lagoon region: base and size (R278). -/
def Plan.region (p : Plan) (i : Nat) : Nat × Nat := p.regions.getD i (0, 0)

/-- The place of a row-wide column: piece, block, group within the piece, lane (R74, R130, R193). -/
def Plan.place (p : Plan) (col : Nat) : Nat × Nat × Nat × Nat :=
  let span := 4096 * p.cpl
  let c := col % span
  (col / span, c / (256 * p.cpl), c % (256 * p.cpl) / 256, c % 256)

/-- The row-wide column of a place, its group named row-wide (R131). -/
def Plan.column (p : Plan) (block q lane : Nat) : Nat :=
  q / p.cpl * (4096 * p.cpl) + block * (256 * p.cpl) + q % p.cpl * 256 + lane

/-- The column of a token on this unit, if the token is in its shard (R128, R196). -/
def Plan.colOf (p : Plan) (token : Nat) : Option Nat :=
  if p.baseToken ≤ token ∧ token < p.baseToken + p.n then some (token - p.baseToken) else none

/-! ### The atoll partition (R226) -/

/-- UNIT_PART.DRAFTN. -/
def Chip.draftN (c : Chip) : Nat := c.rfld 0x0A0 4 0

/-- The logical atolls of a class, ascending. -/
def classAtolls (d : Nat) (draft : Bool) : List Nat :=
  if d = 0 then List.range 16 else if draft then (List.range d).map fun i => 16 - d + i else List.range (16 - d)

/-- Rounds of a class of a atolls. -/
def classRounds (a : Nat) : Nat := cdiv 16 a

/-- The column blocks that a logical atoll scores for a class under a partition, ascending. -/
def classBlocks (d : Nat) (draft : Bool) (at_ : Nat) : List Nat :=
  let as := classAtolls d draft
  match as.idxOf? at_ with
  | none => []
  | some k => (List.range 16).filter fun b => b % as.length = k

/-! ### The image (R277 to R279) -/

/-- n image bytes from an offset, little-endian. -/
def Chip.img (c : Chip) (addr off n : Nat) : Nat := rdLE c.psram (addr + off) n

/-- Length of a plan image. -/
def planImageLen : Nat := 1052672

/-- The header of a plan image. -/
def Chip.planOf (c : Chip) (addr : Nat) : Plan :=
  let i := c.img addr
  { planId := BitVec.ofNat 32 (i 8 4), period := i 16 2, rowCap := i 18 2, pool := i 20 4, seed := BitVec.ofNat 64 (i 24 8)
    head0 := BitVec.ofNat 32 (i 32 4), head1 := BitVec.ofNat 32 (i 36 4), n := i 40 4, h0 := i 44 4, h1 := i 48 4
    pieces := i 52 1, merge := BitVec.ofNat 8 (i 53 1), draftSrc := i 54 1, rescore := i 55 1, dmax := i 56 2
    index := i 58 1 % 64, bgslot := i 59 1, tsrc := i 60 1, fmt0 := i 61 1 % 16, fmt1 := i 62 1 % 16
    regions := (List.range 8).map fun k => (i (64 + 8 * k) 4, i (68 + 8 * k) 4)
    waves := (List.range 16).map fun k => (i (128 + 8 * k) 1 % 128 + 1, (i (128 + 8 * k) 1).testBit 7)
    layouts := (List.range 16).map fun k => i (256 + k) 1
    nphase := (List.range 4).map fun k => i (272 + k) 1
    fences := (List.range 64).map fun k => (i (1024 + 8 * k) 4, i (1028 + 8 * k) 4) }

/-- MAGIC, FORMAT and CRC (R280). -/
def Chip.imgSound (c : Chip) (addr : Nat) : Bool :=
  decide (c.img addr 0 4 = 0x4E414C50 ∧ c.img addr 4 2 = 1
    ∧ crc32 (rdBytes c.psram addr 12 ++ [0, 0, 0, 0] ++ rdBytes c.psram (addr + 16) (planImageLen - 16)) = c.img addr 12 4)

/-- The heads that a plan scores on the unit: configuration word as supplied and hidden dimension. A code of a head that is not scored fails
R280 where it fails at all (log entry 29). -/
def Plan.scored (p : Plan) : List (Nat × Nat) :=
  (if p.tsrc = 0 then [(p.head0.toNat, p.h0)] else []) ++ (if p.draftSrc = 1 then [(p.head1.toNat, p.h1)] else [])

/-- R118. The cpl of every wave, and of the bound on N, is HEAD0's (log entry 29). -/
def Plan.bad118 (p : Plan) : Bool :=
  (p.scored.any fun h => !fmtPair (cfgWfmt h.1) (cfgAfmt h.1) || decide (131072 < h.2)
      || decide (cfgKsplit h.1 ≠ 1 ∧ (16 / cfgKsplit h.1 * 256 * cfgCpl h.1 < p.n ∨ 1 < p.pieces)))
    || decide (p.cpl = 0 ∨ 64 < p.cpl) || (p.draftSrc = 1 && decide (cfgCpl p.head1.toNat = 0 ∨ 64 < cfgCpl p.head1.toNat))
    || (p.waves.any fun w => decide (2048 < w.1 * p.cpl)) || decide (p.n = 0 ∨ p.pieces * 4096 * p.cpl < p.n)
    || (p.rescore = 1 && decide (p.h0 % 256 ≠ 0))

/-- The widest wave of a head. -/
def Plan.widest (p : Plan) (draft : Bool) : Nat := ((p.waves.filter fun w => w.2 = draft).map Prod.fst).foldl max 0

/-- Piece-spill bytes that a class of a atolls needs: every unit of the row slice but the last (R194, R227). -/
def Plan.spillOf (p : Plan) (a : Nat) (draft : Bool) : Nat :=
  (p.pieces * classRounds a - 1) * (p.widest draft * 256 * p.cpl * 4)

/-- The partitions for which the plan has a layout (R278). -/
def Plan.layoutSizes (p : Plan) : List Nat := (List.range 16).filter fun d => p.layouts.getD d 0xFF ≠ 0xFF

/-- The largest spill a layout needs. -/
def Plan.spillAt (p : Plan) (d : Nat) : Nat :=
  if d = 0 then max (p.spillOf 16 false) (p.spillOf 16 true) else max (p.spillOf (16 - d) false) (p.spillOf d true)

/-- R227: a layout whose spill and other regions do not fit a lagoon below the signature area. -/
def Plan.bad227 (p : Plan) : Bool :=
  let other := (((List.range 8).filter fun i => i ≠ 4).map fun i => (p.region i).2).foldl (· + ·) 0
  p.layoutSizes.any fun d => decide (8257536 < p.spillAt d + other)

/-- Do two regions overlap? -/
def overlaps (a b : Nat × Nat) : Bool := decide (0 < a.2 ∧ 0 < b.2 ∧ a.1 < b.1 + b.2 ∧ b.1 < a.1 + a.2)

/-- The least sizes of the regions (R280). -/
def Plan.needs (p : Plan) : List Nat :=
  [4096 * p.pieces * p.cpl * 2, p.pool * 256, 0, 2 * max (p.widest false) (p.widest true) * 256 * 8,
   (p.layoutSizes.map p.spillAt).foldl max 0, if p.rescore = 1 ∨ 0 < p.dmax then 4194304 else 0, 0, 0]

/-- Regions out of place, too small or overlapping (R280). -/
def Plan.badRegions (p : Plan) : Bool :=
  ((List.range 8).any fun i =>
    let r := p.region i
    decide (r.1 % 256 ≠ 0 ∨ r.2 % 256 ≠ 0 ∨ 8257536 < r.1 + r.2 ∨ r.2 < p.needs.getD i 0))
  || (List.range 8).any fun i => (List.range i).any fun j => overlaps (p.region i) (p.region j)

/-- Fences that break R53, or a slot past NPHASE that is not 0 (R278). -/
def Plan.badFences (p : Plan) : Bool :=
  (List.range 4).any fun t =>
    let n := p.nphase.getD t 0
    decide (n = 0 ∨ 16 < n) || (List.range 16).any fun i =>
      let f := p.fence t i
      if n ≤ i then f ≠ (0, 0)
      else decide (f.2 < f.1 ∨ (i = 0 ∧ f.1 ≠ 0) ∨ (i ≠ 0 ∧ f.1 ≤ (p.fence t (i - 1)).1))

/-- A head word with reserved bits or a reserved KSPLIT code. -/
def badHead (w : Nat) : Bool := decide (fld w 31 30 ≠ 0 ∨ fld w 3 0 ≠ 0 ∨ 5 ≤ fld w 29 27)

/-- Header fields that hold a reserved value or break a condition of R278 and R280. -/
def Plan.badHeader (p : Plan) : Bool :=
  decide (p.planId = 0#32 ∨ p.period < 100 ∨ 20000 < p.period ∨ p.rowCap = 0 ∨ 1024 < p.rowCap ∨ p.pieces = 0 ∨ 4 < p.pieces
    ∨ 2 < p.draftSrc ∨ 1 < p.rescore ∨ 4096 < p.dmax ∨ p.bgslot < 8 ∨ 64 < p.bgslot ∨ 1 < p.tsrc)
  || p.merge.getLsbD 6 || badHead p.head0.toNat || badHead p.head1.toNat
  || (p.tsrc = 0 && decide (p.h0 = 0 ∨ 5 < p.fmt0))
  || (p.tsrc = 1 && decide (p.h0 ≠ 0 ∨ p.fmt0 ≠ 0 ∨ p.rescore ≠ 0 ∨ p.dmax ≠ 0 ∨ p.head0.toNat ≠ p.cpl * 2 ^ 11))
  || (p.draftSrc = 1 && decide (p.head1 = 0#32 ∨ p.h1 = 0 ∨ 5 < p.fmt1))
  || (p.draftSrc ≠ 1 && decide (p.head1 ≠ 0#32 ∨ p.h1 ≠ 0 ∨ p.fmt1 ≠ 0))
  || (p.layouts.any fun l => decide (3 < l ∧ l ≠ 0xFF)) || decide (p.layouts.getD 1 0 ≠ 0xFF ∨ p.layouts.getD 15 0 ≠ 0xFF)

/-- Bytes of the header that are reserved (R278). -/
def planRsvd : List (Nat × Nat) := [(6, 2), (63, 1), (276, 748), (1536, 2560)]

/-- A reserved byte or a reserved bit of a header byte is set. -/
def Chip.imgRsvd (c : Chip) (addr : Nat) : Bool :=
  (planRsvd.any fun r => (rdBytes c.psram (addr + r.1) r.2).any fun b => b ≠ 0)
    || decide (64 ≤ c.img addr 58 1 ∨ 16 ≤ c.img addr 61 1 ∨ 16 ≤ c.img addr 62 1)
    || (List.range 16).any fun k => decide (256 ≤ c.img addr (128 + 8 * k) 8)

/-- Word w of the image's section for logical atoll b (R277). -/
def Chip.imgWord (c : Chip) (addr b w : Nat) : Nat := c.img addr (4096 + 65536 * b + 8 * w) 8

/-- A tile path from a PC holds a word that is no defined encoding or has a reserved field set. -/
def Chip.badTilePath (c : Chip) (addr b : Nat) : (fuel pc : Nat) → Bool
  | 0, _ => false
  | n + 1, pc =>
    let w := c.imgWord addr b pc
    if 8192 ≤ pc then false
    else if !tileDefined w || tileReserved w then true
    else if fld w 63 60 = 15 then false else c.badTilePath addr b n (pc + 1)

/-- The same for a lane path. -/
def Chip.badLanePath (c : Chip) (addr b : Nat) : (fuel pc : Nat) → Bool
  | 0, _ => false
  | n + 1, pc =>
    let w := c.imgWord addr b pc
    let op := fld w 63 56
    if 8192 ≤ pc then false
    else if !opDefined op || laneReserved op (laneFields w) then true
    else if op = 1 then false else c.badLanePath addr b n (pc + 1)

/-- An entry with a reserved bit, or a VALID entry with a PC below 512 or a bad path (R279, R280). -/
def Chip.badEntries (c : Chip) (addr : Nat) : Bool :=
  (List.range 16).any fun b => (List.range 256).any fun e =>
    let w := c.imgWord addr b e
    decide (fld w 63 45 ≠ 0 ∨ fld w 31 29 ≠ 0 ∨ fld w 15 1 ≠ 0)
      || (w.testBit 0 && (decide (fld w 44 32 < 512 ∨ fld w 28 16 < 512)
        || c.badTilePath addr b 8192 (fld w 28 16) || c.badLanePath addr b 8192 (fld w 44 32)))

/-! ### What a switch must keep in place (R143) -/

/-- The highest page number in use in a lagoon, plus 1. -/
def Chip.pageTop (c : Chip) (at_ : Nat) : Nat :=
  ((c.page.filter fun e => decide (e.1 / 0x8000 = at_ ∧ e.2.use ≠ .free)).map fun e => e.1 % 0x8000 + 1).foldl max 0

/-- R143. -/
def Chip.bad143 (c : Chip) (p : Plan) : Bool :=
  match c.plan.cur with
  | none => false
  | some o =>
    ((List.range 16).any fun a => decide (0 < c.pageTop a ∧ ((o.region 1).1 ≠ (p.region 1).1 ∨ p.pool < c.pageTop a)))
      || ((c.dir.any fun e => e.2.getLsbD 15) && decide ((o.region 0).1 ≠ (p.region 0).1 ∨ o.groups ≠ p.groups))

/-- The first check of R280's order that fails, by rule number. -/
def Chip.planRefusal (c : Chip) (addr : Nat) : Option Nat :=
  let p := c.planOf addr
  if !c.imgSound addr then some 280
  else if p.bad118 then some 118
  else if c.bad143 p then some 143
  else if p.merged ∧ 1 < p.pieces then some 196
  else if p.draftSrc = 1 ∧ cfgCpl p.head1.toNat ≠ p.cpl then some 210
  else if p.bad227 then some 227
  else if p.layouts.getD c.draftN 0xFF = 0xFF then some 229
  else if p.badHeader || c.imgRsvd addr || p.badFences || p.badRegions || c.badEntries addr then some 280
  else none

/-! ### Banks (R279, R281) -/

/-- The key of a word of a logical atoll's instruction bank. -/
def bankKey (at_ : Nat) (bank : Bool) (w : Nat) : Nat := (2 * at_ + (if bank then 1 else 0)) * 8192 + w

/-- The image's sections written into one bank of every atoll. -/
def Chip.loadBanks (c : Chip) (addr : Nat) (bank : Bool) : Chip :=
  { c with bank := (List.range 16).foldl (fun m a => (List.range 8192).foldl (fun m w =>
      tset m (bankKey a bank w) (BitVec.ofNat 64 (c.imgWord addr a w))) m) c.bank }

/-- Bytes of a plan image (R277). -/
def planBytes : Nat := 4096 + 16 * 65536

/-- SET_PLAN of an image that passes: the loader writes the inactive banks, WRITING until they are read back (R282). -/
def Chip.stagePlan (c : Chip) (m : Mbx) (b : Mailbox) (addr : Nat) : Chip :=
  let c := c.loadBanks addr !c.bankSel
  let c := c.mapAtl 0x64 fun w => w ||| 0x800#32
  let c := { c with plan := { c.plan with staged := some { plan := c.planOf addr, mbx := m.val, addr := addr } } }
  c.beginRoutine m { c.newRoutine b with left := planBytes }

/-- The inactive banks have been written and read back: STAGED in place of WRITING (R282). -/
def Chip.banksStaged (c : Chip) : Chip := c.mapAtl 0x64 fun w => (w &&& ~~~ 0x800#32) ||| 0x400#32

/-- SET_PLAN (R280). -/
def execSetPlan (m : Mbx) (s : State) : Host.Outcome State Fault Refusal :=
  .next { s with unit := s.unit.applyCmd m 0x0400 fun c b =>
    if b.target ≠ 0 then c.finish m 0x0015
    else
      let addr := b.pay 0 8
      match c.planRefusal addr with
      | some r => c.finish m 0x0030 (toLE 4 r)
      | none => c.stagePlan m b addr }

/-! ### The switch (R282 to R284) -/

/-- The pool registers after a plan activation: LOWWATER starts at FREE (R142). -/
def Chip.startPools (c : Chip) : Chip :=
  (List.range 16).foldl (fun c a => (c.setAtl (c.physOf a) 0x44 0xFFFF0000#32).syncPool a) c

/-- Is there a partition size on the path from d to e, one atoll at a time, with 0 next to 2, that lacks a layout (R229)? -/
def pathLacks (layout : Nat → Bool) : (fuel d e : Nat) → Bool
  | 0, _, _ => false
  | n + 1, d, e =>
    if d = e then false
    else
      let d' := if d < e then (if d = 0 then 2 else d + 1) else (if d = 2 then 0 else d - 1)
      !layout d' || pathLacks layout n d' e

/-- Set UNIT_PART.PENDING. -/
def Chip.setPending (c : Chip) (d : Nat) : Chip := c.setReg 0x0A0 (BitVec.ofNat 32 (d * 65536 + c.draftN))

/-- DELTA_RANGE may be logged again for the set (R134). -/
def DeltaSet.unlogged (d : DeltaSet) : DeltaSet := { d with rangeLogged := false }

/-- The staged plan takes over (R282, R284, R229) (log entry 82). -/
def Chip.switchIn (c : Chip) (st : StagedPlan) : Chip :=
  let p := st.plan
  let c := { c with
    bankSel := !c.bankSel, lane := []
    plan := { c.plan with cur := some p, staged := none, addr := st.addr }
    stp := { c.stp with switched := true }
    delta := c.delta.map fun (e : Nat × Option DeltaSet) => (e.1, e.2.map DeltaSet.unlogged) }
  let c := (c.mapAtl 0x00 fun _ => BitVec.ofNat 32 (p.cfg false)).mapAtl 0x60 fun _ => BitVec.ofNat 32 (p.cfg true)
  let c := (c.mapAtl 0x04 fun _ => p.seed.setWidth 32).mapAtl 0x08 fun _ => (p.seed >>> 32).setWidth 32
  let c := (c.mapAtl 0x40 fun _ => BitVec.ofNat 32 p.pool).mapAtl 0x64 fun w => (w &&& ~~~ 0x500#32) ||| (if c.bankSel then 0x100#32 else 0#32)
  let c := c.startPools
  if pathLacks (fun d => p.layouts.getD d 0xFF ≠ 0xFF) 32 c.draftN (c.rfld 0x0A0 20 16) then c.setPending c.draftN else c

/-- The switch at the T+0 of a step that starts with every bank staged; a plan that now fails R143 does not switch in. -/
def Chip.planSwitch (c : Chip) : Chip :=
  match c.plan.staged with
  | none => c
  | some st =>
    match (c.mb st.mbx).routine with
    | none => c
    | some r =>
      if !c.atT0 ∨ c.tick.cnt = r.tick ∨ r.left ≠ 0 ∨ c.stopped then c
      else if c.bad143 st.plan then
        (({ c with plan := { c.plan with staged := none } }).mapAtl 0x64 fun w => w &&& ~~~ 0x400#32).finish st.mbx 0x0030 (toLE 4 143)
      else (c.switchIn st).finish st.mbx 0x0000 (toLE 4 st.plan.planId.toNat)

/-- PLAN_SWITCH (R282). -/
def execPlanSwitch (s : State) : Host.Outcome State Fault Refusal := .next { s with unit := s.unit.planSwitch }

/-! ### SET_PART (R229) -/

/-- Is a value one that SET_PART refuses? (log entry 82). -/
def Chip.partRefused (c : Chip) (d : Nat) : Bool :=
  decide (d = 1 ∨ 15 ≤ d) || (match c.plan.cur with
    | none => false
    | some p => pathLacks (fun d => p.layouts.getD d 0xFF ≠ 0xFF) 32 c.draftN d
        || (d ≠ 0 && decide (cfgKsplit (p.cfg false) ≠ 1 ∨ cfgKsplit (p.cfg true) ≠ 1)))

/-- SET_PART (R229). -/
def execSetPart (m : Mbx) (s : State) : Host.Outcome State Fault Refusal :=
  .next { s with unit := s.unit.applyCmd m 0x0401 fun c b =>
    let v := b.pay 0 4
    if b.target ≠ 0 then c.finish m 0x0015
    else if 32 ≤ v then c.finish m 0x0012
    else if c.partRefused v then c.finish m 0x0031
    else (c.setPending v).finish m 0x0000 }

/-- One step of DRAFTN toward PENDING at a tick (R229). -/
def Chip.partStep (c : Chip) : Chip :=
  let d := c.draftN
  let e := c.rfld 0x0A0 20 16
  if d = e then c
  else
    let d' := if d < e then (if d = 0 then 2 else d + 1) else (if d = 2 then 0 else d - 1)
    ((c.setReg 0x0A0 (BitVec.ofNat 32 (e * 65536 + d'))).orReg 0x0A4 8#32).note .partStep

/-! ### The loader (R331) -/

/-- Mailboxes in the order of their doorbells, ties to the lower index. -/
def Chip.byDoorbell (c : Chip) : List Nat :=
  sortBy (fun a b => decide ((c.mb a).ringTime * 16 + a < (c.mb b).ringTime * 16 + b)) (List.range 16)

/-- A mailbox's routine has n more of its bytes copied; the last of a plan image stages its banks. -/
def Chip.loadMore (c : Chip) (m n : Nat) (r : Routine) : Chip :=
  let c := c.modMbx m fun b => { b with routine := some { r with left := r.left - n } }
  if r.code = 0x0400 ∧ r.left = n then c.banksStaged else c

/-- The routines share what is left of the step's bytes, in doorbell order. -/
def Chip.shareLoader : Chip → (budget : Nat) → List Nat → Chip
  | c, _, [] => c
  | c, n, m :: ms =>
    match (c.mb m).routine with
    | none => Chip.shareLoader c n ms
    | some r =>
      let k := min n r.left
      Chip.shareLoader (if r.left = 0 then c else c.loadMore m k r) (n - k) ms

/-- What the loader has copied since the last tick: the loads, which always fit, then the routines, at most UNIT_LOADCFG.QUOTA MiB. -/
def Chip.loaderRun (c : Chip) : Chip :=
  ({ c with stp := { c.stp with loaded := 0 } }).shareLoader (c.rfld 0x124 7 0 * 2 ^ 20 - c.stp.loaded) c.byDoorbell

end Sys2Proof.Machine
end

