-- ==== Sys2Proof/Machine/Params.lean ====
section
/-!
DEFINITION. The sampling parameter block: reading, clamping, and the gambit length in force (R161 to R163, R169, R210, R240,
R241).
-/
namespace Sys2Proof.Machine

/-- A clamped FP32 value with whether it differs from the one supplied: NaN is replaced by a stand-in, then bounded. -/
def clampFp (v lo hi standIn : Word) : Word × Bool :=
  let x := if fnan v then standIn else v
  let y := if flt x lo then lo else if flt hi x then hi else x
  (y, y ≠ v)

/-- The clamped temperature: either zero is greedy and no clamp (R161, R162). -/
def clampTemp (v lo hi : Word) : Word × Bool :=
  if v = 0#32 ∨ v = 0x80000000#32 then (0#32, false) else clampFp v lo hi 0x3F800000#32

/-- The clamped top-p: (0.0, 1.0] is kept (R169). -/
def clampTopP (v : Word) : Word × Bool :=
  if fnan v ∨ flt 0x3F800000#32 v then (0x3F800000#32, true)
  else if flt 0#32 v then (v, false) else (0x33800000#32, true)

/-- The clamped min-p (R169). -/
def clampMinP (v : Word) : Word × Bool := clampFp v 0#32 0x3F800000#32 0#32

/-- A number bounded above. -/
def clampNat (v hi : Nat) : Nat × Bool := (min v hi, hi < v)

/-- Clamp the fields of a parameter block to the limits in force (R161, R169). -/
def Chip.clampParams (c : Chip) (p : Params) : Params × Bool :=
  let t := clampTemp p.temp (c.reg 0x148) (c.reg 0x14C)
  let tp := clampTopP p.topP
  let mp := clampMinP p.minP
  let r := clampFp p.rep (c.reg 0x150) (c.reg 0x154) 0x3F800000#32
  let b := c.reg 0x158
  let pr := clampFp p.presence (b ^^^ 0x80000000#32) b 0#32
  let fr := clampFp p.frequency (b ^^^ 0x80000000#32) b 0#32
  let rs := clampNat p.rescore.toNat 64
  let lp := clampNat p.logprobs.toNat 20
  let tk := clampNat p.topK.toNat (c.rfld 0x144 12 0)
  ({ p with temp := t.1, topP := tp.1, minP := mp.1, rep := r.1, presence := pr.1, frequency := fr.1
            rescore := BitVec.ofNat 7 rs.1, logprobs := BitVec.ofNat 5 lp.1, topK := BitVec.ofNat 13 tk.1 },
   t.2 || tp.2 || mp.2 || r.2 || pr.2 || fr.2 || rs.2 || lp.2 || tk.2)

/-- A reserved bit of the block is set (R241). -/
def blockReserved (bs : List Byte) : Bool :=
  let f := leAt bs 24 4
  let g := leAt bs 28 4
  decide (fld f 31 30 ≠ 0 ∨ fld f 17 13 ≠ 0 ∨ fld g 31 6 ≠ 0 ∨ g.testBit 4)
    || (List.range (min 8 (g % 16))).any fun i => decide (fld (leAt bs (32 + 4 * i) 4) 31 24 ≠ 0)

/-- The clamped block that 64 bytes hold, with whether any field was clamped; none where a reserved bit is set (R240,
R241). -/
def Chip.blockOf (c : Chip) (bs : List Byte) : Option (Params × Bool) :=
  if blockReserved bs then none
  else
    let w i := BitVec.ofNat 32 (leAt bs (4 * i) 4)
    let f := leAt bs 24 4
    let g := leAt bs 28 4
    let n := clampNat (g % 16) 8
    let p : Params :=
      { temp := w 0, topP := w 1, minP := w 2, rep := w 3, presence := w 4, frequency := w 5
        rescore := BitVec.ofNat 7 (f / 2 ^ 23), logprobs := BitVec.ofNat 5 (f / 2 ^ 18), topK := BitVec.ofNat 13 f
        strict := g.testBit 5, nstop := BitVec.ofNat 4 n.1
        stopTok := (List.range n.1).map fun i => BitVec.ofNat 24 (leAt bs (32 + 4 * i) 4) }
    let r := c.clampParams p
    some (r.1, r.2 || n.2)

/-! ### The gambit length (R210) and the rescore count (R107, R108) -/

/-- Does a mask slot of the request take a stream (R146)? -/
def ReqEntry.streams (e : ReqEntry) : Bool := e.slot0 = 3#2 || e.slot1 = 3#2

/-- The bound of a request's gambit length: UNIT_SELMAX.GAMBIT, and 0 for a merge-group request, with a mask stream, and where the plan in
force has no draft head (R196, R210, R211). -/
def Chip.gambitMax (c : Chip) (e : ReqEntry) : Nat :=
  if e.merge ∨ e.streams ∨ (c.plan.cur.any fun p => decide (p.draftSrc = 0)) then 0 else c.rfld 0x140 13 10

/-- G: the request's gambit length in force. -/
def Chip.gambitOf (c : Chip) (e : ReqEntry) : Nat := if c.plan.cur.isNone then 0 else min e.gambit.toNat (c.gambitMax e)

/-- g: the length that a step gives it (R211). -/
def Chip.gOf (c : Chip) (e : ReqEntry) : Nat := min (c.gambitOf e) (e.maxlen.toNat - e.position.toNat - 1)

/-- The rescore count in force: 0 for a merge-group request, and where the plan has no secondary copy or target rows are score-in rows
(R107, R108, R196). -/
def Chip.rescoreOf (c : Chip) (q : Nat) (p : Params) : Nat :=
  if (c.rq q).merge then 0
  else match c.plan.cur with
    | none => p.rescore.toNat
    | some pl => if pl.rescore = 0 ∨ pl.scoreIn false then 0 else p.rescore.toNat

/-- Is a rescore count taken as less than asked for? -/
def Chip.rescoreCut (c : Chip) (q : Nat) (p : Params) : Bool := decide (c.rescoreOf q p < p.rescore.toNat)

/-- Is a value of the parameter block clamped, or its rescore count taken as 0 (R162)? -/
def Chip.blockClampedNow (c : Chip) (q : Nat) : Bool := (c.ax q).blockClamped || c.rescoreCut q (c.pm q)

/-- The bound that the request's gambit length is clamped to, where it asked for more (R210). -/
def Chip.gambitCutNow (c : Chip) (q : Nat) : Option Nat :=
  if c.gambitMax (c.rq q) < (c.rq q).gambit.toNat then some (c.gambitMax (c.rq q)) else none

/-- Is the gambit length in force below the one asked for (R210)? -/
def Chip.gambitClampedNow (c : Chip) (q : Nat) : Bool := (c.gambitCutNow q).isSome

/-- Does the request carry CLAMPED? -/
def Chip.clampedNow (c : Chip) (q : Nat) : Bool := c.blockClampedNow q || c.gambitClampedNow q

/-- A block has been clamped: counted once, UNIT_CONDSTAT.CLAMPED (R162). -/
def Chip.countClamp (c : Chip) : Chip := (c.count 0x078 1).orReg 0x060 0x20#32

/-- A value of a request has been set, or a bound has moved: a block that has been clamped is counted, whether a field of it was
(`block`) or its gambit length, and the entry's CLAMPED bit takes what is in force (R162, R210). -/
def Chip.flagClamped (c : Chip) (q : Nat) (block : Bool := false) : Chip :=
  if (c.rq q).live then
    let cut := c.gambitCutNow q
    let c := if block ∨ (cut.isSome ∧ cut ≠ (c.ax q).gambitCut) then c.countClamp else c
    let b := c.clampedNow q
    (c.modAx q fun a => { a with gambitCut := cut }).modRq q fun e => { e with clamped := b }
  else c

/-- A request's stored block is clamped again after the limits have tightened (R163). -/
def Chip.reclamp (c : Chip) (q : Nat) : Chip :=
  let r := c.clampParams (c.pm q)
  let c := if r.2 then ({ c with prm := tset c.prm q r.1 }).modAx q fun a => { a with blockClamped := true } else c
  c.flagClamped q r.2

/-- Every request of the table: its block against the limits in force, its CLAMPED bit. -/
def Chip.reclampAll (c : Chip) : Chip := (c.liveIds.filter fun q => (c.rq q).live).foldl Chip.reclamp c

end Sys2Proof.Machine
end

