-- ==== Sys2Proof/Machine/Pages.lean ====
section
/-!
DEFINITION. Lagoon pages, counts, masks, the phrase trie, adapters and delta sets as the rows of a step read them and as
commits change them (R125 to R159).
-/
namespace Sys2Proof.Machine

/-! ### The page pool (R139, R142) -/

/-- ATL_POOLSIZE of the plan in force. -/
def Chip.poolSize (c : Chip) : Nat := match c.plan.cur with
  | some p => p.pool
  | none => 0

/-- The lowest-numbered free page of a lagoon. -/
def Chip.freePage (c : Chip) (at_ : Nat) : Option Nat :=
  (List.range c.poolSize).find? fun p => (tget c.page (pageKey at_ p)).use = .free

/-- Allocate one page, filled with zeros. -/
def Chip.allocPage (c : Chip) (at_ : Nat) (use : PageUse) : Option (Nat × Chip) :=
  match c.freePage at_ with
  | none => none
  | some p =>
    let c := ({ c with page := tset c.page (pageKey at_ p) { use := use, bytes := [] } }).syncPool at_
    some (p, c.eventAtl (c.physOf at_) 0x130)

/-- Allocate a page for each (lagoon, key); where the pool runs short, those allocated are freed again and none is given.
Answers (key, lagoon, page). -/
def Chip.allocAll (use : PageUse) : List (Nat × Nat) → Chip → List (Nat × Nat × Nat) → Option (List (Nat × Nat × Nat)) × Chip
  | [], c, got => (some got.reverse, c)
  | (a, k) :: r, c, got =>
    match c.allocPage a use with
    | some (p, c') => Chip.allocAll use r c' ((k, a, p) :: got)
    | none => (none, got.foldl (fun c g => c.dropPage g.2.1 g.2.2) c)

/-- A byte of a page. -/
def Chip.pageByte (c : Chip) (at_ p i : Nat) : Byte := tget (tget c.page (pageKey at_ p)).bytes i

/-- Set a byte of a page. -/
def Chip.setPageByte (c : Chip) (at_ p i : Nat) (b : Byte) : Chip :=
  { c with page := tmod c.page (pageKey at_ p) fun g => { g with bytes := tset g.bytes i b } }

/-! ### Counts (R135 to R139) -/

/-- The count page of a request's column group, if one is allocated. -/
def Chip.countPage (c : Chip) (block q e : Nat) : Option Nat :=
  let h := tget c.dir (dirKey block q e)
  if h.getLsbD 15 then some (h.toNat % 0x8000) else none

/-- The committed count of a column, by block, row-wide group and lane. -/
def Chip.countAt (c : Chip) (block q e lane : Nat) : Nat := match c.countPage block q e with
  | some p => (c.pageByte block p lane).toNat
  | none => 0

/-- The row-wide group that a piece and a group within it name (R131). -/
def Plan.wide (p : Plan) (piece j : Nat) : Nat := piece * p.cpl + j

/-- Add to a column's count with saturation; the page is allocated if need be. False: no page was free. -/
def Chip.addCount (c : Chip) (block q e lane n : Nat) : Bool × Chip :=
  match c.countPage block q e with
  | some p => (true, c.setPageByte block p lane (BitVec.ofNat 8 (min 255 ((c.pageByte block p lane).toNat + n))))
  | none =>
    match c.allocPage block .count with
    | none => (false, c)
    | some (p, c) =>
      let c := { c with dir := tset c.dir (dirKey block q e) (BitVec.ofNat 16 (0x8000 + p)) }
      (true, c.setPageByte block p lane (BitVec.ofNat 8 (min 255 n)))

/-- The count of a committed token's column rises by 1 (R138, R139). -/
def Chip.countToken (c : Chip) (q : Nat) (tok : Nat) : Chip :=
  match c.plan.cur with
  | none => c
  | some p =>
    match p.colOf tok with
    | none => c
    | some col =>
      let (piece, block, j, lane) := p.place col
      let r := c.addCount block q (p.wide piece j) lane 1
      if r.1 then r.2
      else
        let c := ((r.2.count 0x070 1).orReg 0x060 8#32).note .countLost 0 q tok
        (c.modRq q fun e => { e with countOvf := true }).modAx q fun a => { a with lost := true }

/-- Free every count page of a request and clear its directory slot (R141). -/
def Chip.freeCounts (c : Chip) (q : Nat) : Chip :=
  let mine := c.dir.filter fun e => e.1 / 256 % 4096 = q
  let c := (mine.filter fun e => e.2.getLsbD 15).foldl (fun c e => c.dropPage (e.1 / 256 / 4096) (e.2.toNat % 0x8000)) c
  { c with dir := c.dir.filter fun e => e.1 / 256 % 4096 ≠ q }

/-- The (lagoon, directory entry) pairs of a request's count pages, in directory order. -/
def Chip.countTags (c : Chip) (q : Nat) : List (Nat × Nat) :=
  (c.dir.filter fun e => decide (e.1 / 256 % 4096 = q) && e.2.getLsbD 15).map fun e => (e.1 / 256 / 4096, e.1 % 256)

/-! ### Masks (R145 to R151) -/

/-- The pages of a mask, all of them, as (lagoon, key): key 32 × block + page index. -/
def Plan.maskSlots (p : Plan) : List (Nat × Nat) :=
  (List.range 16).flatMap fun b => (List.range p.maskPages).map fun i => (b, 32 * b + i)

/-- Bit c of a bitmap in column order (R149). -/
def bitmapBit (bits : Nat → Byte) (col : Nat) : Bool := (bits (col / 8)).getLsbD (col % 8)

/-- The byte of a mask page at an index: 8 columns of one group (R148). -/
def Plan.maskByte (p : Plan) (bits : Nat → Byte) (block idx i : Nat) : Byte :=
  let q := 8 * idx + i / 32
  if p.groups ≤ q then 0
  else BitVec.ofNat 8 ((List.range 8).foldl (fun a n =>
    let col := p.column block q (8 * (i % 32) + n)
    if col < p.n ∧ bitmapBit bits col then a + 2 ^ n else a) 0)

/-- The 256 bytes of a mask page. -/
def Plan.maskPage (p : Plan) (bits : Nat → Byte) (block idx : Nat) : List Byte := (List.range 256).map (p.maskByte bits block idx)

/-- Write a bitmap into the pages allocated for it, given as (key, lagoon, page). -/
def Chip.writeMask (c : Chip) (p : Plan) (bits : Nat → Byte) (pages : List (Nat × Nat × Nat)) : Chip :=
  pages.foldl (fun c g => { c with page := tmod c.page (pageKey g.2.1 g.2.2) fun x =>
    { x with bytes := wrBytes [] 0 (p.maskPage bits (g.1 / 32) (g.1 % 32)) } }) c

/-- The pages of a mask as a table by key. -/
def pageTable (pages : List (Nat × Nat × Nat)) : SMap (Option Nat) := pages.foldl (fun m g => tset m g.1 (some g.2.2)) []

/-- A mask's bit for block, row-wide group and lane; none where its page is absent. -/
def Chip.maskBit (c : Chip) (pages : SMap (Option Nat)) (block q lane : Nat) : Option Bool :=
  match tget pages (32 * block + q / 8) with
  | none => none
  | some p => some ((c.pageByte block p (q % 8 * 32 + lane / 8)).getLsbD (lane % 8))

/-- Release one binding of a static mask; at none left its pages are freed and it is no longer resident (R147). -/
def Chip.unbindStatic (c : Chip) (id : Nat) : Chip :=
  let s := tget c.statics id
  if s.binds ≤ 1 then { c.dropAll (tablePages s.pages) with statics := tdel c.statics id }
  else { c with statics := tset c.statics id { s with binds := s.binds - 1 } }

/-- Release the static binding of one slot. -/
def Chip.unbindSlot (c : Chip) (q : Nat) (slot1 : Bool) : Chip :=
  match (if slot1 then (c.ax q).bound1 else (c.ax q).bound0) with
  | none => c
  | some id =>
    let c := c.unbindStatic id
    c.modAx q fun a => if slot1 then { a with bound1 := none } else { a with bound0 := none }

/-- The resident grammar mask of a request's position. -/
def Chip.grammarFor (c : Chip) (q : Nat) (pos : Word) : Option GrammarMask :=
  c.grammar.find? fun g => g.resident && decide (g.req.toNat = q ∧ g.pos = pos)

/-- The arriving grammar mask of a port. -/
def Chip.maskArriving (c : Chip) (port : Nat) : Option GrammarMask := c.grammar.find? fun g => !g.resident && decide (g.port = port)

/-- The message that a port is assembling is lost: the pages of an arriving grammar mask are freed. -/
def Chip.loseMask (c : Chip) (port : Nat) : Chip :=
  match c.maskArriving port with
  | none => c
  | some g => c.freeGrammar g.req.toNat fun x => x == g

/-- Does a static slot ban the column (R145)? Mode 1 allows, mode 2 denies. -/
def Chip.staticBans (c : Chip) (mode : BitVec 2) (bound : Option Nat) (block q lane : Nat) : Bool :=
  match bound with
  | none => false
  | some id =>
    match c.maskBit (tget c.statics id).pages block q lane with
    | none => false
    | some b => if mode = 1#2 then !b else if mode = 2#2 then b else false

/-- Does a deny list ban the column? An absent page bans nothing. -/
def Chip.denyBans (c : Chip) (tenant block q lane : Nat) : Bool :=
  (c.maskBit (tget c.deny tenant).pages block q lane).getD false

/-! ### The phrase trie (R154 to R158) -/

/-- What a walk meets: the index at fault, or a block. -/
abbrev TrieRead := Except Nat Nat

/-- A block of a trie image, if it lies within the extent and is readable. -/
def TrieExt.block (t : TrieExt) (i : Nat) : TrieRead :=
  match t.blocks[i]? with
  | none => .error i
  | some b => if t.bad.contains i then .error i else .ok b.toNat

def nodeToken (b : Nat) : Nat := fld b 23 0
def nodeStop (b : Nat) : Bool := b.testBit 24
def nodeBan (b : Nat) : Bool := b.testBit 25
def nodeChild (b : Nat) : Nat := fld b 49 32
def nodeFail (b : Nat) : Nat := fld b 81 64
def nodeNchild (b : Nat) : Nat := fld b 93 82
def nodeBanlist (b : Nat) : Nat := fld b 113 96
def nodeNban (b : Nat) : Nat := fld b 120 114

/-- A node block, with its reserved fields and its ban length checked (R157). -/
def TrieExt.node (t : TrieExt) (i : Nat) : TrieRead :=
  match t.block i with
  | .error e => .error e
  | .ok b =>
    let n := nodeNban b
    if fld b 31 26 ≠ 0 ∨ fld b 63 50 ≠ 0 ∨ fld b 95 94 ≠ 0 ∨ fld b 127 121 ≠ 0 then .error i
    else if nodeBan b ∧ (n = 0 ∨ 64 < n) then .error i
    else if !nodeBan b ∧ n ≠ 0 then .error i else .ok b

/-- The binary search of R155 over children lo to hi − 1. -/
def TrieExt.search (t : TrieExt) (child tok : Nat) : (fuel lo hi : Nat) → Except Nat (Option Nat)
  | 0, _, _ => .ok none
  | n + 1, lo, hi =>
    if hi ≤ lo then .ok none
    else
      let mid := (lo + hi - 1) / 2
      match t.node (child + mid) with
      | .error e => .error e
      | .ok b =>
        if nodeToken b = tok then .ok (some (child + mid))
        else if nodeToken b < tok then t.search child tok n (mid + 1) hi
        else t.search child tok n lo mid

/-- find_child (R155). -/
def TrieExt.findChild (t : TrieExt) (cur tok : Nat) : Except Nat (Option Nat) :=
  match t.node cur with
  | .error e => .error e
  | .ok b =>
    let n := nodeNchild b
    if n = 0 then .ok none
    else if t.blocks.length ≤ nodeChild b + n - 1 then .error (nodeChild b + n - 1)
    else t.search (nodeChild b) tok 12 0 n

/-- walk (R155): the node reached. -/
def TrieExt.walk (t : TrieExt) (tok : Nat) : (fuel cur : Nat) → TrieRead
  | 0, _ => .ok 0
  | n + 1, cur =>
    match t.findChild cur tok with
    | .error e => .error e
    | .ok (some ch) => .ok ch
    | .ok none =>
      if cur = 0 then .ok 0
      else match t.node cur with
        | .error e => .error e
        | .ok b => t.walk tok n (nodeFail b)

/-- The four tokens of a ban block. -/
def TrieExt.banBlock (t : TrieExt) (i : Nat) : Except Nat (List Nat) :=
  match t.block i with
  | .error e => .error e
  | .ok w =>
    if (List.range 4).any fun j => decide (fld w (32 * j + 31) (32 * j + 24) ≠ 0) then .error i
    else .ok ((List.range 4).map fun j => fld w (32 * j + 23) (32 * j))

/-- The tokens of n consecutive ban blocks. -/
def TrieExt.banBlocks (t : TrieExt) : (n i : Nat) → Except Nat (List Nat)
  | 0, _ => .ok []
  | n + 1, i =>
    match t.banBlock i with
    | .error e => .error e
    | .ok l => match t.banBlocks n (i + 1) with
      | .error e => .error e
      | .ok r => .ok (l ++ r)

/-- The ban list of a node, every block of it read whole. -/
def TrieExt.bans (t : TrieExt) (i : Nat) : Except Nat (List Nat) :=
  match t.node i with
  | .error e => .error e
  | .ok b =>
    let n := nodeNban b
    let k := cdiv n 4
    if n = 0 then .ok []
    else if t.blocks.length ≤ nodeBanlist b + k - 1 then .error (nodeBanlist b + k - 1)
    else match t.banBlocks k (nodeBanlist b) with
      | .error e => .error e
      | .ok l => .ok (l.take n)

/-- One token walked with all that the walk reads: the node reached with STOP, or the failing index. -/
def TrieExt.step (t : TrieExt) (cur tok : Nat) : Except Nat (Nat × Bool) :=
  match t.walk tok 17 cur with
  | .error e => .error e
  | .ok i => match t.bans i with
    | .error e => .error e
    | .ok _ => match t.node i with
      | .error e => .error e
      | .ok b => .ok (i, nodeStop b)

/-- The trie a request binds. -/
def Chip.trieOf (c : Chip) (q : Nat) : Option TrieExt := if (c.rq q).trieV then tget c.trie (c.rq q).trie.toNat else none

/-- The tokens banned at a node of the request's trie. -/
def Chip.bansAt (c : Chip) (q node : Nat) : List Nat :=
  match c.trieOf q with
  | none => []
  | some t => match t.bans node with
    | .ok l => l
    | .error _ => []

/-- A trie walk has faulted (R157). -/
def Chip.trieFault (c : Chip) (q : Nat) (pos : Word) (idx : Nat) : Chip :=
  ((c.count 0x074 1).orReg 0x060 0x10#32).note .trieFault 0 q pos.toNat idx

/-- The committed cursor walks a token (R155 to R157): does the node reached stop the request? -/
def Chip.walkToken (c : Chip) (q : Nat) (pos : Word) (tok : Nat) : Bool × Chip :=
  match c.trieOf q with
  | none => (false, c)
  | some t =>
    match t.step (c.rq q).cursor.toNat tok with
    | .ok (n, stop) =>
      (stop, (c.modRq q fun e => { e with cursor := BitVec.ofNat 18 n }).modAx q fun a => { a with trieDeg := false })
    | .error i =>
      (false, ((c.trieFault q pos i).modRq q fun e => { e with cursor := 0 }).modAx q fun a => { a with trieDeg := true })

/-! ### Adapters and deltas (R125 to R134) -/

/-- The key of a byte of the adapter store. -/
def adpKey (slot i : Nat) : Nat := slot * 32768 + i

/-- The bias of a token in an adapter, +0.0 where the list has none. -/
def Chip.biasOf (c : Chip) (slot tok : Nat) : Word :=
  let n := (tget c.adpDir slot).nbias.toNat
  match (List.range n).find? fun i => rdLE c.adpMem (adpKey slot (8 * i)) 3 = tok with
  | some i => BitVec.ofNat 32 (rdLE c.adpMem (adpKey slot (8 * i + 4)) 4)
  | none => 0#32

/-- A lane's share of a delta set in one piece and group. -/
def Chip.deltaShare (c : Chip) (set block lane piece j : Nat) : List Triplet :=
  match tget c.delta set with
  | none => []
  | some d => d.trips.filter fun t =>
      decide (t.block.toNat = block ∧ t.lane.toNat = lane ∧ t.piece.toNat = piece ∧ t.group.toNat = j)

/-- Does a tag let a tenant use a resource (R252)? -/
def tagOk (tag tenant : BitVec 12) : Bool := tag = 0#12 ∨ tag = tenant

/-! ### The end of a request (R141, R147, R151, R242) -/

/-- Everything that END frees: count pages, grammar masks, static bindings, the binding bits of the entry. -/
def Chip.releaseAll (c : Chip) (q : Nat) : Chip :=
  let c := (c.freeCounts q).freeGrammar q fun _ => true
  let c := (c.unbindSlot q false).unbindSlot q true
  c.modRq q fun e => { e with adapterV := false, deltaV := false, trieV := false, countOvf := false, ttl := 0 }

end Sys2Proof.Machine
end

