-- ==== Sys2Proof/Machine/Link.lean ====
section
/-!
DEFINITION. The sending side of the fabric ports and their quarantine: flits, credits, messages, retry (R397, R459 to R464,
R467).
-/
namespace Sys2Proof.Machine

/-! ### Ports -/

/-- A physical port's link state. -/
def Chip.fb (c : Chip) (p : Nat) : FabPort := tget c.fab p
/-- Change a port's link state. -/
def Chip.modFab (c : Chip) (p : Nat) (f : FabPort → FabPort) : Chip := { c with fab := tmod c.fab p f }
/-- The link is trained. -/
def Chip.portUp (c : Chip) (p : Nat) : Bool := c.rbit (fabOff p) 6
/-- The port is quarantined. -/
def Chip.portQuar (c : Chip) (p : Nat) : Bool := c.rbit (fabOff p) 7
/-- Does a repair retire the port (R421)? -/
def Chip.portRetired (c : Chip) (p : Nat) : Bool := p != 8 && c.rbit 0x168 31 && c.rfld 0x168 7 4 == p
/-- Does the port serve a logical port: the spare only once it has taken one over, the others unless they are retired (R18, R397)? -/
def Chip.portServes (c : Chip) (p : Nat) : Bool :=
  if p = 8 then c.rbit 0x168 31 || (tget c.regNext 0x168).isSome else !c.portRetired p
/-- Does the port carry flits? Before READY all nine do (R463); then at most eight (R18). -/
def Chip.portLive (c : Chip) (p : Nat) : Bool :=
  !c.clk.held && c.portUp p && !c.portQuar p && !c.portRetired p && (!c.ready || c.portServes p)
/-- The source code of a port in the event log (R413). -/
def portSrc (p : Nat) : Nat := p + 18

/-- The port that now carries a port's traffic: the spare after a quarantine or a repair (R397, R464). -/
def Chip.portNow (c : Chip) (p : Nat) : Nat := if (c.portQuar p ∨ c.portRetired p) ∧ p ≠ 8 then 8 else p

/-! ### Flits (R459) -/

/-- A flit: header, payload, CRC. -/
def flitBytes (type cls : Nat) (som eom : Bool) (seq arg : Nat) (payload : List Byte) : List Byte :=
  let h := toLE 4 (type * 2 ^ 29 + cls * 2 ^ 26 + (if som then 2 ^ 25 else 0) + (if eom then 2 ^ 24 else 0)
    + seq % 4096 * 4096 + arg % 4096)
  let b := h ++ (payload ++ List.replicate 192 0#8).take 192
  b ++ toLE 4 (crc32 b)

/-- A flit leaves on a port. -/
def Chip.sendFlit (c : Chip) (p : Nat) (bytes : List Byte) : Chip := (c.emit (.flit p bytes)).eventPort p 0x202

/-- Ingress credits of a class are returned: the running total goes out in a CREDIT flit (R460). -/
def Chip.giveCredit (c : Chip) (p cls n : Nat) : Chip :=
  if n = 0 then c
  else
    let c := c.modFab p fun x => { x with granted := tmod x.granted cls fun g => g + n }
    c.sendFlit p (flitBytes 1 cls false false 0 (tget (c.fb p).granted cls) [])

/-! ### Sending (R460, R461) -/

/-- A class has a credit on the port. -/
def FabPort.hasCredit (x : FabPort) (cls : Nat) : Bool := decide (tget x.sent cls < tget x.limit cls)

/-- The flit that the egress arbiter serves next: CTRL, RING, PARK, LOAD, the oldest of the class. -/
def FabPort.nextFlit (x : FabPort) : Option TxFlit :=
  [6, 4, 5, 3].findSome? fun k => if x.hasCredit k then x.waiting.find? fun t => t.cls = k else none

/-- Flits are sent while there is credit and room in the replay buffer. -/
def Chip.pump (p : Nat) : Nat → Chip → Chip
  | 0, c => c
  | n + 1, c =>
    let x := c.fb p
    match x.nextFlit with
    | none => c
    | some t =>
      if 1024 ≤ x.replay.length ∨ !c.portLive p then c
      else
        let b := flitBytes 0 t.cls t.som t.eom x.txSeq.toNat 0 t.payload
        let c := if t.nr then (c.count (fabOff p + 0xC) 1).eventPort p 0x205 else c
        let c := c.modFab p fun x => { x with
          waiting := x.waiting.erase t, sent := tmod x.sent t.cls fun s => s + 1
          replay := x.replay ++ [(x.txSeq, b)], txSeq := x.txSeq + 1
          progress := if x.replay = [] then c.clk.now else x.progress }
        Chip.pump p n ((c.sendFlit p b).giveCredit p t.backCls t.back)

/-- From now on, or still, a class has flits waiting and no credit (R462). -/
def FabPort.markStarved (now : Nat) (x : FabPort) : FabPort := { x with
  starve := [3, 4, 5, 6].foldl (fun m k =>
    if (x.waiting.any fun t => t.cls = k) ∧ !x.hasCredit k then (if tget m k = 0 then tset m k (now + 1) else m) else tdel m k) x.starve }

/-- What may be sent is sent; what must wait for credit waits. -/
def Chip.egress (c : Chip) (p : Nat) : Chip := (Chip.pump p 1024 c).modFab p (FabPort.markStarved c.clk.now)

/-- One-flit messages join the egress queue of the port that now serves a port. -/
def Chip.queueFlit (c : Chip) (p : Nat) (t : TxFlit) : Chip :=
  let p := c.portNow p
  (c.modFab p fun x => { x with waiting := x.waiting ++ [t] }).egress p

/-- A CTRL message of one flit. -/
def Chip.sendCtrl (c : Chip) (p : Nat) (payload : List Byte) : Chip :=
  c.queueFlit p { cls := 6, som := true, eom := true, payload := payload, backCls := 0, back := 0, nr := false }

/-- NOT_READY answers a refused message with its first 16 B; the message's credits return once it has been sent (R463). -/
def Chip.notReady (c : Chip) (p cls flits : Nat) (first : List Byte) : Chip :=
  c.queueFlit p { cls := 6, som := true, eom := true, payload := first.take 16, backCls := cls, back := flits, nr := true }

/-- A ring record leaves as one flit of its ring's port (R460) (log entry 92). -/
def Chip.sendRing (c : Chip) (d addr : Nat) (rec : List Byte) : Chip :=
  c.queueFlit (Config.ringPort d).val
    { cls := 4, som := true, eom := true, payload := Config.ringPayload addr rec, backCls := 0, back := 0, nr := false }

/-- A ring record waits to be sent, or its flit to be acknowledged (R464). -/
def FabPort.ringOut (x : FabPort) : Bool :=
  (x.waiting.any fun t => t.cls = 4) || x.replay.any fun e => fld (leAt e.2 0 4) 28 26 = 4
def Chip.ringOut (c : Chip) : Bool := c.fab.any fun e => e.2.ringOut

/-- Does the unit refuse every message now (R463)? -/
def Chip.refusing (c : Chip) : Bool := !c.ready || c.stopped

/-! ### Quarantine (R397, R464) -/

/-- A flit kept for replay as a message to be sent again. -/
def resend (e : BitVec 12 × List Byte) : TxFlit :=
  { cls := fld (leAt e.2 0 4) 28 26, som := true, eom := true, payload := (e.2.drop 4).take 192, backCls := 0, back := 0,
    nr := false }

/-- A waiting flit whose sending returns no credits. -/
def TxFlit.noRefund (t : TxFlit) : TxFlit := { t with back := 0 }

/-- A port is quarantined at once: its traffic and what it has not had acknowledged move to the spare port; with no spare
left the unit fail-stops with cause NO_SPARE. The idle spare port needs none in its place. -/
def Chip.quarantine (c : Chip) (p : Nat) : Chip :=
  if c.portQuar p then c
  else
    let x := c.fb p
    let c := ((c.orReg (fabOff p) 0x80#32).orReg 0x160 0x10#32).note .portQuarantine (portSrc p)
    let c := (c.modFab p fun x => { x with waiting := [], replay := [], assembly := [], starve := [] }).loseMask p
    if !c.portServes p then c
    else if p = 8 ∨ c.rbit 0x168 31 ∨ (tget c.regNext 0x168).isSome ∨ c.portQuar 8 then c.failStop 1
    else
      let c := (c.setNext 0x168 (BitVec.ofNat 32 (2 ^ 31 + p * 16 + p))).emit (.portMove p)
      (x.replay.map resend ++ x.waiting.map TxFlit.noRefund).foldl (fun c t => c.queueFlit 8 t) c

/-- The link goes down (R461, R462, R463). -/
def Chip.linkDown (c : Chip) (p : Nat) : Chip :=
  (((c.orReg (fabOff p) 4#32).clrReg (fabOff p) 0x40#32).note .linkDown (portSrc p)).quarantine p

/-! ### Retry (R461) -/

/-- The sender replays from the oldest unacknowledged flit; 16 replays without progress take the link down. -/
def Chip.replayLink (c : Chip) (p : Nat) : Chip :=
  let n := (c.fb p).replays + 1
  let c := (((c.count (fabOff p + 8) 1).orReg (fabOff p) 2#32).eventPort p 0x203).noteOnce (0x1000 + p) .linkRetry (portSrc p)
  let c := c.modFab p fun x => { x with replays := n, progress := c.clk.now }
  if 16 ≤ n then c.linkDown p
  else (c.fb p).replay.foldl (fun c e => c.sendFlit p e.2) c

/-- Flits up to a sequence number are acknowledged; progress ends the run of replays. -/
def Chip.acked (c : Chip) (p : Nat) (seq : BitVec 12) : Chip :=
  let x := c.fb p
  match x.replay.findIdx? fun e => e.1 = seq with
  | none => c
  | some i => (c.modFab p fun x => { x with replay := x.replay.drop (i + 1), replays := 0, progress := c.clk.now }).egress p

/-- CREDIT arrives: the running total of a class (R460). -/
def Chip.onCredit (c : Chip) (p cls : Nat) (total : Nat) : Chip :=
  let step (x : FabPort) : FabPort := { x with limit := tmod x.limit cls fun l => l + (total + 4096 - l % 4096) % 4096 }
  (c.modFab p step).egress p

/-! ### Commands -/

/-- CREDIT (R460): one of the reserved class is discarded (R459). -/
def execCredit (port : Port) (cls : BitVec 3) (total : BitVec 12) (s : State) : Host.Outcome State Fault Refusal :=
  .next { s with unit :=
    if !s.unit.portLive port then s.unit
    else if cls = 7#3 then s.unit.note .flitBad (portSrc port)
    else s.unit.onCredit port cls.toNat total.toNat }

/-- ACK (R461). -/
def execLinkAck (port : Port) (seq : BitVec 12) (s : State) : Host.Outcome State Fault Refusal :=
  .next { s with unit := if s.unit.portLive port then s.unit.acked port seq else s.unit }

/-- NAK: what it acknowledges, then a replay (R461). -/
def Chip.onNak (c : Chip) (p : Nat) (seq : BitVec 12) : Chip :=
  let c := c.acked p seq
  if (c.fb p).replay = [] then c else c.replayLink p

/-- NAK (R461). -/
def execNak (port : Port) (seq : BitVec 12) (s : State) : Host.Outcome State Fault Refusal :=
  .next { s with unit := if s.unit.portLive port then s.unit.onNak port seq else s.unit }

/-- Have 1,024 FCLK, which are 672 UCLK, passed without progress of acknowledgement (R461)? -/
def FabPort.stale (x : FabPort) (now : Nat) : Bool := !x.replay.isEmpty && decide (x.progress + 672 ≤ now)

/-- LINK_RETRY (R461). -/
def execLinkRetry (port : Port) (s : State) : Host.Outcome State Fault Refusal :=
  .next { s with unit := if s.unit.portLive port ∧ (s.unit.fb port).stale s.unit.clk.now then s.unit.replayLink port else s.unit }

/-- Has a class had flits waiting and no credit for 16,000 FCLK, which are 10,500 UCLK (R462)? -/
def FabPort.starved (x : FabPort) (now : Nat) : Bool := x.starve.any fun e => decide (0 < e.2 ∧ e.2 + 10499 ≤ now)

/-- CREDIT_TIMEOUT (R462). -/
def execCreditTimeout (port : Port) (s : State) : Host.Outcome State Fault Refusal :=
  .next { s with unit :=
    if s.unit.portLive port ∧ (s.unit.fb port).starved s.unit.clk.now then
      ((s.unit.orReg (fabOff port) 8#32).note .creditTimeout (portSrc port)).quarantine port
    else s.unit }

/-- The receiver acknowledges the flits received in order (R461). -/
def Chip.sendAck (c : Chip) (p : Nat) : Chip :=
  let x := c.fb p
  (c.modFab p fun x => { x with unacked := 0 }).sendFlit p (flitBytes 2 0 false false 0 (x.rxSeq.toNat + 4095) [])

/-- ACK_INTERVAL (R461). -/
def execAckInterval (port : Port) (s : State) : Host.Outcome State Fault Refusal :=
  .next { s with unit :=
    if s.unit.portLive port ∧ 0 < (s.unit.fb port).unacked then s.unit.sendAck port else s.unit }

/-- The running totals of a port's ingress classes go out in CREDIT flits (R463). -/
def Chip.advertise (c : Chip) (p : Nat) : Chip :=
  ingressClasses.foldl (fun c k => c.sendFlit p (flitBytes 1 k false false 0 (tget (c.fb p).granted k) [])) c

/-- A link has trained, or has failed to (R462, R463). -/
def Chip.trainLink (c : Chip) (p : Nat) (trained : Bool) : Chip :=
  if c.clk.held ∨ c.portUp p ∨ c.portQuar p ∨ c.portRetired p then c
  else if !trained then c.linkDown p
  else
    let c := c.orReg (fabOff p) 0x40#32
    (c.modFab p fun x => x.grant fun k => if c.ready then fullPool k else bootPool).advertise p

/-- LINK_TRAINING (R463). -/
def execLinkTraining (port : Port) (trained : Bool) (s : State) : Host.Outcome State Fault Refusal :=
  .next { s with unit := s.unit.trainLink port trained }

/-- READY (R347), and the full pools of every live port are advertised (R463). -/
def execReady (s : State) : Host.Outcome State Fault Refusal :=
  let c := s.unit.becomeReady
  .next { s with unit :=
    if s.unit.clk.held ∨ s.unit.boot ≠ 4 then c else ((List.range 9).filter c.portLive).foldl Chip.advertise c }

/-! ### The merge channel endpoint (R468, R469) -/

/-- Can a sub-stream have data that has waited for credit for 52,500 UCLK (R468)? Not before its first message is that old. -/
def Chip.channelStarved (c : Chip) (sub : Nat) : Bool := (tget c.mch sub).any fun t => decide (t + 52500 ≤ c.clk.ucyc)

/-- MCH_CREDIT (R468). -/
def execMchCredit (sub : Bool) (s : State) : Host.Outcome State Fault Refusal :=
  .next { s with unit :=
    if s.unit.clk.held ∨ !s.unit.channelStarved sub.toNat then s.unit else (s.unit.orReg 0x540 1#32).note .mchCredit 27 }

/-- CHANNEL_UNAVAILABLE (R469). -/
def execChannelUnavailable (s : State) : Host.Outcome State Fault Refusal :=
  .next { s with unit := if s.unit.clk.held then s.unit else s.unit.orReg 0x540 2#32 }

end Sys2Proof.Machine
end

