-- ==== Sys2Proof/Machine/Mirror.lean ====
section
/-!
DEFINITION. Buddy mirroring and lock-step: messages, bindings, records, heartbeats, signatures (R401 to R410).
-/
namespace Sys2Proof.Machine

/-- A reliability message leaves, counted (R402, R424). -/
def Chip.sendRel (c : Chip) (peer : Nat) (msg : List Byte) : Chip := (c.overChannel 1 peer (.mirror peer) msg).eventMch 0x301

/-- A reliability message arrives, counted; a unit held in reset hears nothing. -/
def Chip.relArrives (c : Chip) (act : Chip → Chip) : Chip := if c.clk.held then c else act (c.eventMch 0x302)

/-- An egress stall of the drain. -/
def Chip.emitStall (c : Chip) (stall : Nat) : Chip :=
  if stall = 0 then c else (c.note .emitStall 0 (min stall 0xFFFFFFFF)).event 0x034 stall

/-- A round trip is measured: the highest and the latest, in units of 16 UCLK (R469). -/
def Chip.roundTrip (c : Chip) (cycles : Nat) : Chip :=
  let v := min 0xFFFF (cycles / 16)
  c.setReg 0x544 (BitVec.ofNat 32 (max (c.rfld 0x544 31 16) v * 65536 + v))

/-! ### Messages (R402) -/

/-- Message kinds. -/
def kRecord : Nat := 0
def kBind : Nat := 1
def kAccept : Nat := 2
def kRefuse : Nat := 3
def kHeartbeat : Nat := 4
def kSignature : Nat := 5

/-- The 16-byte header of a message. -/
def mirHeader (tag : Byte) (kind ntok : Nat) (flags : Nat) (rid : Nat) (w1 w2 : Nat) (cause : Byte) : List Byte :=
  [tag, BitVec.ofNat 8 (kind * 16 + ntok)] ++ toLE 2 (flags + rid) ++ toLE 4 w1 ++ toLE 4 w2 ++ [cause, 0, 0, 0]

def msgTag (m : List Byte) : Byte := m.getD 0 0
def msgKind (m : List Byte) : Nat := leAt m 1 1 / 16
def msgNtok (m : List Byte) : Nat := leAt m 1 1 % 16
def msgReq (m : List Byte) : Nat := leAt m 2 2 % 4096
def msgWord1 (m : List Byte) : Nat := leAt m 4 4
def msgWord2 (m : List Byte) : Nat := leAt m 8 4

/-- CFGCRC of a request. -/
def Chip.cfgCrc (c : Chip) (q : Nat) : Word :=
  let e := c.rq q
  BitVec.ofNat 32 (crc32 ((c.pm q).bytes ++ toLE 8 e.seed.toNat
    ++ [BitVec.ofNat 8 (pack [(e.gambit.toNat, 4), (e.slot1.toNat, 2), (e.slot0.toNat, 0)])]))

/-- Bytes 24 to 55 of the header of the plan in force. -/
def Chip.planIdent (c : Chip) : List Byte :=
  match c.plan.cur with
  | none => List.replicate 32 0#8
  | some p => toLE 8 p.seed.toNat ++ toLE 4 p.head0.toNat ++ toLE 4 p.head1.toNat ++ toLE 4 p.n ++ toLE 4 p.h0 ++ toLE 4 p.h1
      ++ toLE 1 p.pieces ++ [p.merge] ++ toLE 1 p.draftSrc ++ toLE 1 p.rescore

/-- The count pages of a request in directory order: lagoon, then directory entry. -/
def Chip.countBytes (c : Chip) (q : Nat) : List Byte :=
  (c.countTags q).flatMap fun t => match c.countPage t.1 q t.2 with
    | some p => rdBytes (tget c.page (pageKey t.1 p)).bytes 0 256
    | none => []

/-- The bytes of mask pages by key. -/
def Chip.maskBytes (c : Chip) (m : SMap (Option Nat)) : List Byte :=
  (tablePages m).flatMap fun g => rdBytes (tget c.page (pageKey g.2.1 g.2.2)).bytes 0 256

/-- The contents of a request's bound adapter, delta set, trie image, static masks and tenant deny list, in that order. -/
def Chip.resourceBytes (c : Chip) (q : Nat) : List Byte :=
  let e := c.rq q
  let a := c.ax q
  let mask (b : Option Nat) : List Byte := match b with
    | some id => c.maskBytes (tget c.statics id).pages
    | none => []
  (if e.adapterV then rdBytes c.adpMem (adpKey e.adapter.toNat 0) (32768 * (tget c.adpDir e.adapter.toNat).slots.toNat) else [])
    ++ (if e.deltaV then (match tget c.delta e.delta.toNat with
      | some d => d.trips.flatMap fun t => toLE 2 (pack [(t.block.toNat, 8), (t.lane.toNat, 0)])
          ++ toLE 8 (pack [(t.v.toNat, 32), (t.piece.toNat, 23), (t.group.toNat, 17), (t.k.toNat, 0)])
      | none => []) else [])
    ++ (match c.trieOf q with
      | some t => t.blocks.flatMap fun b => toLE 16 b.toNat
      | none => [])
    ++ mask a.bound0 ++ mask a.bound1 ++ c.maskBytes (tget c.deny e.tenant.toNat).pages

/-- BIND of a request (R402, R403). -/
def Chip.bindMsg (c : Chip) (q : Nat) : List Byte :=
  let r := c.mr q
  mirHeader r.tag kBind 0 0 r.peerReq.toNat (c.rq q).position.toNat (c.cfgCrc q).toNat 0 ++ c.planIdent
    ++ toLE 4 (crc32 (c.countBytes q)) ++ toLE 4 (crc32 (c.resourceBytes q)) ++ List.replicate 8 0#8

/-- RECORD of a request: the position before the step, its committed tokens, the END cause if it ends. -/
def Chip.recordMsg (c : Chip) (q : Nat) (pos : Word) (toks : List Nat) (ende : Option Byte) : List Byte :=
  let r := c.mr q
  let body := toks.flatMap fun t => toLE 3 t
  mirHeader r.tag kRecord toks.length (pack [(b2n ende.isSome, 15), (b2n (c.rq q).countOvf, 14)]) r.peerReq.toNat pos.toNat
      (c.cfgCrc q).toNat (ende.getD 0)
    ++ body ++ List.replicate ((16 - body.length % 16) % 16) 0#8

/-! ### Bindings (R403) -/

/-- MIRROR_BIND (R403, R418). -/
def Chip.mirrorBind (c : Chip) (m : Mbx) (b : Mailbox) : Chip :=
  let q := b.target
  let op := b.pay 0 1
  let e := c.rq q
  if 4096 ≤ q then c.finish m 0x0015
  else if fld (b.pay 2 2) 15 13 ≠ 0 ∨ fld (b.pay 4 2) 15 12 ≠ 0 ∨ b.pay 6 2 ≠ 0 then c.finish m 0x0012
  else if 2 < op then c.finish m 0x0020
  else if op = 2 then (c.modMir q fun r => { r with unbind := true }).finish m 0x0000
  else if e.state ≠ .opened ∨ (op = 0 ∧ e.merge) then c.finish m 0x0021
  else
    (c.modMir q fun _ => { mstate := .pending, shadow := op == 1, tag := BitVec.ofNat 8 (b.pay 1 1)
                           peer := BitVec.ofNat 13 (b.pay 2 2), peerReq := BitVec.ofNat 12 (b.pay 4 2)
                           lastPos := e.position - 1, lastSeen := 0, seen := false, asked := 0
                           unbind := false }).finish m 0x0000

/-- MIRROR_BIND (R403). -/
def execMirrorBind (m : Mbx) (s : State) : Host.Outcome State Fault Refusal :=
  .next { s with unit := s.unit.applyCmd m 0x0602 fun c b => c.mirrorBind m b }

/-- Unbindings take effect at a tick (R403). -/
def Chip.mirUnbind (c : Chip) : Chip :=
  (c.mir.filter fun e => e.2.unbind).foldl (fun c e =>
    ({ c with mir := tdel c.mir e.1 }).modRq e.1 fun x => { x with mirror := false }) c

/-- Pending primaries send BIND at a tick (R403). -/
def Chip.sendBinds (c : Chip) : Chip :=
  (c.mir.filter fun e => decide (e.2.mstate = .pending) && !e.2.shadow && decide (e.2.asked < 16)).foldl (fun c e =>
    (c.sendRel e.2.peer.toNat (c.bindMsg e.1)).modMir e.1 fun r => { r with asked := r.asked + 1 }) c

/-- The heartbeats of a step's T+0: one to each distinct peer of a bound primary (R406). -/
def Chip.sendHeartbeats (c : Chip) : Chip :=
  let ents := (c.mir.filter fun e => decide (e.2.mstate = .bound) && !e.2.shadow).map Prod.snd
  let step (a : Chip × List (BitVec 13)) (e : MirrorEnt) : Chip × List (BitVec 13) :=
    if a.2.contains e.peer then a
    else (a.1.sendRel e.peer.toNat (mirHeader e.tag kHeartbeat 0 0 0 (c.tick.cnt.toNat % 2 ^ 32) 0 0), e.peer :: a.2)
  (ents.foldl step (c, [])).1

/-- The reason bits with which a shadow answers a BIND: 0 accepts (R402, R403). -/
def Chip.bindReason (c : Chip) (peer : BitVec 13) (msg : List Byte) : Nat :=
  let q := msgReq msg
  let r := c.mr q
  if !r.shadow ∨ r.peer ≠ peer ∨ r.tag ≠ msgTag msg ∨ (r.mstate ≠ .pending ∧ r.mstate ≠ .bound) then 0x20
  else pack [(b2n (decide ((msg.drop 16).take 32 ≠ c.planIdent)), 0), (b2n (decide (msgWord2 msg ≠ (c.cfgCrc q).toNat)), 1),
    (b2n (decide (msgWord1 msg ≠ (c.rq q).position.toNat)), 2),
    (b2n (decide (leAt msg 48 4 ≠ crc32 (c.countBytes q))), 3), (b2n (decide (leAt msg 52 4 ≠ crc32 (c.resourceBytes q))), 4)]

/-- BIND arrives at a shadow. -/
def Chip.onBind (c : Chip) (peer : BitVec 13) (msg : List Byte) : Chip :=
  let q := msgReq msg
  if msgKind msg ≠ kBind then c
  else
    let why := c.bindReason peer msg
    let back := (c.mr q).peerReq.toNat
    if why = 0 then
      (c.modMir q fun r => { r with mstate := .bound }).sendRel peer.toNat (mirHeader (msgTag msg) kAccept 0 0 back 0 0 0)
    else c.sendRel peer.toNat (mirHeader (msgTag msg) kRefuse 0 0 back 0 why 0)

/-- BIND (R403). -/
def execBind (peer : BitVec 13) (msg : List Byte) (s : State) : Host.Outcome State Fault Refusal :=
  .next { s with unit := s.unit.relArrives fun c => c.onBind peer msg }

/-- Is a message an answer of this kind to the pending primary it names? -/
def Chip.answers (c : Chip) (peer : BitVec 13) (msg : List Byte) (kind : Nat) : Bool :=
  let r := c.mr (msgReq msg)
  msgKind msg == kind && decide (r.mstate = .pending) && !r.shadow && decide (r.peer = peer ∧ r.tag = msgTag msg)

/-- May the unit change a request entry now: in the command window of the step, or between its C and E (R234)? -/
def Chip.tablesOpen (c : Chip) : Bool := c.stp.active && (decide (c.since < 2048) || c.stp.committed)

/-- ACCEPT arrives at a pending primary: BOUND, and the entry's MIRROR bit as soon as the entry may change (R234). -/
def Chip.onAccept (c : Chip) (peer : BitVec 13) (msg : List Byte) : Chip :=
  if c.answers peer msg kAccept then
    let c := c.modMir (msgReq msg) fun r => { r with mstate := .bound }
    if c.tablesOpen then c.modRq (msgReq msg) fun e => { e with mirror := true } else c
  else c

/-- ACCEPT (R403). -/
def execAccept (peer : BitVec 13) (msg : List Byte) (s : State) : Host.Outcome State Fault Refusal :=
  .next { s with unit := s.unit.relArrives fun c => c.onAccept peer msg }

/-- A pending primary becomes REFUSED (R403). -/
def Chip.mirRefused (c : Chip) (q : Nat) : Chip := (c.modMir q fun r => { r with mstate := .refused }).note .mirrorRefused 27

/-- REFUSE arrives at a pending primary. -/
def Chip.onRefuse (c : Chip) (peer : BitVec 13) (msg : List Byte) : Chip :=
  if c.answers peer msg kRefuse then c.mirRefused (msgReq msg) else c

/-- REFUSE (R403). -/
def execRefuse (peer : BitVec 13) (msg : List Byte) (s : State) : Host.Outcome State Fault Refusal :=
  .next { s with unit := s.unit.relArrives fun c => c.onRefuse peer msg }

/-- BIND_NO_ANSWER (R403): 16 ticks have sent BIND without an answer. -/
def execBindNoAnswer (req : ReqId) (s : State) : Host.Outcome State Fault Refusal :=
  let r := s.unit.mr req.toNat
  .next { s with unit :=
    if r.mstate = .pending ∧ !r.shadow ∧ 16 ≤ r.asked then s.unit.mirRefused req.toNat else s.unit }

/-! ### Records and heartbeats (R405, R406) -/

/-- An ADOPT of a shadow of a peer that has been applied in this cycle ends with PRIMARY_ALIVE, unless FORCE is 1 (R57, R407, R422). -/
def Chip.aliveNow (peer : BitVec 13) (c : Chip) (m : Nat) : Chip :=
  let b := c.mb m
  match b.routine with
  | none => c
  | some r =>
    if r.code = 0x0106 ∧ r.began = c.clk.ucyc ∧ b.pay 12 1 = 0 ∧ (c.mr r.target).shadow ∧ (c.mr r.target).peer = peer then c.finish m 0x0072
    else c

/-- Something of a peer has arrived in the step: LASTSEEN of every shadow entry of that peer takes the step's tick count (R401, R406). An
arrival in the cycle of ADOPT's application counts for it (R57). -/
def Chip.heard (c : Chip) (peer : BitVec 13) : Chip :=
  let c := (List.range 16).foldl (Chip.aliveNow peer) c
  { c with mir := c.mir.map fun e =>
      (e.1, if e.2.shadow ∧ e.2.peer = peer then { e.2 with lastSeen := c.stp.num.setWidth 32, seen := true } else e.2) }

/-- RECORD arrives at a bound shadow: stored in the mirror receive buffer of 4,096 records and acknowledged; without the credit for it the
record does not leave its sender (R401, R468). -/
def Chip.onRecord (c : Chip) (peer : BitVec 13) (msg : List Byte) : Chip :=
  let q := msgReq msg
  let r := c.mr q
  if msgKind msg ≠ kRecord ∨ 9 < msgNtok msg ∨ r.mstate ≠ .bound ∨ !r.shadow ∨ r.peer ≠ peer ∨ r.tag ≠ msgTag msg
      ∨ 4096 ≤ c.mirRx.length then c
  else
    let f := leAt msg 2 2
    let x : MirRec :=
      { req := BitVec.ofNat 12 q, pos := BitVec.ofNat 32 (msgWord1 msg), cfgcrc := BitVec.ofNat 32 (msgWord2 msg)
        toks := (List.range (msgNtok msg)).map fun i => BitVec.ofNat 24 (leAt msg (16 + 3 * i) 3)
        endc := if f.testBit 15 then some (msg.getD 12 0) else none, ovf := f.testBit 14 }
    ({ c.heard peer with mirRx := c.mirRx ++ [x] }).overChannel 1 peer.toNat (.mirror peer.toNat) []

/-- RECORD (R405). -/
def execRecord (peer : BitVec 13) (msg : List Byte) (s : State) : Host.Outcome State Fault Refusal :=
  .next { s with unit := s.unit.relArrives fun c => c.onRecord peer msg }

/-- A shadow applies one stored record (R405). -/
def Chip.applyRecord (c : Chip) (x : MirRec) : Chip :=
  let q := x.req.toNat
  let e := c.rq q
  if (c.mr q).mstate ≠ .bound ∨ !(c.mr q).shadow ∨ !e.live ∨ e.state = .draining then c
  else if x.cfgcrc ≠ c.cfgCrc q ∨ x.pos ≠ e.position ∨ x.ovf ∨ e.countOvf then c.mirStale q
  else
    let step (a : Chip × Word) (t : BitVec 24) : Chip × Word :=
      ((a.1.countToken q t.toNat).walkToken q a.2 t.toNat |>.2, a.2 + 1)
    let r := x.toks.foldl step (c, e.position)
    let c := r.1.modRq q fun e => { e with position := r.2 }
    let c := c.modMir q fun m => { m with lastPos := r.2 - 1 }
    let c := if (c.rq q).countOvf then c.mirStale q else c
    match x.endc with
    | none => c
    | some why => (c.releaseAll q).modRq q fun e => { e with state := .draining, endcause := why }

/-- Insert a record among those in ascending request ID, later arrivals last. -/
def insRec (x : MirRec) : List MirRec → List MirRec
  | [] => [x]
  | y :: r => if x.req.toNat < y.req.toNat then x :: y :: r else y :: insRec x r

/-- Every stored record of the picked requests is applied, in ascending request ID (R405, R407). -/
def Chip.applyRecords (c : Chip) (pick : Nat → Bool) : Chip :=
  let mine := c.mirRx.filter fun x => pick x.req.toNat
  (mine.foldl (fun l x => insRec x l) []).foldl Chip.applyRecord { c with mirRx := c.mirRx.filter fun x => !pick x.req.toNat }

/-- A heartbeat of a peer arrives: LASTSEEN of every shadow entry of that peer. -/
def Chip.onHeartbeat (c : Chip) (peer : BitVec 13) (msg : List Byte) : Chip :=
  if msgKind msg ≠ kHeartbeat then c else c.heard peer

/-- HEARTBEAT (R406). -/
def execHeartbeat (peer : BitVec 13) (msg : List Byte) (s : State) : Host.Outcome State Fault Refusal :=
  .next { s with unit := s.unit.relArrives fun c => c.onHeartbeat peer msg }

/-! ### Lock-step (R408 to R410) -/

/-- LOCKSTEP (R408, R418). -/
def Chip.lockstepCmd (c : Chip) (m : Mbx) (b : Mailbox) : Chip :=
  let op := b.pay 0 1
  let ps := BitVec.ofNat 32 (b.pay 8 4)
  let at_ := b.pay 12 1
  if b.target ≠ 0 then c.finish m 0x0015
  else if fld (b.pay 1 1) 7 2 ≠ 0 ∨ b.pay 3 1 ≠ 0 ∨ fld (b.pay 4 2) 15 13 ≠ 0 ∨ b.pay 6 2 ≠ 0 ∨ 16 ≤ at_ ∨ b.pay 13 3 ≠ 0 then
    c.finish m 0x0012
  else if 2 < op then c.finish m 0x0020
  else if op = 0 then
    if c.lock.bound ∨ (c.lock.next.getD none).isSome then c.finish m 0x0075
    else
      let n := ((b.pay 1 1).testBit 0, (b.pay 1 1).testBit 1, BitVec.ofNat 8 (b.pay 2 1), BitVec.ofNat 13 (b.pay 4 2))
      ({ c with lock := { c.lock with next := some (some n) } }).finish m 0x0000
  else if op = 1 then ({ c with lock := { c.lock with next := some none } }).finish m 0x0000
  else if !c.lock.bound ∨ 1024 < (c.lock.pairStep - ps).toNat then c.finish m 0x0076
  else c.finish m 0x0000 (rdBytes c.lagoon (lagKey at_ (0x7E0000 + 128 * (ps.toNat % 1024))) 128)

/-- LOCKSTEP (R408). -/
def execLockstep (m : Mbx) (s : State) : Host.Outcome State Fault Refusal :=
  .next { s with unit := s.unit.applyCmd m 0x0603 fun c b => c.lockstepCmd m b }

/-- A binding or unbinding takes effect at a tick; the pair step count starts at 0 (R408). -/
def Chip.lockTick (c : Chip) : Chip :=
  match c.lock.next with
  | none => c
  | some none => { c with lock := { (default : LockSt) with diverged := c.lock.diverged } }
  | some (some (follower, contain, tag, peer)) =>
    { c with lock := { (default : LockSt) with bound := true, follower := follower, contain := contain, tag := tag, peer := peer } }

/-- The pair has diverged (R410). -/
def Chip.diverge (c : Chip) : Chip :=
  let ps : Word := match c.lock.own with
    | some (p, _) => p
    | none => c.lock.pairStep
  let c := if c.lock.diverged then c else c.setReg 0x19C ps
  let c := { c with lock := { c.lock with diverged := true, own := none, theirs := none } }
  let c := c.note .lockstepDiverge 27
  if c.lock.contain then c.failStop 4 else c

/-- The step's mirror records are sent, in this cycle (R404). -/
def Chip.flushMirror (c : Chip) : Chip :=
  if c.stp.mirrorDue = [] then c
  else c.stp.mirrorDue.foldl (fun c x => c.sendRel x.1 x.2) { c with stp := { c.stp with mirrorDue := [], sentAt := c.since } }

/-- Compare the two signatures once both are there for one pair step; a drain that waited goes on. -/
def Chip.lockCompare (c : Chip) : Chip :=
  match c.lock.own, c.lock.theirs with
  | some (p, x), some (q, y) =>
    if p ≠ q then c
    else if x = y then ({ c with lock := { c.lock with own := none, theirs := none, waiting := false } }).flushMirror
    else c.diverge
  | _, _ => c

/-- A signature of the partner arrives, `late` cycles after its planned cycle: a drain that waits for it has stalled so long (R410). -/
def Chip.onSignature (c : Chip) (peer : BitVec 13) (msg : List Byte) (late : Nat) : Chip :=
  let l := c.lock
  if msgKind msg = kSignature ∧ l.bound ∧ l.peer = peer ∧ l.tag = msgTag msg then
    let c := if l.own.isSome then c.roundTrip (c.clk.ucyc - l.signedAt) else c
    let c := if l.waiting then c.emitStall late else c
    ({ c with lock := { l with theirs := some (BitVec.ofNat 32 (msgWord1 msg), BitVec.ofNat 64 (leAt msg 16 8)) } }).lockCompare
  else c

/-- SIGNATURE (R410). -/
def execSignature (peer : BitVec 13) (arrival : SigArrival) (s : State) : Host.Outcome State Fault Refusal :=
  .next { s with unit := s.unit.relArrives fun c => c.onSignature peer arrival.msg arrival.late }

/-- SIGNATURE_TIMEOUT (R410): the partner's signature for the step just signed is still absent more than 52,500 UCLK after the own one was
sent, which is its planned cycle at the earliest; one that comes in that very cycle has come in time (R57) (log entry 59). -/
def execSignatureTimeout (s : State) : Host.Outcome State Fault Refusal :=
  .next { s with unit :=
    if s.unit.lock.bound ∧ s.unit.lock.own.isSome ∧ s.unit.lock.signedAt + 52500 < s.unit.clk.ucyc then s.unit.diverge else s.unit }

/-- The unit's own step signature: sent, kept, compared (R409, R410). A leader in contain mode waits. Where the partner's has come first, the
exchange is over at once (R469) (log entry 106). -/
def Chip.signStep (c : Chip) (sig : DWord) : Chip :=
  if !c.lock.bound then c
  else
    let l := c.lock
    let c := c.sendRel l.peer.toNat
      (mirHeader l.tag kSignature 0 0 0 l.pairStep.toNat 0 0 ++ toLE 8 sig.toNat ++ List.replicate 8 0#8)
    let c := if l.theirs.isSome then c.roundTrip 0 else c
    ({ c with lock := { l with own := some (l.pairStep, sig), waiting := l.contain && !l.follower
                               pairStep := l.pairStep + 1, signedAt := c.clk.ucyc } }).lockCompare

end Sys2Proof.Machine
end

