-- ==== Sys2Proof/Machine/Pmc.lean ====
section
/-!
DEFINITION. Captures, publication, and the counter commands (R425 to R434, R440).
-/
namespace Sys2Proof.Machine

/-- The entry of a counter in a capture (R436). -/
def PmcCtr.entry (t : PmcCtr) (reconf : Bool) : DWord :=
  BitVec.ofNat 64 (pack [(b2n reconf, 63), (b2n t.ovf, 62), (b2n t.chain, 61), (t.event.toNat, 48), (t.val.toNat, 0)])

/-- Every counter and bin copied in one cycle (R428). A tick capture is the snapshot boundary, so an entry about to be
reprogrammed carries RECONF (R425), as does one whose reprogramming no published snapshot has shown (R452). -/
def Chip.captureNow (c : Chip) (boundary : Bool) : Capture :=
  { ent := c.pmc.ctr.foldl (fun m p => tset m p.1 (p.2.entry (boundary && (p.2.pend.isSome || p.2.reconf)))) []
    bins := c.pmc.hist.foldl (fun m p => p.2.bins.foldl (fun m b => tset m (32 * p.1 + b.1) b.2) m) []
    sats := c.pmc.hist.foldl (fun w p => if p.2.sat then w ||| (1#8 <<< p.1) else w) 0#8
    tick := c.tick.cnt }

/-- A counter at a snapshot boundary: a pending selection clears it and takes effect (R425, R427). RECONF waits while HOLD keeps the capture
from being published (R452). -/
def PmcCtr.boundary (held : Bool) (t : PmcCtr) : PmcCtr :=
  let re := held && (t.pend.isSome || t.reconf)
  match t.pend with
  | some (e, ch, irq) => { t with val := 0, event := e, chain := ch, ovfIrq := irq, pend := none, ovf := false, reconf := re }
  | none => { t with ovf := false, reconf := re }

/-- An engine at a snapshot boundary: a pending measure or clear takes effect (R432, R434). -/
def HistEng.boundary (h : HistEng) : HistEng :=
  if h.pend.isSome ∨ h.clear then
    { h with measure := h.pend.getD h.measure, pend := none, clear := false, bins := [], sat := false }
  else h

/-- The tick capture (R428, R429, R430). -/
def Chip.tickCapture (c : Chip) : Chip :=
  let cap := c.captureNow true
  { c with pmc := { c.pmc with
    tickLatch := cap, tickPending := !c.pmc.hold, tickAt := c.clk.ucyc
    ctr := c.pmc.ctr.map fun p => (p.1, p.2.boundary c.pmc.hold)
    hist := c.pmc.hist.map fun p => (p.1, p.2.boundary) } }

/-- The freeze capture, at the end of the cycle in which PMC_FREEZE is applied (R428, R429): its copy begins after it and after the tick
collection still pending, that of this cycle too. -/
def Chip.freezeCapture (c : Chip) : Chip :=
  let cap := c.captureNow false
  let busyTo := if c.tick.capDue ∧ !c.pmc.hold then c.clk.ucyc + 2527 else if c.pmc.tickPending then c.pmc.tickAt + 2527 else 0
  { c with pmc := { c.pmc with frzDue := false, frzPending := true, frzLatch := cap, frzAt := max c.clk.ucyc busyTo } }

/-- The inactive bank takes a capture and the banks swap (R429, R431). -/
def PmcSt.publish (p : PmcSt) (cap : Capture) (freeze : Bool) : PmcSt :=
  { p with
    bank0 := if p.actBank then cap else p.bank0
    bank1 := if p.actBank then p.bank1 else cap
    actBank := !p.actBank, seq := p.seq + 1, cause := freeze, hold := p.hold || freeze }

/-- The tick capture that waits is not published: what it shows of RECONF waits for the next one (R430, R452). -/
def PmcSt.dropTick (p : PmcSt) : PmcSt :=
  { p with tickPending := false, ctr := p.ctr.map fun e => (e.1, { e.2 with reconf := e.2.reconf || (tget p.tickLatch.ent e.1).getLsbD 63 }) }

/-- SNAPSHOT_PUBLISH (R429, R430): a tick capture is read from T+2,528, a freeze capture from the cycle after the 480 that follow it or
the end of a tick collection still pending; while HOLD is 1 a tick capture is not published. -/
def Chip.publishNow (c : Chip) : Chip :=
  let p := c.pmc
  if p.tickPending ∧ c.clk.ucyc = p.tickAt + 2528 then
    if p.hold then { c with pmc := p.dropTick }
    else { c with pmc := { p.publish p.tickLatch false with tickPending := false } }
  else if p.frzPending ∧ c.clk.ucyc = p.frzAt + 481 then { c with pmc := { p.publish p.frzLatch true with frzPending := false } }
  else c

/-- SNAPSHOT_PUBLISH (R429). -/
def execSnapshotPublish (s : State) : Host.Outcome State Fault Refusal := .next { s with unit := s.unit.publishNow }

/-- PMC_OVERFLOW (R427): counts of the counter's event that the model does not see, which may wrap it. -/
def execPmcOverflow (counter : Fin 208) (by_ : Nat) (s : State) : Host.Outcome State Fault Refusal :=
  .next { s with unit :=
    if (tget s.unit.pmc.ctr counter.val).event = 0#10 ∨ s.unit.pmcUpper counter.val then s.unit
    else
      let p := s.unit.pmcAdd counter.val by_
      Chip.logAll 512 p.1 p.2 }

/-- HIST_SAT (R434): samples of the engine's measure that the model does not see, which may saturate a bin. -/
def execHistSat (engine : Fin 8) (bin : Fin 32) (by_ : Nat) (s : State) : Host.Outcome State Fault Refusal :=
  .next { s with unit :=
    if (tget s.unit.pmc.hist engine.val).measure = 0#3 then s.unit else s.unit.histAdd engine.val bin.val by_ }

/-- Is an event code defined for a counter's group (R424)? Code 0 stops the counter. -/
def eventDefined (counter code : Nat) : Bool :=
  if code = 0 then true
  else if counter < 32 then
    (1 ≤ code && code ≤ 7) || (0x10 ≤ code && code ≤ 0x16) || (0x20 ≤ code && code ≤ 0x26) || (0x30 ≤ code && code ≤ 0x34)
      || (0x40 ≤ code && code ≤ 0x42) || code == 0x50 || code == 0x51
  else if counter < 168 then
    (0x100 ≤ code && code ≤ 0x105) || (0x110 ≤ code && code ≤ 0x112) || code == 0x120 || code == 0x121
      || (0x130 ≤ code && code ≤ 0x133)
  else if counter < 204 then 0x200 ≤ code && code ≤ 0x206
  else 0x300 ≤ code && code ≤ 0x305

/-- PMC_SELECT (R425, R426, R440). -/
def execPmcSelect (m : Mbx) (s : State) : Host.Outcome State Fault Refusal :=
  .next { s with unit := s.unit.applyCmd m 0x0700 fun c b =>
    let v := b.pay 0 4
    let n := b.target
    if 208 ≤ n then c.finish m 0x0015
    else if 0x1000 ≤ v then c.finish m 0x0012
    else if !eventDefined n (fld v 9 0) then c.finish m 0x0080
    else if v.testBit 10 ∧ n % 2 = 1 then c.finish m 0x0081
    else
      let t := tget c.pmc.ctr n
      let t := { t with pend := some (BitVec.ofNat 10 v, v.testBit 10, v.testBit 11) }
      ({ c with pmc := { c.pmc with ctr := tset c.pmc.ctr n t } }).finish m 0x0000 }

/-- PMC_FREEZE (R429, R430). -/
def execPmcFreeze (m : Mbx) (s : State) : Host.Outcome State Fault Refusal :=
  .next { s with unit := s.unit.applyCmd m 0x0701 fun c b =>
    if b.target ≠ 0 then c.finish m 0x0015
    else ({ c with pmc := { c.pmc with frzDue := true } }).finish m 0x0000 }

/-- PMC_THAW (R430). -/
def execPmcThaw (m : Mbx) (s : State) : Host.Outcome State Fault Refusal :=
  .next { s with unit := s.unit.applyCmd m 0x0702 fun c b =>
    if b.target ≠ 0 then c.finish m 0x0015
    else ({ c with pmc := { c.pmc with hold := false } }).finish m 0x0000 }

/-- HIST_SELECT (R432, R440). -/
def execHistSelect (m : Mbx) (s : State) : Host.Outcome State Fault Refusal :=
  .next { s with unit := s.unit.applyCmd m 0x0703 fun c b =>
    let v := b.pay 0 4
    if 8 ≤ b.target then c.finish m 0x0015
    else if 8 ≤ v then c.finish m 0x0012
    else if 6 ≤ v then c.finish m 0x0020
    else
      let h := tget c.pmc.hist b.target
      ({ c with pmc := { c.pmc with hist := tset c.pmc.hist b.target { h with pend := some (BitVec.ofNat 3 v) } } }).finish m 0x0000 }

/-- HIST_CLEAR (R434, R440). -/
def execHistClear (m : Mbx) (s : State) : Host.Outcome State Fault Refusal :=
  .next { s with unit := s.unit.applyCmd m 0x0704 fun c b =>
    if 8 ≤ b.target ∧ b.target ≠ 0xFF then c.finish m 0x0015
    else
      let es := if b.target = 0xFF then List.range 8 else [b.target]
      let hist := es.foldl (fun t e => tmod t e fun h => { h with clear := true }) c.pmc.hist
      ({ c with pmc := { c.pmc with hist := hist } }).finish m 0x0000 }

end Sys2Proof.Machine
end

