-- ==== Sys2Proof/Machine/Tick.lean ====
section
/-!
DEFINITION. The tick receiver, the holdover generator, and what a tick does at its T+0 (R40 to R49, R58, R60, R62, R63, R446).
-/
namespace Sys2Proof.Machine

/-! ### What a tick does -/

/-- Pending register writes take effect; after a change of the limits every stored block is clamped again (R62, R163,
R207, R275, R332, R343). -/
def Chip.applyNext (c : Chip) : Chip :=
  let limits := c.regNext.any fun e => decide (0x140 ≤ e.1 ∧ e.1 ≤ 0x158)
  let c := c.regNext.foldl (fun c e => match e.2 with
    | some w => c.setReg e.1 w
    | none => c) { c with regNext := [] }
  if limits then c.reclampAll else c

/-- The interval's entries for refused accesses; a new interval begins (R438, R456). -/
def Chip.logInterval (c : Chip) : Chip :=
  let one (x : Option (Nat × Nat)) (e : Ev) (c : Chip) : Chip := match x with
    | some (off, n) => c.note e 0 off n
    | none => c
  let b := c.bus
  let c := one b.addrWidth .addrWidth (one b.addrPriv .addrPriv (one b.addrRsvd .addrReserved c))
  { c with bus := { c.bus with addrRsvd := none, addrPriv := none, addrWidth := none, pmcDenied := false } }

/-- While WAIT stands at its ceiling, LASTTICK follows the tick count (R245). -/
def Chip.capWait (c : Chip) : Chip :=
  let now : Word := c.tick.cnt.setWidth 32
  { c with req := c.req.map fun p =>
      (p.1, if p.2.live ∧ 0xFFFF < (now - p.2.lasttick).toNat then { p.2 with lasttick := now - 0xFFFF#32 } else p.2) }

/-- PLAN_PERIOD_MISMATCH where the tick registers differ from the plan in force (R60). -/
def Chip.checkPeriod (c : Chip) : Chip :=
  match c.plan.cur with
  | none => c
  | some p =>
    let a := decide (c.periodUs ≠ p.period)
    let b := decide (c.rfld 0x020 23 16 ≠ p.bgslot)
    if a ∧ b then c.note .planPeriodMismatch 0 2
    else if a then c.note .planPeriodMismatch 0 0
    else if b then c.note .planPeriodMismatch 0 1 else c

/-- An accepted first half of the debug key grows older by a tick (R445). -/
def Chip.ageHalf (c : Chip) : Chip :=
  { c with dbg := { c.dbg with half := c.dbg.half.map fun h => (h.1, h.2.1, h.2.2 + 1) } }

/-- What is logged once a step may be logged again. -/
def PmcCtr.newStep (e : Nat × PmcCtr) : Nat × PmcCtr := (e.1, { e.2 with logged := false })
/-- No stream of an atoll runs as a step starts; the accumulator sets keep what they hold. -/
def AtollSt.newStep (e : Nat × AtollSt) : Nat × AtollSt := (e.1, { (default : AtollSt) with
  activeSet := e.2.activeSet, weights0 := e.2.weights0, weights1 := e.2.weights1, weightSel := e.2.weightSel, hist := e.2.hist })

/-- The wave signatures of a pair step start at 0 (R409). -/
def Chip.clearSigs (c : Chip) : Chip :=
  let mine (i : Nat) : Bool := i % 0x800000 / 128 = 0xFC00 + c.lock.pairStep.toNat % 1024
  if c.lock.bound then { c with lagoon := c.lagoon.filter fun e => !mine e.1 } else c

/-- What waits for the tick that starts a step takes effect (R7, R62, R229, R327, R403, R408): pending register writes, lock-step
bindings, unbindings of mirrors, a step of DRAFTN. A step in progress sees none of it (R58). -/
def Chip.tickEffects (c : Chip) : Chip := ((((c.applyNext).lockTick).mirUnbind).partStep).checkPeriod

/-- The entries with the MIRROR bits of the primaries that have become BOUND (R234, R403). -/
def Chip.boundReqs (c : Chip) : SMap ReqEntry :=
  c.req.map fun e => (e.1, if (c.mr e.1).mstate = .bound ∧ !(c.mr e.1).shadow ∧ e.2.live then { e.2 with mirror := true } else e.2)

/-- A step starts at this tick's T+0 (R44, R50): UNIT_STSTAT.K follows the period (R392, R421), the commands rung so far are due, MIRROR bits that wait are set, heartbeats go out. -/
def Chip.startStep (c : Chip) (holdover : Bool) : Chip :=
  let c := c.tickEffects
  let c := { c with
    stp := { (default : StepSt) with
      active := true, num := c.tick.cnt, t0 := c.clk.ucyc, bg := c.rfld 0x020 23 16 * 1024, holdover := holdover
      dutyDue := true, before := (c.stp.num :: c.stp.before).take 2 }
    req := c.boundReqs
    pmc := { c.pmc with ctr := c.pmc.ctr.map PmcCtr.newStep }
    log := { c.log with once := [] }
    atoll := c.atoll.map AtollSt.newStep
    merge := default }
  let c := c.setReg 0x17C (BitVec.ofNat 32 (cdiv c.periodUs 2000 * 2 ^ 24 + c.rfld 0x17C 16 8 * 256 + c.rfld 0x17C 3 0))
  ((c.markDue.clearSigs).sendHeartbeats).event 0x002

/-- A tick that would start a step while a freeze is pending: the step is held before its command window (R446). -/
def Chip.freezeStep (c : Chip) (holdover : Bool) : Chip :=
  let c := c.startStep holdover
  let c := { c with dbg := { c.dbg with frozen := true, freezePending := false, halted := true, haltAt := c.clk.ucyc } }
  c.note .debugFreeze

/-- A tick of a frozen unit: counted, neither missed nor the start of a step, unless DEBUG_STEP has asked for the next
step (R446, R447). -/
def Chip.frozenTick (c : Chip) (holdover : Bool) : Chip :=
  let c := { c with dbg := { c.dbg with frzTicks := sat32 c.dbg.frzTicks 1 } }
  if c.dbg.stepping ∧ !c.dbg.reached ∧ !c.stp.active ∧ c.ready ∧ c.run then c.startStep holdover else c.checkPeriod

/-- A missed tick (R58). -/
def Chip.missTick (c : Chip) : Chip :=
  let c := ((c.count 0x038 1).orReg 0x024 1#32).note .tickMissed 0 (c.stp.num.toNat % 2 ^ 32) c.since
  (c.irq 15).event 0x003

/-- Does the tick start a step, or not? One that finds a step in progress is judged at the end of the cycle, which may yet be that of
the step's E (R57, R58). -/
def Chip.tickStep (c : Chip) (holdover : Bool) : Chip :=
  if c.dbg.frozen then c.frozenTick holdover
  else if c.stp.active then { c with tick := { c.tick with missDue := some holdover } }
  else if c.ready ∧ c.run ∧ !c.stopped then
    (if c.dbg.freezePending then c.freezeStep holdover else c.startStep holdover)
  else c.checkPeriod

/-- A tick that finds no step in progress: the loader moves its share, halving may end, and a step starts (R331, R475). -/
def Chip.freeTick (c : Chip) (holdover : Bool) : Chip := ((c.loaderRun).endHalving).tickStep holdover

/-- A tick that found a step in progress: missed where the step goes on and RUN is 1 (R44, R58). -/
def Chip.judgeTick (c : Chip) : Chip :=
  match c.tick.missDue with
  | none => c
  | some _ =>
    let c := ({ c with tick := { c.tick with missDue := none } }).checkPeriod
    if c.stp.active ∧ c.run then c.missTick else c

/-- A tick is counted, from the pin or from holdover. SOURCE then names it, also before RUN has ever been set (R63) (log entry 67). -/
def Chip.countTick (c : Chip) (holdover : Bool) : Chip :=
  let c := { c with tick := { c.tick with cnt := c.tick.cnt + 1, ts := BitVec.ofNat 64 c.timeNs, lastAt := c.clk.now, capDue := true } }
  (c.clrReg 0x024 0xC00#32).orReg 0x024 (if holdover then 0x800#32 else 0x400#32)

/-- What a counted tick does: the interval's entries, BINDs, and the step it starts. -/
def Chip.doTick (c : Chip) (holdover : Bool) : Chip :=
  let c := { c with stp := { c.stp with afterE := false } }
  let c := (c.logInterval).capWait
  let c := (if c.run then c.sendBinds else c).ageHalf
  if c.stp.active then c.tickStep holdover else c.freeTick holdover

/-! ### The receiver (R40 to R43) -/

/-- Is the pulse that ends now a tick: 17 to 67 UCLK wide, with 52,500 UCLK of quiet before it? -/
def Chip.validPulse (c : Chip) (width : Nat) : Bool :=
  let trail := c.clk.now - 4
  decide (17 ≤ width ∧ width ≤ 67 ∧ 52500 ≤ trail - width - c.tick.lastChange ∧ width + c.tick.lastChange ≤ trail)

/-- A tick of either polarity is received: INVERTED follows its level, and holdover ends. A holdover tick of the same cycle is none (R57). -/
def Chip.tickIn (c : Chip) (low : Bool) : Chip :=
  let c := if c.rbit 0x024 9 = low then c
    else ((c.clrReg 0x024 0x200#32).orReg 0x024 (if low then 0x200#32 else 0#32)).note .tickInverted 0 (b2n low)
  let was := c.tick.inHold
  let c := { c with tick := { c.tick with holdBase := c.clk.now, inHold := false, holdDue := false } }
  let c := c.countTick false
  let c := if was then c.note .tickRealigned 0 (c.tick.cnt.toNat % 2 ^ 32) else c
  c.doTick false

/-- A pulse: its level's trailing edge is first sampled 4 UCLK ago. Its width and the quiet time before it classify it. -/
def Chip.pulse (c : Chip) (width : Nat) (low : Bool) : Chip :=
  let valid := c.validPulse width
  let c := { c with tick := { c.tick with lastChange := c.clk.now - 4 } }
  if width < 17 then c.orReg 0x024 0x20#32 else if valid then c.tickIn low else c

/-- Does the receiver sample: is UCLK released, and was it when the pulse ended (R40, R64)? -/
def Chip.samples (c : Chip) : Bool := !c.clk.held && decide (c.clk.uclk0 + 4 ≤ c.clk.now)

/-- STEP_TICK (R40). -/
def execStepTick (width : Nat) (low : Bool) (s : State) : Host.Outcome State Fault Refusal :=
  .next { s with unit := if s.unit.samples then s.unit.pulse width low else s.unit }

/-- INVALID_PULSE (R42, R43): a pulse that is no tick. A valid pulse is none, and this event then does not happen. -/
def execInvalidPulse (width : Nat) (low : Bool) (s : State) : Host.Outcome State Fault Refusal :=
  .next { s with unit := if !s.unit.samples ∨ s.unit.validPulse width then s.unit else s.unit.pulse width low }

/-! ### Holdover (R46 to R48) -/

/-- The cycle of the next holdover tick: 1.5 periods after the last tick, then every period. -/
def Chip.holdInstant (c : Chip) : Nat :=
  c.tick.holdBase + (if c.tick.inHold then 1050 * c.periodUs else 1575 * c.periodUs)

/-- Entry into holdover (R47). -/
def Chip.enterHoldover (c : Chip) : Chip :=
  if c.tick.inHold then c
  else
    let c := (c.orReg 0x024 2#32).note .tickLost 0 (c.tick.cnt.toNat % 2 ^ 32)
    c.irq 15

/-- A holdover tick, at the end of the cycle of its instant (R46, R57). -/
def Chip.holdoverTick (c : Chip) : Chip :=
  if !c.tick.holdDue then c
  else
    let c := { c with tick := { c.tick with holdDue := false } }
    let c := (((c.countTick true).enterHoldover).count 0x03C 1).event 0x004
    let c := { c with tick := { c.tick with holdBase := c.clk.now, inHold := true } }
    c.doTick true

/-- HOLDOVER_TICK (R46): at the instant and while RUN is 1, a holdover tick is due; a valid pulse later in this cycle takes its place. -/
def execHoldoverTick (s : State) : Host.Outcome State Fault Refusal :=
  .next { s with unit :=
    if s.unit.clk.held ∨ !s.unit.run ∨ s.unit.clk.now ≠ s.unit.holdInstant then s.unit
    else { s.unit with tick := { s.unit.tick with holdDue := true } } }

/-! ### The end of a UCLK cycle -/

/-- What an arrival in the same UCLK cycle could still have changed is settled: a tick that found a step in progress, the captures, which
take each value after the cycle's increments (R57, R425, R428). -/
def Chip.endCycle (c : Chip) : Chip :=
  let c := c.judgeTick
  let c := if c.pmc.frzDue then c.freezeCapture else c
  let c := if c.tick.capDue then ({ c with tick := { c.tick with capDue := false } }).tickCapture else c
  { c with cyc := default }

end Sys2Proof.Machine
end

