-- ==== Sys2Proof/Machine/Planner.lean ====
section
/-!
DEFINITION. The end of the command window and the planner (R129, R181, R207, R211 to R217, R242 to R247, R252, R260, R263,
R316, R380).
-/
namespace Sys2Proof.Machine

/-! ### Expiry (R260) -/

/-- A parked request whose TTL is 0 once the window's commands have been applied expires at the commit point. -/
def Chip.expire (c : Chip) (q : Nat) : Chip :=
  let c := c.duties
  if (c.rq q).state = .parked ∧ (c.rq q).ttl = 0#32 then c.modAx q fun a => { a with expiryDue := true } else c

/-- Every parked request whose TTL is 0 as the window ends expires. -/
def Chip.expireAll (c : Chip) : Chip := c.liveIds.foldl Chip.expire c

/-- EXPIRY (R260). -/
def execExpiry (req : ReqId) (s : State) : Host.Outcome State Fault Refusal :=
  .next { s with unit := if s.unit.runs ∧ !s.unit.stp.planned ∧ 1024 ≤ s.unit.since then s.unit.expire req.toNat else s.unit }

/-! ### Tests of a request -/

/-- WAIT (R245). -/
def Chip.waitOf (c : Chip) (e : ReqEntry) : Nat := min ((c.tick.cnt.setWidth 32 - e.lasttick : Word)).toNat 0xFFFF

/-- Overdue (R245). -/
def Chip.overdue (c : Chip) (e : ReqEntry) : Bool := decide (0 < e.deadline.toNat ∧ e.deadline.toNat ≤ c.waitOf e)

/-- Records in a ring that the host has not consumed (R263). -/
def Chip.ringUsed (c : Chip) (d : Nat) : Nat := ((tget c.ring d).prod - tget c.cons d : Word).toNat

/-- The room of a ring (R263). -/
def Chip.ringRoom (c : Chip) (d : Nat) : Nat :=
  let n := 2 ^ (tget c.ring d).log2size.toNat
  n - 1 - c.ringUsed d

/-- The ring-room test of a request, with the report of a consumer index out of range (R263). -/
def Chip.testRing (c : Chip) (q need : Nat) : Bool × Chip :=
  let d := (c.rq q).ring.toNat
  let bad := decide (2 ^ (tget c.ring d).log2size.toNat < c.ringUsed d)
  let c := if bad then
      let c := if (c.ax q).badCons then c else c.note .ringBadcons 0 d (tget c.cons d).toNat (tget c.ring d).prod.toNat
      (c.orReg 0x0C0 8#32).modAx q fun a => { a with badCons := true }
    else c.modAx q fun a => { a with badCons := false }
  (!bad && decide (need ≤ c.ringRoom d), c)

/-- The budget test (R244, R250). -/
def Chip.testBudget (c : Chip) (tenant reserved : Nat) : Bool :=
  let t := tget c.tnt tenant
  t.state = 1#2 && !t.unreadable && decide (1 ≤ t.balance.toInt ∧ 1 ≤ t.balance.toInt + t.overdraft.toNat - reserved)

/-- The check of a request's bindings against its tenant and the plan: the events of those that fail (R127, R129, R252). -/
def Chip.bindingFaults (c : Chip) (q : Nat) : List Ev :=
  let e := c.rq q
  let a := c.ax q
  let d := tget c.adpDir e.adapter.toNat
  let h0 : Option Nat := match c.plan.cur with
    | some p => if p.tsrc = 0 then some p.h0 else none
    | none => none
  let badSet : Bool := match tget c.delta e.delta.toNat with
    | some s => !tagOk s.tag e.tenant || s.revoked
    | none => true
  let badTrie : Bool := match tget c.trie e.trie.toNat with
    | some t => !tagOk t.tag e.tenant
    | none => true
  let badMask (b : Option Nat) : Bool := match b with
    | some id => let s := tget c.statics id
                 !s.resident || !tagOk s.tag e.tenant
    | none => false
  (if e.adapterV ∧ (!d.valid ∨ !tagOk d.tag e.tenant ∨ (h0.getD d.h.toNat) ≠ d.h.toNat) then [.adapterMismatch] else [])
  ++ if (e.deltaV && badSet) || (e.trieV && badTrie) || badMask a.bound0 || badMask a.bound1 then [.bindRevoked] else []

/-- Does the merge-group row of the request not match the plan and the register (R207)? Without a plan in force it does not (log entry 32). -/
def Chip.mergeMismatch (c : Chip) : Bool :=
  match c.plan.cur with
  | none => true
  | some p => !c.rbit 0x090 31 || !p.merged || decide (p.merge.toNat % 64 ≠ c.rfld 0x090 5 0 ∨ p.index ≠ c.rfld 0x090 13 8)

/-- What keeps a request from the row tests: a merge-group mismatch, its bindings. -/
def Chip.planFaults (c : Chip) (q : Nat) : List Ev :=
  (if (c.rq q).merge ∧ c.mergeMismatch then [.mergeCfg] else []) ++ c.bindingFaults q

/-- HELD ROW_FAULT before the row tests, each reason with its event and status bit; false where the request may be tested (R129, R207,
R252, R274, R387). -/
def Chip.planFault (c : Chip) (q : Nat) : Bool × Chip :=
  let es := c.planFaults q
  if es ≠ [] then
    let c := if es.contains .mergeCfg then c.orReg 0x080 0x80#32 else c
    let c := if es.contains .bindRevoked then c.orReg 0x0C0 0x40#32 else c
    (true, (es.foldl (fun c e => c.note e) c).takeHold q .rowFault)
  else if c.maskFault q then (true, (c.takeHold q .rowFault).modAx q fun a => { a with maskHeld := true }) else (false, c)

/-! ### Room in the waves (R132, R181, R212 to R218) -/

/-- A wave of the step as the planner fills it: slots in use, list entries reserved, rows with a rescore copy. -/
structure WaveUse where
  phase : Nat
  width : Nat
  draft : Bool
  used : Nat
  lr : Nat
  copies : Nat
  deriving DecidableEq, Repr, Inhabited

/-- What the rows of one kind of a request ask of their wave: how many, entries each, copies. -/
structure RowNeed where
  n : Nat
  lr : Nat
  copies : Nat
  deriving DecidableEq, Repr, Inhabited

/-- Which bounds a trial observes beside the wave's width. -/
structure Bounds where
  lists : Bool
  copies : Bool
  deriving DecidableEq, Repr, Inhabited

/-- Do the rows fit the wave? `h` is the hidden dimension of the target head. -/
def WaveUse.fits (w : WaveUse) (x : RowNeed) (b : Bounds) (h : Nat) : Bool :=
  decide (w.used + x.n ≤ w.width) && (!b.lists || decide (w.lr + x.n * x.lr ≤ 262144))
    && (!b.copies || decide (x.copies = 0 ∨ (w.copies + x.copies) * (2 * h) ≤ 4194304))

/-- The first wave of a class in a phase range with room. -/
def findWave (ws : List WaveUse) (draft : Bool) (lo hi : Nat) (x : RowNeed) (b : Bounds) (h : Nat) : Option Nat :=
  (List.range ws.length).find? fun i =>
    let w := ws.getD i default
    w.draft == draft && decide (lo ≤ w.phase ∧ w.phase ≤ hi) && w.fits x b h

/-- Places for all rows of a request: the waves of its draft rows, then the wave of its target rows. Draft rows take
consecutive phases; the target rows share one wave of a later phase. The first choice in the order of the waves is taken. -/
def placeRows (ws : List WaveUse) (g : Nat) (dr tg : RowNeed) (b : Bounds) (h : Nat) : Option (List Nat × Nat) :=
  if g = 0 then (findWave ws false 0 15 tg b h).map fun i => ([], i)
  else
    (List.range 16).findSome? fun ph =>
      let ds := (List.range g).filterMap fun i => findWave ws true (ph + i) (ph + i) dr b h
      if ds.length < g then none
      else (findWave ws false (ph + g) 15 tg b h).map fun i => (ds, i)

/-- A wave with rows added. -/
def WaveUse.take (w : WaveUse) (x : RowNeed) : WaveUse :=
  { w with used := w.used + x.n, lr := w.lr + x.n * x.lr, copies := w.copies + x.copies }

/-- A list with the element at an index changed. -/
def modAt {α : Type} (l : List α) (i : Nat) (f : α → α) : List α := l.modify i f

/-- Lr of a row (R181): greedy rows by alternates and rescore count, others by top-k or CAP. -/
def Chip.listRoom (c : Chip) (q : Nat) (draft : Bool) : Nat :=
  let p := c.pm q
  let nr := if draft then 0 else c.rescoreOf q p
  let a := if draft then 0 else p.logprobs.toNat
  let lmax := if p.temp = 0#32 then max (a + 1) nr
    else if p.topK ≠ 0#13 then p.topK.toNat else c.rfld 0x144 12 0
  256 * cdiv lmax 256

/-- The needs of a request's draft rows, one each, and of its target rows. -/
def Chip.needsOf (c : Chip) (q g : Nat) : RowNeed × RowNeed :=
  let hidden : Bool := match c.plan.cur with
    | some p => !p.scoreIn false
    | none => false
  let copy := hidden && ((c.rq q).deltaV || decide (0 < c.rescoreOf q (c.pm q)))
  ({ n := 1, lr := c.listRoom q true, copies := 0 },
   { n := g + 1, lr := c.listRoom q false, copies := if copy then g + 1 else 0 })

/-- The rows of a placed request. -/
def Chip.rowsOf (c : Chip) (q g : Nat) (ws : List WaveUse) (ds : List Nat) (t : Nat) (mute : Bool) : List Row :=
  let e := c.rq q
  let base : Row :=
    { (default : Row) with
      req := BitVec.ofNat 12 q, g := g, m := negInf, mute := mute, node := e.cursor.toNat }
  let deg (i : Nat) : Bool := i = 0 && (c.ax q).trieDeg
  let used (w : Nat) : Nat := (ws.getD w default).used
  ((List.range g).map fun i =>
    let w := ds.getD i 0
    { base with pos := e.position + BitVec.ofNat 32 i, offset := i, kind := .draft, wave := w, slot := used w, trieDeg := deg i
                lr := c.listRoom q true })
  ++ (List.range (g + 1)).map fun i =>
    { base with pos := e.position + BitVec.ofNat 32 i, offset := i, kind := if g = 0 then .plain else .target
                wave := t, slot := used t + i, trieDeg := deg i, lr := c.listRoom q false }

/-- Is a request a merge-group request that this unit does not own? -/
def Chip.nonOwner (c : Chip) (q : Nat) : Bool := (c.rq q).merge && c.rfld 0x090 13 8 ≠ 0

/-- The planner's work so far in a step. -/
structure PlanWork where
  c : Chip
  ws : List WaveUse
  rows : List Row
  left : Nat
  reserved : SMap Nat
  gst : Nat
  full : Bool
  deriving DecidableEq, Repr, Inhabited

/-- The hidden dimension of the target head of the plan in force. -/
def Chip.planH (c : Chip) : Nat := match c.plan.cur with
  | some p => p.h0
  | none => 0

/-- Try to place a request's rows under some bounds. -/
def PlanWork.trial (w : PlanWork) (q g : Nat) (b : Bounds) : Option (List Nat × Nat) :=
  let x := w.c.needsOf q g
  if w.left < 2 * g + 1 then none else placeRows w.ws g x.1 x.2 b w.c.planH

/-- The request's rows take their places. A row that its tenant does not pay for here reserves nothing (R197, R250). -/
def PlanWork.put (w : PlanWork) (q g : Nat) (at_ : List Nat × Nat) (mute : Bool) : PlanWork :=
  let x := w.c.needsOf q g
  let rows := w.c.rowsOf q g w.ws at_.1 at_.2 mute
  let ws := at_.1.foldl (fun ws i => modAt ws i fun u => u.take x.1) w.ws
  let t := (w.c.rq q).tenant.toNat
  { w with
    c := w.c.modRq q fun e => { e with state := .active, hold := .none }
    ws := modAt ws at_.2 fun u => u.take x.2
    rows := w.rows ++ rows, left := w.left - (2 * g + 1)
    reserved := if mute ∨ w.c.nonOwner q then w.reserved else tset w.reserved t (tget w.reserved t + g + 1)
    gst := w.gst + g * x.1.lr }

/-- Rows of a request, draft rows too, are moved or deferred for candidate-store room (R181). -/
def Chip.listDefer (c : Chip) (n : Nat) : Chip := if n = 0 then c else (c.count 0x08C n).orReg 0x080 0x40#32

/-- Rows of a request that lie in another wave in one placement than in the other. -/
def movedRows (g : Nat) (a b : List Nat × Nat) : Nat :=
  ((List.range g).filter fun i => a.1.getD i 0 ≠ b.1.getD i 0).length + (if a.2 ≠ b.2 then g + 1 else 0)

/-- Rows that list room alone moves, under the other bound or without it; where it leaves no place at all, every row (R181). -/
def PlanWork.listMoves (w : PlanWork) (q g : Nat) (copies : Bool) : Nat :=
  match w.trial q g ⟨false, copies⟩, w.trial q g ⟨true, copies⟩ with
  | some a, some b => movedRows g a b
  | some _, none => 2 * g + 1
  | none, _ => 0

/-- The rows of a request that candidate-store room moves or defers: the bound is met as the copies leave it, or by itself. -/
def PlanWork.listWaits (w : PlanWork) (q g : Nat) : Nat := max (w.listMoves q g false) (w.listMoves q g true)

/-- A request for which a store has no room is HELD DEFERRED (R132, R181, R217). -/
def PlanWork.defer (w : PlanWork) (q g : Nat) : PlanWork :=
  { w with c := (w.c.listDefer (if 0 < w.listWaits q g then 2 * g + 1 else 0)).takeHold q .deferred }

/-- The request's rows take their places. -/
def PlanWork.place (w : PlanWork) (q g : Nat) (at_ : List Nat × Nat) (mute : Bool) : PlanWork :=
  { w with c := w.c.listDefer (w.listWaits q g) }.put q g at_ mute

/-- Preempted: the rows do not fit the plan's remaining capacity (R244). -/
def PlanWork.preempt (w : PlanWork) (q : Nat) : PlanWork :=
  let c := w.c.modRq q fun e => { e with state := .preempted, hold := .none }
  { w with full := true, c := ((c.count 0x0C8 1).orReg 0x0C0 2#32).event 0x014 }

/-- A request that does not fail a test: placed, deferred or preempted (R244). -/
def PlanWork.seat (w : PlanWork) (q g : Nat) : PlanWork :=
  if w.full ∨ (w.trial q g ⟨false, false⟩).isNone then w.preempt q
  else
    let x := w.c.needsOf q g
    if 196608 < w.gst + g * x.1.lr then
      { w with c := ((w.c.count 0x0B4 1).orReg 0x0A4 2#32).takeHold q .deferred }
    else match w.trial q g ⟨true, true⟩ with
      | some p => w.place q g p false
      | none => w.defer q g

/-- One candidate of the loop of R244. -/
def PlanWork.one (w : PlanWork) (q : Nat) : PlanWork :=
  let f := w.c.planFault q
  if f.1 then { w with c := f.2 }
  else
    let c := f.2
    let e := c.rq q
    let g := c.gOf e
    let r := c.testRing q ((1 + (c.pm q).logprobs.toNat) * (g + 1))
    if !r.1 then { w with c := (r.2.takeHold q .ringFull).event 0x015 }
    else if !r.2.testBudget e.tenant.toNat (tget w.reserved e.tenant.toNat) then
      { w with c := ((r.2.takeHold q .budget).orReg 0x0C0 1#32).event 0x016 }
    else { w with c := r.2 }.seat q g

/-- One merge-group request, placed before the others (R246, R247). The owner's ring and budget tests only decide whether
it will commit. -/
def PlanWork.mergeOne (w : PlanWork) (q : Nat) : PlanWork :=
  let f := w.c.planFault q
  if f.1 then { w with c := f.2 }
  else
    let c := f.2
    let e := c.rq q
    let owner := c.rfld 0x090 13 8 = 0
    let r := if owner then c.testRing q (1 + (c.pm q).logprobs.toNat) else (true, c)
    let mute := owner && !(r.1 && r.2.testBudget e.tenant.toNat (tget w.reserved e.tenant.toNat))
    let w := { w with c := r.2 }
    if w.full ∨ (w.trial q 0 ⟨false, false⟩).isNone then { w with c := w.c.takeHold q .deferred, full := true }
    else match w.trial q 0 ⟨true, true⟩ with
      | some p => w.place q 0 p mute
      | none => w.defer q 0

/-! ### The order of the candidates (R244) -/

/-- May the planner plan the request? -/
def Chip.candidate (c : Chip) (q : Nat) : Bool :=
  let e := c.rq q
  !(c.ax q).quarantined && (e.state = .active || e.state = .preempted
    || (e.state = .held && [Hold.ringFull, .budget, .maskLate, .deferred].contains e.hold))

/-- Does a come before b? -/
def Chip.planBefore (c : Chip) (a b : Nat) : Bool :=
  let x := c.rq a
  let y := c.rq b
  let px := x.prio.toNat
  let py := y.prio.toNat
  let ox := b2n (c.overdue x)
  let oy := b2n (c.overdue y)
  let wx := c.waitOf x
  let wy := c.waitOf y
  if px ≠ py then decide (py < px) else if ox ≠ oy then decide (oy < ox)
  else if wx ≠ wy then decide (wy < wx) else decide (a < b)

/-! ### The run at T+1,536 -/

/-- DRAINING requests whose ring has been read become CLOSED, and their ring is free (R263). -/
def Chip.closeDrained (c : Chip) : Chip :=
  (c.req.filter fun p => decide (p.2.state = .draining ∧ c.ringUsed p.2.ring.toNat = 0)).foldl (fun c p =>
    (c.modRing p.2.ring.toNat fun d => { d with valid := false }).modRq p.1 fun e => { e with state := .closed }) c

/-- The fields of the plan descriptor (R316). -/
def descPlanId (d : PlanDesc) : Word := BitVec.ofNat 32 (leAt d.bytes 0 4)
def descTemplate (d : PlanDesc) : Nat := leAt d.bytes 4 1 % 4
def descRows (d : PlanDesc) : Nat := leAt d.bytes 6 2
/-- Is a reserved bit of the plan descriptor set? -/
def descRsvd (d : PlanDesc) : Bool := decide (4 ≤ leAt d.bytes 4 1 ∨ leAt d.bytes 5 1 ≠ 0) || (d.bytes.drop 8).any fun b => b ≠ 0

/-- The descriptor in use: template and row cap; a stale one gives template 0 and the plan's ROWCAP (R316). -/
def Chip.useDesc (c : Chip) (d : PlanDesc) : (Nat × Nat) × Chip :=
  match c.plan.cur with
  | none =>
    ((0, 0), if descPlanId d = 0#32 ∧ !descRsvd d then c
             else c.note .descStale 0 (descPlanId d).toNat 0 (descTemplate d + 65536 * descRows d))
  | some p =>
    let cap := min p.rowCap (c.rfld 0x140 24 14)
    if descPlanId d ≠ p.planId ∨ descRsvd d ∨ c.rfld 0x140 9 5 < p.nphase.getD (descTemplate d) 0 then
      ((0, cap), c.note .descStale 0 (descPlanId d).toNat p.planId.toNat (descTemplate d + 65536 * descRows d))
    else ((descTemplate d, if descRows d = 0 then cap else min (descRows d) cap), c)

/-- The waves that the template schedules, each with room for its shape's rows. -/
def Chip.wavesOf (c : Chip) (template : Nat) (waves : List WaveSlot) : List WaveUse :=
  match c.plan.cur with
  | none => []
  | some p => waves.map fun w =>
      let s := p.shape w.shape
      { phase := w.phase, width := if w.phase < p.nphase.getD template 0 ∧ w.shape < 16 then s.1 else 0, draft := s.2
        used := 0, lr := 0, copies := 0 }

/-- Every placed request is held for the step: the two planners disagree (R380). -/
def Chip.plannerMismatch (c : Chip) (rows : List Row) : Chip :=
  let c := rows.foldl (fun c r => c.takeHold r.req.toNat .deferred) c
  let run := c.rpr.plannerRun + 1
  let c := ({ c with rpr := { c.rpr with plannerRun := run } }).note .plannerMismatch
  if 2 ≤ run then c.failStop 3 else c

/-- What the planner does before it reads the candidates: the report of missing verdicts or the duties that are left, the limits in force on every block, the
descriptor, the trial of an activation, rings that have been read (R162, R263, R316, R339). -/
def Chip.planStart (c : Chip) (desc : Option PlanDesc) : (Nat × Nat) × Chip :=
  let c := (((c.fwLateNow).duties).expireAll).reclampAll
  let c := { c with plan := { c.plan with desc := desc.getD c.plan.desc } }
  (c.closeDrained).useDesc c.plan.desc

/-- The candidates placed in order: merge-group requests first (R244, R246). -/
def Chip.placeAll (c : Chip) (template cap : Nat) (waves : List WaveSlot) : PlanWork :=
  let cands := c.liveIds.filter fun q => c.candidate q
  let w : PlanWork := { c := c, ws := c.wavesOf template waves, rows := [], left := min 1024 cap, reserved := [], gst := 0, full := false }
  let w := (cands.filter fun q => (c.rq q).merge).foldl PlanWork.mergeOne w
  (sortBy c.planBefore (cands.filter fun q => !(c.rq q).merge)).foldl PlanWork.one { w with full := false }

/-- The row table is set; a planner mismatch empties it (R380). While an instruction word waits for its restore, every row is
fault-dropped (R388). -/
def Chip.planEnd (c : Chip) (rows : List Row) (template cap : Nat) (waves : List WaveSlot) (mismatch : Bool) : Chip :=
  let c := { c with stp := { c.stp with
    planned := true, template := template, rowCap := cap, waves := waves, rows := if mismatch then [] else rows } }
  let c := c.event 0x010 rows.length
  if mismatch then c.plannerMismatch rows
  else
    let c := { c with rpr := { c.rpr with plannerRun := 0 } }
    if c.rpr.restore = [] then c else c.faultDrop fun _ => true

/-- The planner's run (R244 to R247, R316). -/
def Chip.planStep (c : Chip) (desc : Option PlanDesc) (waves : List WaveSlot) (mismatch : Bool) : Chip :=
  let d := c.planStart desc
  let w := d.2.placeAll d.1.1 d.1.2 waves
  w.c.planEnd w.rows d.1.1 d.1.2 waves mismatch

/-- A run of the planner that is due takes place as its cycle ends: a host write of CONS later in the cycle still counts (R57). -/
def Chip.planNow (c : Chip) : Chip :=
  match c.stp.planDue with
  | none => c
  | some (desc, waves, mismatch) =>
    let c := { c with stp := { c.stp with planDue := none } }
    if c.runs ∧ !c.stp.planned then (c.planStep desc waves mismatch).accDrops else c

/-- PLANNER_RUN (R244): what its reads of the tables meet comes first (R381, R385); the run itself reads the tables as they stand when the
cycle of T+1,536 ends. What the commit point's reads will meet is kept for it. -/
def execPlannerRun (desc : Option PlanDesc) (waves : List WaveSlot) (finds : PlannerFinds) (s : State) : Host.Outcome State Fault Refusal :=
  .next { s with unit :=
    if !s.unit.runs ∨ s.unit.stp.planned ∨ s.unit.stp.planDue.isSome ∨ s.unit.since ≠ 1536 then s.unit
    else
      let c := s.unit.reads finds.ecc
      { c with stp := { c.stp with planDue := some (desc, waves, finds.mismatch), atC := finds.atC } } }

end Sys2Proof.Machine
end

