-- ==== Sys2Proof/Machine/Requests.lean ====
section
/-!
DEFINITION. Request and tenant commands: OPEN to CANCEL, parking, ADOPT, counts, budgets, REPLAY (R140, R141, R238 to R243,
R248 to R263, R271, R272, R276, R329, R407, R488).
-/
namespace Sys2Proof.Machine

/-! ### Shared checks -/

/-- A request is neither FREE nor CLOSED. -/
def Chip.occupied (c : Chip) (q : Nat) : Bool := (c.rq q).live

/-- The status of a command that needs a request that has not ended (R488). -/
def Chip.needLive (c : Chip) (b : Mailbox) : Option Half :=
  let e := c.rq b.target
  if 4096 ≤ b.target then some 0x0015
  else if e.state = .free then some 0x0022
  else if e.state = .draining ∨ e.state = .closed then some 0x0021 else none

/-- The running tick count as a request entry stores it. -/
def Chip.tick32 (c : Chip) : Word := c.tick.cnt.setWidth 32

/-- A command that clears holds of these causes is applied to the request (R243). -/
def Chip.liftHold (c : Chip) (q : Nat) (causes : List Hold) : Chip :=
  let e := c.rq q
  if e.state = .held ∧ causes.contains e.hold then
    (c.modRq q fun e => { e with state := .active, hold := .none }).modAx q fun a => { a with maskHeld := false }
  else c

/-- A request becomes ACTIVE by START (R242, R245). -/
def Chip.startReq (c : Chip) (q : Nat) : Chip :=
  let t := c.tick32
  c.modRq q fun e => { e with state := .active, hold := .none, lasttick := t }

/-- The status with which the bindings of an entry image to an adapter, a delta set and a trie are refused (R127, R252) (log entry 83). -/
def Chip.bindRefusal (c : Chip) (tenant : BitVec 12) (img : ReqEntry) (ad de tr : Bool) : Option Half :=
  let a := tget c.adpDir img.adapter.toNat
  let ds := tget c.delta img.delta.toNat
  let ts := tget c.trie img.trie.toNat
  if (ad && img.adapterV && !a.valid) || (de && img.deltaV && ds.isNone) || (tr && img.trieV && ts.isNone) then some 0x0020
  else if (ad && img.adapterV && !tagOk a.tag tenant)
      || (de && img.deltaV && (ds.any fun d => !tagOk d.tag tenant || d.revoked))
      || (tr && img.trieV && ts.any fun t => !tagOk t.tag tenant) then some 0x0023 else none

/-- Is a ring of 2^log2 records too small for A alternates and a gambit of G (R263)? -/
def Chip.ringSmall (c : Chip) (log2 : Nat) (p : Params) (gambit : Nat) : Bool :=
  decide (2 ^ log2 - 1 < (1 + p.logprobs.toNat) * (min gambit (c.rfld 0x140 13 10) + 1))

/-- Another request names the ring (R252). -/
def Chip.ringBusy (c : Chip) (q d : Nat) : Bool := c.req.any fun p => p.1 != q && p.2.live && decide (p.2.ring.toNat = d)

/-- The fields of a ring descriptor image's first 8 bytes: is it free of unit-owned and reserved bits, BASE, LOG2SIZE. -/
def descOk (w : Nat) : Bool := decide (fld w 63 48 = 0 ∧ fld w 7 5 = 0)
def descBase (w : Nat) : BitVec 48 := BitVec.ofNat 48 (w / 256 * 256)
def descLog2 (w : Nat) : Nat := fld w 4 0

/-- A ring descriptor is written for a request (R261). -/
def Chip.writeDesc (c : Chip) (d : Nat) (tenant : BitVec 12) (w : Nat) (notify : Half) : Chip :=
  { c with
    ring := tset c.ring d { (default : RingDesc) with
      valid := true, tenant := tenant, base := descBase w, log2size := BitVec.ofNat 5 (descLog2 w), notify := notify }
    cons := tset c.cons d 0 }

/-- The 64 bytes of a parameter block in package SRAM (R240). -/
def Chip.blockAt (c : Chip) (pblk : Word) : List Byte := rdBytes c.psram (pblk.toNat * 64) 64

/-! ### OPEN (R238, R242, R252, R261, R329) -/

/-- The status with which OPEN is refused (log entry 83). -/
def Chip.openRefusal (c : Chip) (q : Nat) (b : Mailbox) : Option Half :=
  let img := rdBytes b.msg 16 64
  let e := entryOfImage img
  let w := b.pay 64 8
  let d := b.pay 74 2
  let log2 := descLog2 w
  if !openImageOk img || !descOk w || decide (4096 ≤ d ∨ b.pay 76 4 ≠ 0) then some 0x0012
  else if (c.rq q).state ≠ .free ∧ (c.rq q).state ≠ .closed ∧ !(c.ax q).quarantined then some 0x0021
  else if e.maxlen.toNat ≤ e.position.toNat ∨ 16777216 < e.maxlen.toNat ∨ e.tenant = 0#12 ∨ (e.slot0 = 3#2 ∧ e.slot1 = 3#2)
      ∨ log2 < 6 ∨ 16 < log2 then some 0x0020
  else match c.blockOf (c.blockAt e.pblk) with
    | none => some 0x0020
    | some p =>
      if (tget c.tnt e.tenant.toNat).state ≠ 1#2 then some 0x0025
      else match c.bindRefusal e.tenant e true true true with
        | some st => some st
        | none =>
          if c.ringBusy q d then some 0x0026
          else if c.ringSmall log2 p.1 e.gambit.toNat then some 0x0027 else none

/-- A request takes a clamped parameter block (R162). -/
def Chip.storeBlock (c : Chip) (q : Nat) (p : Params × Bool) : Chip :=
  ({ c with prm := tset c.prm q p.1 }).modAx q fun a => { a with blockClamped := p.2 }

/-- OPEN of a request (R261). Where a quarantined request named another ring, VALID of that ring stays as it is (log entry 37). -/
def Chip.openReq (c : Chip) (m : Mbx) (b : Mailbox) : Chip :=
  let q := b.target
  if 4096 ≤ q then c.finish m 0x0015
  else match c.openRefusal q b with
    | some st => c.finish m st
    | none =>
      let e := entryOfImage (rdBytes b.msg 16 64)
      let d := b.pay 74 2
      match c.blockOf (c.blockAt e.pblk) with
      | none => c
      | some p =>
        let c := { c with
          req := tset c.req q { e with state := .opened, ring := BitVec.ofNat 12 d }
          aux := tdel c.aux q
          inputs := c.inputs.filter fun i => i.req.toNat ≠ q }
        let c := (c.freeCounts q).writeDesc d e.tenant (b.pay 64 8) (BitVec.ofNat 16 (b.pay 72 2))
        let c := (c.storeBlock q p).flagClamped q (p.2 || c.rescoreCut q p.1)
        let c := if b.start then c.startReq q else c
        c.finish m 0x0000 [] (c.rq q).clamped

/-- OPEN (R242). -/
def execOpenReq (m : Mbx) (s : State) : Host.Outcome State Fault Refusal :=
  .next { s with unit := s.unit.applyCmd m 0x0100 fun c b => c.openReq m b }

/-! ### SET_PARAMS (R162, R242, R243, R329) -/

/-- The status with which SET_PARAMS is refused; `p` is the block that will be in force. -/
def Chip.paramsRefusal (c : Chip) (b : Mailbox) (img : ReqEntry) (mask : Nat) (p : Option (Params × Bool)) : Option Half :=
  let q := b.target
  let e := c.rq q
  match c.needLive b with
  | some st => some st
  | none =>
    if 128 ≤ mask then some 0x0012
    else if e.state = .parked ∨ e.state = .parking ∨ e.state = .resuming then some 0x0021
    else match p with
      | none => some 0x0020
      | some p =>
        match c.bindRefusal e.tenant img (mask.testBit 3) (mask.testBit 4) (mask.testBit 6) with
        | some st => some st
        | none =>
          if c.ringSmall (tget c.ring e.ring.toNat).log2size.toNat p.1 (if mask.testBit 5 then img.gambit else e.gambit).toNat
          then some 0x0027 else none

/-- An entry with the fields that a change mask names taken from an image. -/
def ReqEntry.change (e img : ReqEntry) (mask : Nat) : ReqEntry :=
  let on := mask.testBit
  { e with
    pblk := if on 0 then img.pblk else e.pblk
    prio := if on 1 then img.prio else e.prio
    deadline := if on 2 then img.deadline else e.deadline
    adapter := if on 3 then img.adapter else e.adapter
    adapterV := if on 3 then img.adapterV else e.adapterV
    delta := if on 4 then img.delta else e.delta
    deltaV := if on 4 then img.deltaV else e.deltaV
    gambit := if on 5 then img.gambit else e.gambit
    trie := if on 6 then img.trie else e.trie
    trieV := if on 6 then img.trieV else e.trieV
    cursor := if on 6 then 0 else e.cursor }

/-- SET_PARAMS of a request. -/
def Chip.setParams (c : Chip) (m : Mbx) (b : Mailbox) : Chip :=
  let q := b.target
  let img := entryOfImage (rdBytes b.msg 16 64)
  let mask := b.pay 64 4
  let p : Option (Params × Bool) :=
    if mask.testBit 0 then c.blockOf (c.blockAt img.pblk) else some (c.pm q, (c.ax q).blockClamped)
  match c.paramsRefusal b img mask p with
  | some st => c.finish m st
  | none =>
    let c := c.modRq q fun e => e.change img mask
    let c := match p with
      | some p => if mask.testBit 0 then c.storeBlock q p else c
      | none => c
    let c := if mask.testBit 5 then c.modAx q fun a => { a with gambitCut := none } else c
    let c := (c.flagClamped q (mask.testBit 0 && c.blockClampedNow q)).liftHold q [.rowFault, .noCandidate]
    let c := if b.start ∧ (c.rq q).state = .opened then c.startReq q else c
    c.finish m 0x0000 [] ((mask.testBit 0 && c.blockClampedNow q) || (mask.testBit 5 && c.gambitClampedNow q))

/-- SET_PARAMS (R329). -/
def execSetParams (m : Mbx) (s : State) : Host.Outcome State Fault Refusal :=
  .next { s with unit := s.unit.applyCmd m 0x0101 fun c b => c.setParams m b }

/-! ### CLOSE and CANCEL (R255, R256) -/

/-- CLOSE or CANCEL of a request: the flag is set, or NO_EFFECT. -/
def Chip.endReq (c : Chip) (m : Mbx) (b : Mailbox) (cancel : Bool) : Chip :=
  let q := b.target
  let e := c.rq q
  if 4096 ≤ q then c.finish m 0x0015
  else if e.state = .free then c.finish m 0x0022
  else if e.state = .draining ∨ e.state = .closed ∨ e.cancel then c.finish m 0x0001
  else (c.modRq q fun e => if cancel then { e with cancel := true } else { e with close := true }).finish m 0x0000

/-- CLOSE (R255). -/
def execCloseReq (m : Mbx) (s : State) : Host.Outcome State Fault Refusal :=
  .next { s with unit := s.unit.applyCmd m 0x0102 fun c b => c.endReq m b false }

/-- CANCEL (R256). -/
def execCancel (m : Mbx) (s : State) : Host.Outcome State Fault Refusal :=
  .next { s with unit := s.unit.applyCmd m 0x0103 fun c b => c.endReq m b true }

/-! ### Parking (R257 to R260) -/

/-- UNIT_PARKCFG.SLOTSZ in bytes, and the address of a request's slot. -/
def Chip.parkSize (c : Chip) : Nat := c.rfld 0x0D4 7 0 * 4096
def Chip.parkSlot (c : Chip) (q : Nat) : Nat :=
  (c.reg 0x0D8).toNat + c.rfld 0x0DC 15 0 * 2 ^ 32 + q * c.parkSize

/-- Bytes from the slot base to the pages of a slot that holds NP of them. -/
def parkPages (np : Nat) : Nat := 256 + 256 * cdiv (4 * np) 256

/-- The slot of a request with its entry, block, tags and pages. -/
def Chip.parkImage (c : Chip) (q : Nat) : List Byte :=
  let tags := c.countTags q
  let np := tags.length
  let head := (c.rq q).bytes q ++ (c.pm q).bytes ++ toLE 4 np ++ List.replicate 124 0#8
  let tagBytes := tags.flatMap fun t => toLE 4 (t.1 * 256 + t.2)
  let pad := List.replicate (parkPages np - 256 - 4 * np) 0#8
  head ++ tagBytes ++ pad ++ c.countBytes q

/-- PARK of a request. -/
def Chip.park (c : Chip) (m : Mbx) (b : Mailbox) : Chip :=
  let q := b.target
  let e := c.rq q
  let np := (c.countTags q).length
  let ttl := b.pay 0 4
  match c.needLive b with
  | some st => c.finish m st
  | none =>
    if e.cancel then c.finish m 0x0001
    else if e.merge ∨ !(e.state = .opened ∨ e.state = .active ∨ e.state = .held ∨ e.state = .preempted) then c.finish m 0x0021
    else if e.mirror then c.finish m 0x0074
    else if ttl = 0 then c.finish m 0x0020
    else if c.parkSize = 0 then c.finish m 0x002A
    else if c.parkSize < parkPages np + 256 * np then c.finish m 0x0029
    else
      let c := (c.modAx q fun a => { a with former := e.state, formerHold := e.hold }).freeGrammar q fun _ => true
      let c := c.modRq q fun e => { e with state := .parking, hold := .none }
      c.beginRoutine m { c.newRoutine b ttl with left := parkPages np + 256 * np }

/-- PARK (R258). -/
def execPark (m : Mbx) (s : State) : Host.Outcome State Fault Refusal :=
  .next { s with unit := s.unit.applyCmd m 0x0104 fun c b => c.park m b }

/-- A NOTICE is owed at the next commit point (R266). -/
def Chip.owe (c : Chip) (q : Nat) (code : Byte) (detail : Half) : Chip :=
  c.modAx q fun a => { a with notices := a.notices ++ [(code, detail)] }

/-- The time from application to commit of a PARK or RESUME (R432). -/
def Chip.parkSample (c : Chip) (r : Routine) : Chip := c.sample 4 (histBin (c.tick.cnt - r.tick).toNat)

/-- PARK commits: the slot stands in package SRAM, the count pages are freed (R257, R258). -/
def Chip.parkCommit (c : Chip) (m : Mbx) (b : Mailbox) (r : Routine) : Chip :=
  let q := b.target
  let c := c.modRq q fun e => { e with state := .parked, ttl := BitVec.ofNat 32 r.key }
  let c := { c with psram := wrBytes c.psram (c.parkSlot q) (c.parkImage q) }
  (((c.freeCounts q).owe q 2#8 0#16).parkSample r).finish m 0x0000

/-- PARK_COMMIT (R258). -/
def execParkCommit (m : Mbx) (s : State) : Host.Outcome State Fault Refusal :=
  .next { s with unit := s.unit.commitCmd m 0x0104 fun c b r => c.parkCommit m b r }

/-- The tags of a parking slot: logical column block and directory entry. -/
def Chip.slotTags (c : Chip) (q : Nat) : List (Nat × Nat) :=
  let a := c.parkSlot q
  (List.range (min 4096 (rdLE c.psram (a + 128) 4))).map fun i =>
    let t := rdLE c.psram (a + 256 + 4 * i) 4
    (fld t 11 8, fld t 7 0)

/-- RESUME of a request: every page the slot lists is allocated, or none (R259). A request that CANCEL or CLOSE ends at this step's commit
point is not resumed: its slot is discarded (R276). -/
def Chip.resume (c : Chip) (m : Mbx) (b : Mailbox) : Chip :=
  let q := b.target
  let e := c.rq q
  if 4096 ≤ q then c.finish m 0x0015
  else if e.state ≠ .parked then c.finish m (if e.endcause = 6#8 then 0x002B else 0x0021)
  else if e.merge ∨ e.cancel ∨ e.close then c.finish m 0x0021
  else match Chip.allocAll .count (c.slotTags q) c [] with
    | (none, c) => c.finish m 0x0028
    | (some pages, c) =>
      let c := c.modAx q fun a => { a with expiryDue := false }
      (c.modRq q fun e => { e with state := .resuming, ttl := 0 }).beginRoutine m
        { c.newRoutine b e.ttl.toNat pages with left := parkPages pages.length + 256 * pages.length }

/-- RESUME (R259). -/
def execResume (m : Mbx) (s : State) : Host.Outcome State Fault Refusal :=
  .next { s with unit := s.unit.applyCmd m 0x0105 fun c b => c.resume m b }

/-- One page of a slot is copied back and entered in the directory; `i` is its place in tag order. -/
def Chip.restorePage (q slot np : Nat) (c : Chip) (x : (Nat × Nat × Nat) × Nat) : Chip :=
  let (e, at_, p) := x.1
  let bs := rdBytes c.psram (slot + parkPages np + 256 * x.2) 256
  { c with
    dir := tset c.dir (dirKey at_ q e) (BitVec.ofNat 16 (0x8000 + p))
    page := tmod c.page (pageKey at_ p) fun g => { g with bytes := wrBytes [] 0 bs } }

/-- RESUME commits: the former state returns (R259). -/
def Chip.resumeCommit (c : Chip) (m : Mbx) (b : Mailbox) (r : Routine) : Chip :=
  let q := b.target
  let a := c.ax q
  let c := r.pages.zipIdx.foldl (Chip.restorePage q (c.parkSlot q) r.pages.length) c
  let t := c.tick32
  let back := if a.former = .preempted then ReqState.active else a.former
  let c := c.modRq q fun e => { e with state := back, hold := a.formerHold, lasttick := t }
  ((c.owe q 3#8 0#16).parkSample r).finish m 0x0000

/-- RESUME_COMMIT (R259). -/
def execResumeCommit (m : Mbx) (s : State) : Host.Outcome State Fault Refusal :=
  .next { s with unit := s.unit.commitCmd m 0x0105 fun c b r => c.resumeCommit m b r }

/-! ### ADOPT (R407) -/

/-- Something of the peer has arrived in this step or one of the two before (R407). -/
def Chip.peerAlive (c : Chip) (q : Nat) : Bool :=
  let r := c.mr q
  r.seen && (c.stp.num :: c.stp.before).any fun n => n.setWidth 32 == r.lastSeen

/-- ADOPT of a shadow. -/
def Chip.adopt (c : Chip) (m : Mbx) (b : Mailbox) : Chip :=
  let q := b.target
  let e := c.rq q
  let w := b.pay 0 8
  let d := b.pay 10 2
  if 4096 ≤ q then c.finish m 0x0015
  else if !descOk w ∨ 4096 ≤ d ∨ 2 ≤ b.pay 12 1 ∨ b.pay 13 3 ≠ 0 then c.finish m 0x0012
  else if !(c.mr q).shadow ∨ (c.mr q).mstate ≠ .bound then c.finish m 0x0073
  else if e.state = .draining ∨ e.state = .closed then c.finish m 0x0021
  else if c.peerAlive q ∧ b.pay 12 1 = 0 then c.finish m 0x0072
  else if descLog2 w < 6 ∨ 16 < descLog2 w then c.finish m 0x0020
  else if c.ringBusy q d then c.finish m 0x0026
  else if c.ringSmall (descLog2 w) (c.pm q) e.gambit.toNat then c.finish m 0x0027
  else c.beginRoutine m (c.newRoutine b)

/-- ADOPT (R407). -/
def execAdopt (m : Mbx) (s : State) : Host.Outcome State Fault Refusal :=
  .next { s with unit := s.unit.applyCmd m 0x0106 fun c b => c.adopt m b }

/-- ADOPT commits: acknowledged records are applied, then the request starts at M + 1. -/
def Chip.adoptCommit (c : Chip) (m : Mbx) (b : Mailbox) : Chip :=
  let q := b.target
  let c := c.applyRecords fun r => r == q
  if (c.mr q).mstate ≠ .bound then c.finish m 0x0073
  else if (c.rq q).state ≠ .opened then c.finish m 0x0021
  else
    let e := c.rq q
    let d := b.pay 10 2
    let c := (c.modRing e.ring.toNat fun x => { x with valid := false }).writeDesc d e.tenant (b.pay 0 8) (BitVec.ofNat 16 (b.pay 8 2))
    let c := { c with mir := tdel c.mir q }
    let c := (c.modRq q fun e => { e with ring := BitVec.ofNat 12 d, adopted := true }).startReq q
    (c.owe q 4#8 0#16).finish m 0x0000 (toLE 4 (e.position - 1).toNat)

/-- ADOPT_COMMIT (R407). -/
def execAdoptCommit (m : Mbx) (s : State) : Host.Outcome State Fault Refusal :=
  .next { s with unit := s.unit.commitCmd m 0x0106 fun c b _ => c.adoptCommit m b }

/-! ### Counts (R140, R141) -/

/-- The entries of a count list in package SRAM: token and count. -/
def Chip.countList (c : Chip) (addr n : Nat) : List (Nat × Nat) :=
  (List.range n).map fun i => (rdLE c.psram (addr + 4 * i) 3, rdLE c.psram (addr + 4 * i + 3) 1)

/-- The count page a token's entry needs, as (lagoon, row-wide group); none for a count of 0 or a token of another shard. -/
def Plan.countPlace (p : Plan) (x : Nat × Nat) : Option (Nat × Nat) :=
  if x.2 = 0 then none
  else (p.colOf x.1).map fun col => let (piece, block, j, _) := p.place col; (block, p.wide piece j)

/-- The pages a list needs that the request does not hold. -/
def Chip.missingPages (c : Chip) (p : Plan) (q : Nat) (l : List (Nat × Nat)) : List (Nat × Nat) :=
  ((l.filterMap p.countPlace).filter fun x => (c.countPage x.1 q x.2).isNone).eraseDups

/-- LOAD_COUNTS of a request. -/
def Chip.loadCounts (c : Chip) (m : Mbx) (b : Mailbox) : Chip :=
  let q := b.target
  let n := b.pay 8 4
  match c.needLive b with
  | some st => c.finish m st
  | none =>
    if n = 0 ∨ 262144 < n then c.finish m 0x0020
    else if (c.rq q).state = .parked then c.finish m 0x0021
    else match c.plan.cur with
      | none => c.finish m 0x0021
      | some p =>
        let c := c.liftHold q [.rowFault, .noCandidate, .countOvf]
        match Chip.allocAll .count (c.missingPages p q (c.countList (b.pay 0 8) n)) c [] with
        | (none, c) => c.beginRoutine m { c.newRoutine b with failed := some 0x0028 }
        | (some pages, c) => (c.loading (4 * n)).beginRoutine m (c.newRoutine b 0 pages)

/-- LOAD_COUNTS (R141). -/
def execLoadCounts (m : Mbx) (s : State) : Host.Outcome State Fault Refusal :=
  .next { s with unit := s.unit.applyCmd m 0x0107 fun c b => c.loadCounts m b }

/-- A page allocated for a list enters the directory, or is freed where a commit point has allocated one since. -/
def Chip.enterPage (q : Nat) (c : Chip) (g : Nat × Nat × Nat) : Chip :=
  let (e, at_, p) := g
  if (c.countPage at_ q e).isSome then c.dropPage at_ p
  else { c with dir := tset c.dir (dirKey at_ q e) (BitVec.ofNat 16 (0x8000 + p)) }

/-- One entry of a list is added to its column with saturation. -/
def Chip.addEntry (p : Plan) (q : Nat) (c : Chip) (x : Nat × Nat) : Chip :=
  match p.colOf x.1 with
  | none => c
  | some col =>
    let (piece, block, j, lane) := p.place col
    if x.2 = 0 then c else (c.addCount block q (p.wide piece j) lane x.2).2

/-- LOAD_COUNTS commits: the counts are written (R141, R333). Pages that the list needs and the request has lost since are allocated again;
where the pool cannot supply them, or the request has been PARKED, nothing is changed (R236) (log entry 80). -/
def Chip.loadCountsCommit (c : Chip) (m : Mbx) (b : Mailbox) (r : Routine) : Chip :=
  let q := b.target
  match r.failed, c.plan.cur with
  | some st, _ => c.finish m st
  | none, none => c.finish m 0x0021
  | none, some p =>
    if (c.needLive b).isSome ∨ (c.rq q).state = .parked then (c.dropAll r.pages).finish m 0x0021
    else
      let l := c.countList (b.pay 0 8) (b.pay 8 4)
      let held := r.pages.foldl (Chip.enterPage q) c
      match Chip.allocAll .count (held.missingPages p q l) held [] with
      | (none, _) => (c.dropAll r.pages).finish m 0x0028
      | (some more, d) =>
        let d := l.foldl (Chip.addEntry p q) (more.foldl (Chip.enterPage q) d)
        (d.modRq q fun e => { e with countOvf := false }).finish m 0x0000

/-- LOAD_COUNTS_COMMIT (R141). -/
def execLoadCountsCommit (m : Mbx) (s : State) : Host.Outcome State Fault Refusal :=
  .next { s with unit := s.unit.commitCmd m 0x0107 fun c b r => c.loadCountsCommit m b r }

/-- RESET_COUNTS of a request (R141). -/
def Chip.resetCounts (c : Chip) (m : Mbx) (b : Mailbox) : Chip :=
  let q := b.target
  match c.needLive b with
  | some st => c.finish m st
  | none =>
    if (c.rq q).state = .parked then c.finish m 0x0021
    else
      let c := (c.freeCounts q).modRq q fun e => { e with countOvf := false }
      (c.liftHold q [.rowFault, .noCandidate, .countOvf]).finish m 0x0000

/-- RESET_COUNTS (R141). -/
def execResetCounts (m : Mbx) (s : State) : Host.Outcome State Fault Refusal :=
  .next { s with unit := s.unit.applyCmd m 0x0108 fun c b => c.resetCounts m b }

/-! ### Tenants (R248, R251) -/

/-- Change a tenant's entry. -/
def Chip.modTnt (c : Chip) (t : Nat) (f : Tenant → Tenant) : Chip := { c with tnt := tmod c.tnt t f }

/-- SET_TENANT (R251). -/
def Chip.setTenant (c : Chip) (m : Mbx) (b : Mailbox) : Chip :=
  let t := b.target
  let st := fld (b.pay 24 4) 31 30
  let debtMax := b.pay 12 4
  if t = 0 ∨ 4096 ≤ t then c.finish m 0x0015
  else if fld (b.pay 24 4) 29 0 ≠ 0 ∨ b.pay 28 4 ≠ 0 then c.finish m 0x0012
  else if st = 3 ∨ 2 ^ 30 < debtMax then c.finish m 0x0020
  else if st = 0 ∧ (c.req.any fun p => p.2.live && decide (p.2.tenant.toNat = t)) then c.finish m 0x0024
  else
    let period := BitVec.ofNat 32 (b.pay 16 4)
    (c.modTnt t fun x => { x with
      refill := BitVec.ofNat 32 (b.pay 4 4), ceiling := BitVec.ofNat 32 (b.pay 8 4), overdraft := BitVec.ofNat 32 debtMax
      period := period, next := period, state := BitVec.ofNat 2 st, badSet := false }).finish m 0x0000

/-- SET_TENANT (R251). -/
def execSetTenant (m : Mbx) (s : State) : Host.Outcome State Fault Refusal :=
  .next { s with unit := s.unit.applyCmd m 0x0200 fun c b => c.setTenant m b }

/-- SET_BUDGET (R251). -/
def Chip.setBudget (c : Chip) (m : Mbx) (b : Mailbox) : Chip :=
  let t := b.target
  let v := BitVec.ofNat 32 (b.pay 0 4)
  if t = 0 ∨ 4096 ≤ t then c.finish m 0x0015
  else if 2 ≤ b.pay 4 1 ∨ b.pay 5 3 ≠ 0 then c.finish m 0x0012
  else
    let add := b.pay 4 1 = 1
    let c := c.modTnt t fun x => { x with
      balance := if add then satI32 (x.balance.toInt + v.toInt) else v, badBal := false }
    c.finish m 0x0000 (toLE 4 (tget c.tnt t).balance.toNat)

/-- SET_BUDGET (R251). -/
def execSetBudget (m : Mbx) (s : State) : Host.Outcome State Fault Refusal :=
  .next { s with unit := s.unit.applyCmd m 0x0201 fun c b => c.setBudget m b }

/-! ### REPLAY (R271, R272) -/

/-- The sequence number of the record at ring index j, or the status that says why there is none. -/
def Chip.replaySeq (c : Chip) (d : RingDesc) (j : Word) : Except Half Nat :=
  let k := (d.prod - j).toNat
  let n0 := d.count0.toNat
  let n1 := d.count1.toNat
  let x? : Option Nat :=
    if k ≤ n0 then some (d.seq0.toNat + n0 - k)
    else if k ≤ n0 + n1 then some (d.seq1.toNat + n0 + n1 - k) else none
  if k = 0 ∨ 2 ^ 31 ≤ k then .error 0x0060
  else match x? with
    | none => .error 0x0061
    | some x => if x + 65536 < c.recseq.toNat then .error 0x0061 else .ok x

/-- The record held for a sequence number (R387: a lost one is GONE). -/
def Chip.replayRec (c : Chip) (d : RingDesc) (j : Word) : Except Half RingRec :=
  match c.replaySeq d j with
  | .error st => .error st
  | .ok x => match tget c.replay (x % 65536) with
    | none => .error 0x0061
    | some r => .ok r

/-- The records from index j on, or the first status. -/
def Chip.replayRecs (c : Chip) (d : RingDesc) : (n : Nat) → Word → Except Half (List RingRec)
  | 0, _ => .ok []
  | n + 1, j =>
    match c.replayRec d j with
    | .error st => .error st
    | .ok r => match c.replayRecs d n (j + 1) with
      | .error st => .error st
      | .ok l => .ok (r :: l)

/-- REPLAY (R272). -/
def Chip.doReplay (c : Chip) (m : Mbx) (b : Mailbox) : Chip :=
  let n := b.pay 4 1
  if 4096 ≤ b.target then c.finish m 0x0015
  else if 16 ≤ n ∨ b.pay 5 3 ≠ 0 then c.finish m 0x0012
  else if n = 0 then c.finish m 0x0020
  else match c.replayRecs (tget c.ring b.target) n (BitVec.ofNat 32 (b.pay 0 4)) with
    | .error st => c.finish m st
    | .ok l => c.finish m 0x0000 (l.flatMap fun r => r.bytes 8)

/-- REPLAY (R272). -/
def execReplay (m : Mbx) (s : State) : Host.Outcome State Fault Refusal :=
  .next { s with unit := s.unit.applyCmd m 0x0800 fun c b => c.doReplay m b }

/-! ### SET_TICK and SET_LIMITS (R329, R343) -/

/-- SET_TICK (R329). -/
def Chip.setTick (c : Chip) (m : Mbx) (b : Mailbox) : Chip :=
  let v := BitVec.ofNat 32 (b.pay 0 4)
  if b.target ≠ 0 then c.finish m 0x0015
  else if Nat.land v.toNat 0xFF008000 ≠ 0 then c.finish m 0x0012
  else if bgslotBad v ∨ periodBad v then c.finish m 0x0020
  else (if c.cyc.tickcfg then c else c.setNext 0x020 v).finish m 0x0000

/-- SET_TICK (R329). -/
def execSetTick (m : Mbx) (s : State) : Host.Outcome State Fault Refusal :=
  .next { s with unit := s.unit.applyCmd m 0x0402 fun c b => c.setTick m b }

/-- The words of a SET_LIMITS payload, with the offsets of their registers. -/
def limitWords (b : Mailbox) : List (Nat × Word) :=
  (List.range 7).map fun i => (0x140 + 4 * i, BitVec.ofNat 32 (b.pay (4 * i) 4))

/-- The verdicts on every field of seven limit words. -/
def Chip.limVerdicts (c : Chip) (ws : List (Nat × Word)) : List LimVerdict :=
  let at_ (off : Nat) : Word := (ws.lookup off).getD 0
  (limFields.map fun f => c.limInt f (at_ f.off))
    ++ [0x148, 0x14C, 0x150, 0x154, 0x158].map fun o => c.limFp o (at_ o) (at_ (limPartner o))

/-- SET_LIMITS: all or nothing (R343). -/
def Chip.setLimits (c : Chip) (m : Mbx) (b : Mailbox) : Chip :=
  let ws := limitWords b
  let vs := c.limVerdicts ws
  if b.target ≠ 0 then c.finish m 0x0015
  else if Nat.land (b.pay 0 4) 0x1F ≠ 0 ∨ Nat.land (b.pay 4 4) 0xFFFFE000 ≠ 0 then c.finish m 0x0012
  else if vs.contains .bad then c.finish m 0x0020
  else if vs.contains .loose then c.finish m 0x0032
  else if vs.contains .conflict then c.finish m 0x0033
  else (ws.foldl (fun c w => c.setNext w.1 w.2) c).finish m 0x0000

/-- SET_LIMITS (R343). -/
def execSetLimits (m : Mbx) (s : State) : Host.Outcome State Fault Refusal :=
  .next { s with unit := s.unit.applyCmd m 0x0403 fun c b => c.setLimits m b }

end Sys2Proof.Machine
end

