-- ==== Sys2Proof/Machine/Loads.lean ====
section
/-!
DEFINITION. Loads and routines that fill the resources rows read: adapters, delta sets, trie images, deny lists, static
masks, and the fault that discards one (R125 to R130, R141, R145 to R148, R154, R158, R329, R333, R335, R487).
-/
namespace Sys2Proof.Machine

/-! ### Staging (R333) -/

/-- Bytes of the 4 MiB staging area that loads in progress hold. -/
def Chip.stageUsed (c : Chip) : Nat :=
  ((c.mbx.filter fun p => p.2.routine.any fun r => r.code = 0x0300 ∨ r.code = 0x0301).map fun p =>
    (tget c.staging p.1).length).foldl (· + ·) 0

/-- A load begins with its source copied out of package SRAM. -/
def Chip.beginLoad (c : Chip) (m : Mbx) (b : Mailbox) (bs : List Byte) : Chip :=
  (({ c with staging := tset c.staging m.val bs }).loading bs.length).beginRoutine m (c.newRoutine b)

/-- What a mailbox's load has staged. -/
def Chip.staged (c : Chip) (m : Mbx) : List Byte := tget c.staging m.val

/-! ### LOAD_ADAPTER (R125, R126, R129) -/

/-- Slots that an adapter of hidden dimension h takes. -/
def adpSlots (h : Nat) : Nat := cdiv (8192 + h) 32768

/-- A bias list that R126 refuses: too long, out of order, a non-finite BIAS or a reserved bit. -/
def badBias (bs : List Byte) (n : Nat) : Bool :=
  decide (1024 < n) || (List.range n).any fun i =>
    decide (leAt bs (8 * i + 3) 1 ≠ 0) || !f32Finite (BitVec.ofNat 32 (leAt bs (8 * i + 4) 4))
      || (decide (0 < i) && decide (leAt bs (8 * i) 3 ≤ leAt bs (8 * (i - 1)) 3))

/-- LOAD_ADAPTER of a slot (log entry 79). -/
def Chip.loadAdapter (c : Chip) (m : Mbx) (b : Mailbox) : Chip :=
  let h := b.pay 8 4
  let bs := rdBytes c.psram (b.pay 0 8) (8192 + h)
  if 256 ≤ b.target then c.finish m 0x0015
  else if 4096 ≤ b.pay 14 2 then c.finish m 0x0012
  else if h = 0 ∨ 131072 < h ∨ 256 < b.target + adpSlots h then c.finish m 0x0020
  else if badBias bs (b.pay 12 2) then c.finish m 0x002C
  else if 4194304 < c.stageUsed + bs.length then c.finish m 0x002D
  else c.beginLoad m b bs

/-- LOAD_ADAPTER (R126). -/
def execLoadAdapter (m : Mbx) (s : State) : Host.Outcome State Fault Refusal :=
  .next { s with unit := s.unit.applyCmd m 0x0300 fun c b => c.loadAdapter m b }

/-- The bytes that an adapter's slots hold (R125). -/
def adapterImage (bs : List Byte) (n h : Nat) : List Byte :=
  bs.take (8 * n) ++ List.replicate (8192 - 8 * n) 0#8 ++ (bs.drop 8192).take h
    ++ List.replicate (32768 * adpSlots h - 8192 - h) 0#8

/-- An adapter takes over its slots; adapters that stood in any of them are no longer valid. -/
def Chip.putAdapter (c : Chip) (slot n h : Nat) (tag : BitVec 12) (bs : List Byte) : Chip :=
  let k := adpSlots h
  let clear (e : Nat × AdapterDir) : Bool := decide (e.1 + e.2.slots.toNat ≤ slot ∨ slot + k ≤ e.1)
  { c with
    adpMem := wrBytes c.adpMem (adpKey slot 0) (adapterImage bs n h)
    adpDir := tset (c.adpDir.filter clear) slot
      { valid := true, tag := tag, h := BitVec.ofNat 32 h, nbias := BitVec.ofNat 16 n, slots := BitVec.ofNat 3 k } }

/-- LOAD_ADAPTER_COMMIT (R333). -/
def execLoadAdapterCommit (m : Mbx) (s : State) : Host.Outcome State Fault Refusal :=
  .next { s with unit := s.unit.commitCmd m 0x0300 fun c b _ =>
    (c.putAdapter b.target (b.pay 12 2) (b.pay 8 4) (BitVec.ofNat 12 (b.pay 14 2)) (c.staged m)).finish m 0x0000 }

/-- QUERY_ADAPTER of a slot: its directory entry (R329). -/
def Chip.queryAdapter (c : Chip) (m : Mbx) (b : Mailbox) : Chip :=
  let d := tget c.adpDir b.target
  if 256 ≤ b.target then c.finish m 0x0015
  else c.finish m 0x0000 (toLE 4 d.h.toNat ++ toLE 2 d.nbias.toNat
    ++ toLE 2 (pack [(b2n d.valid, 15), (d.slots.toNat, 12), (d.tag.toNat, 0)]))

/-- QUERY_ADAPTER (R329). -/
def execQueryAdapter (m : Mbx) (s : State) : Host.Outcome State Fault Refusal :=
  .next { s with unit := s.unit.applyCmd m 0x0305 fun c b => c.queryAdapter m b }

/-! ### LOAD_DELTA (R130) -/

/-- A source triplet of 12 bytes: column, K, DELTA, and whether another bit is set. -/
structure SrcTrip where
  col : Nat
  k : Nat
  v : Word
  rsvd : Bool
  deriving DecidableEq, Repr, Inhabited

/-- The source triplets that a byte string holds. -/
def srcTrips (bs : List Byte) (n : Nat) : List SrcTrip :=
  (List.range n).map fun i =>
    let w := leAt bs (12 * i) 8
    { col := fld w 23 0, k := fld w 48 32, v := BitVec.ofNat 32 (leAt bs (12 * i + 8) 4)
      rsvd := decide (fld w 31 24 ≠ 0 ∨ fld w 63 49 ≠ 0) }

/-- A source triplet in the place of its column. -/
def Plan.scatter (p : Plan) (t : SrcTrip) : Triplet :=
  let (piece, block, j, lane) := p.place t.col
  { block := BitVec.ofNat 4 block, lane := BitVec.ofNat 8 lane, piece := BitVec.ofNat 2 piece, group := BitVec.ofNat 6 j
    k := BitVec.ofNat 17 t.k, v := t.v }

/-- The lane, piece and group of a triplet as one number, and with K below it. -/
def Triplet.share (t : Triplet) : Nat :=
  ((t.block.toNat * 256 + t.lane.toNat) * 4 + t.piece.toNat) * 64 + t.group.toNat
def Triplet.key (t : Triplet) : Nat := t.share * 131072 + t.k.toNat

/-- The triplets of a set in the order in which lanes hold them. -/
def Plan.scatterAll (p : Plan) (ts : List SrcTrip) : List Triplet :=
  sortBy (fun a b => decide (a.key ≤ b.key)) (ts.map p.scatter)

/-- Two neighbours of an ordered list have the same key. -/
def repeats : List Triplet → Bool
  | a :: b :: r => decide (a.key = b.key) || repeats (b :: r)
  | _ => false

/-- Some lane has more than `dmax` triplets of one piece and group; `run` is the length of the share so far. -/
def overShare (dmax : Nat) : (run : Nat) → List Triplet → Bool
  | run, a :: b :: r => decide (dmax < run) || overShare dmax (if a.share = b.share then run + 1 else 1) (b :: r)
  | run, [_] => decide (dmax < run)
  | _, [] => false

/-- A set that R130 refuses; a column outside the row's layout has no lane. -/
def Plan.badDelta (p : Plan) (ts : List SrcTrip) : Bool :=
  (ts.any fun t => t.rsvd || !f32Finite t.v || decide (p.pieces * 4096 * p.cpl ≤ t.col))
    || repeats (p.scatterAll ts) || overShare p.dmax 1 (p.scatterAll ts)

/-- LOAD_DELTA of a set. -/
def Chip.loadDelta (c : Chip) (m : Mbx) (b : Mailbox) : Chip :=
  let n := b.pay 8 4
  let bs := rdBytes c.psram (b.pay 0 8) (12 * n)
  if 16 ≤ b.target then c.finish m 0x0015
  else if 4096 ≤ b.pay 12 2 ∨ b.pay 14 2 ≠ 0 then c.finish m 0x0012
  else if n = 0 ∨ 65536 < n then c.finish m 0x0020
  else match c.plan.cur with
    | none => c.finish m 0x0021
    | some p =>
      if p.badDelta (srcTrips bs n) then c.finish m 0x002C
      else if 4194304 < c.stageUsed + bs.length then c.finish m 0x002D
      else c.beginLoad m b ((p.scatterAll (srcTrips bs n)).flatMap fun t => toLE 8 t.key ++ toLE 4 t.v.toNat)

/-- LOAD_DELTA (R130). -/
def execLoadDelta (m : Mbx) (s : State) : Host.Outcome State Fault Refusal :=
  .next { s with unit := s.unit.applyCmd m 0x0301 fun c b => c.loadDelta m b }

/-- A staged triplet: its key and value. -/
def stagedTrip (bs : List Byte) (i : Nat) : Triplet :=
  let w := leAt bs (12 * i) 8
  { k := BitVec.ofNat 17 w, group := BitVec.ofNat 6 (w / 131072), piece := BitVec.ofNat 2 (w / 131072 / 64)
    lane := BitVec.ofNat 8 (w / 131072 / 256), block := BitVec.ofNat 4 (w / 131072 / 65536)
    v := BitVec.ofNat 32 (leAt bs (12 * i + 8) 4) }

/-- The halves swap: the set in force is the staged one. -/
def Chip.putDelta (c : Chip) (set : Nat) (tag : BitVec 12) (bs : List Byte) : Chip :=
  let d : DeltaSet :=
    { tag := tag, trips := (List.range (bs.length / 12)).map (stagedTrip bs), rangeLogged := false, revoked := false }
  { c with delta := tset c.delta set (some d) }

/-- LOAD_DELTA_COMMIT (R333). -/
def execLoadDeltaCommit (m : Mbx) (s : State) : Host.Outcome State Fault Refusal :=
  .next { s with unit := s.unit.commitCmd m 0x0301 fun c b _ =>
    (c.putDelta b.target (BitVec.ofNat 12 (b.pay 12 2)) (c.staged m)).finish m 0x0000 }

/-! ### LOAD_TRIE (R154, R158) -/

/-- Blocks of the phrase-trie store in use: images in force, and images that routines are staging (R333). -/
def Chip.trieUsed (c : Chip) : Nat :=
  (c.trie.map fun e => (e.2.map fun t => t.blocks.length).getD 0).foldl (· + ·) 0
    + ((c.mbx.filter fun p => p.2.routine.any fun r => r.code = 0x0302).map fun p => (tget c.staging p.1).length / 16).foldl (· + ·) 0

/-- LOAD_TRIE of an extent. -/
def Chip.loadTrie (c : Chip) (m : Mbx) (b : Mailbox) : Chip :=
  let n := b.pay 8 4
  if 256 ≤ b.target then c.finish m 0x0015
  else if 4096 ≤ b.pay 12 2 ∨ b.pay 14 2 ≠ 0 then c.finish m 0x0012
  else if n = 0 ∨ 262144 < n then c.finish m 0x0020
  else if 262144 < c.trieUsed + n then c.finish m 0x002D
  else
    let bs := rdBytes c.psram (b.pay 0 8) (16 * n)
    ({ c with staging := tset c.staging m.val bs }).beginRoutine m { c.newRoutine b with left := 16 * n }

/-- LOAD_TRIE (R154). -/
def execLoadTrie (m : Mbx) (s : State) : Host.Outcome State Fault Refusal :=
  .next { s with unit := s.unit.applyCmd m 0x0302 fun c b => c.loadTrie m b }

/-- The blocks that a byte string holds. -/
def trieBlocks (bs : List Byte) : List (BitVec 128) :=
  (List.range (bs.length / 16)).map fun i => BitVec.ofNat 128 (leAt bs (16 * i) 16)

/-- Requests bound to an extent start again at its root. -/
def Chip.resetCursors (c : Chip) (ext : Nat) : Chip :=
  { c with req := c.req.map fun e =>
      if e.2.trieV ∧ e.2.trie.toNat = ext then (e.1, { e.2 with cursor := 0 }) else e }

/-- An image takes effect in its extent; TRIE_RESET if it replaces one. -/
def Chip.putTrie (c : Chip) (ext : Nat) (tag : BitVec 12) (bs : List Byte) : Chip :=
  let had := (tget c.trie ext).isSome
  let t : TrieExt := { tag := tag, blocks := trieBlocks bs, bad := [] }
  let c := { c with trie := tset c.trie ext (some t) }
  if had then (c.resetCursors ext).note .trieReset else c

/-- LOAD_TRIE_COMMIT (R158). -/
def execLoadTrieCommit (m : Mbx) (s : State) : Host.Outcome State Fault Refusal :=
  .next { s with unit := s.unit.commitCmd m 0x0302 fun c b _ =>
    (c.putTrie b.target (BitVec.ofNat 12 (b.pay 12 2)) (c.staged m)).finish m 0x0000 }

/-! ### LOAD_DENYLIST (R141, R145, R148, R387) -/

/-- A request held for a bad mask page runs again once no mask it reads is bad (R387). -/
def Chip.freeMaskHold (c : Chip) (q : Nat) : Chip :=
  let e := c.rq q
  if (c.ax q).maskHeld ∧ e.state = .held ∧ e.hold = .rowFault ∧ !c.maskFault q then
    (c.modRq q fun e => { e with state := .active, hold := .none }).modAx q fun a => { a with maskHeld := false }
  else c

/-- Requests held for a bad mask page, after a reload. -/
def Chip.freeMaskHolds (c : Chip) : Chip := c.liveIds.foldl Chip.freeMaskHold c

/-- A bitmap in package SRAM. -/
def Chip.bitmapAt (c : Chip) (addr : Nat) (i : Nat) : Byte := tget c.psram (addr + i)

/-- The pages of a deny list: those with a set bit. -/
def Plan.denySlots (p : Plan) (bits : Nat → Byte) : List (Nat × Nat) :=
  p.maskSlots.filter fun s => (p.maskPage bits (s.2 / 32) (s.2 % 32)).any fun b => b ≠ 0

/-- A load begins with a bitmap copied into newly allocated pages, or ends with POOL_FULL at its commit (R141). -/
def Chip.beginMask (c : Chip) (m : Mbx) (b : Mailbox) (p : Plan) (use : PageUse) (slots : List (Nat × Nat)) (addr : Nat) : Chip :=
  match Chip.allocAll use slots c [] with
  | (none, c) => c.beginRoutine m { c.newRoutine b with failed := some 0x0028 }
  | (some pages, c) => ((c.writeMask p (c.bitmapAt addr) pages).loading p.maskLen).beginRoutine m (c.newRoutine b 1 pages)

/-- LOAD_DENYLIST of a tenant. -/
def Chip.loadDenylist (c : Chip) (m : Mbx) (b : Mailbox) : Chip :=
  let n := b.pay 8 4
  if 4096 ≤ b.target then c.finish m 0x0015
  else if b.pay 12 4 ≠ 0 then c.finish m 0x0012
  else if n = 0 then c.beginRoutine m (c.newRoutine b)
  else match c.plan.cur with
    | none => c.finish m 0x0021
    | some p =>
      if n ≠ p.maskLen then c.finish m 0x0020
      else c.beginMask m b p .deny (p.denySlots (c.bitmapAt (b.pay 0 8))) (b.pay 0 8)

/-- LOAD_DENYLIST (R141). -/
def execLoadDenylist (m : Mbx) (s : State) : Host.Outcome State Fault Refusal :=
  .next { s with unit := s.unit.applyCmd m 0x0303 fun c b => c.loadDenylist m b }

/-- The new list takes effect and the old pages are freed; length 0 removes the list. -/
def Chip.putDeny (c : Chip) (t : Nat) (pages : List (Nat × Nat × Nat)) : Chip :=
  let c := c.dropAll (tablePages (tget c.deny t).pages)
  ({ c with deny := tset c.deny t { pages := pageTable pages, bad := false } }).freeMaskHolds

/-- LOAD_DENYLIST_COMMIT (R333). -/
def execLoadDenylistCommit (m : Mbx) (s : State) : Host.Outcome State Fault Refusal :=
  .next { s with unit := s.unit.commitCmd m 0x0303 fun c b r =>
    match r.failed with
    | some st => c.finish m st
    | none => (c.putDeny b.target r.pages).finish m 0x0000 }

/-! ### BIND_MASK (R146, R147, R151, R252) -/

/-- A slot's mode, and a slot's MASKID. -/
def ReqEntry.slotMode (e : ReqEntry) (slot1 : Bool) : BitVec 2 := if slot1 then e.slot1 else e.slot0
def ReqEntry.setMode (e : ReqEntry) (slot1 : Bool) (mode : BitVec 2) : ReqEntry :=
  if slot1 then { e with slot1 := mode } else { e with slot0 := mode }
def ReqEntry.setMaskId (e : ReqEntry) (slot1 : Bool) (id : BitVec 12) : ReqEntry :=
  if slot1 then { e with maskid1 := id } else { e with maskid0 := id }

/-- A slot takes a mode: what it held before is released, grammar masks if it was the STREAM slot and leaves it. -/
def Chip.setSlot (c : Chip) (q : Nat) (slot1 : Bool) (mode : BitVec 2) : Chip :=
  let was := (c.rq q).slotMode slot1
  let c := c.unbindSlot q slot1
  let c := if was = 3#2 ∧ mode ≠ 3#2 then c.freeGrammar q fun _ => true else c
  (c.modRq q fun e => e.setMode slot1 mode).flagClamped q

/-- The status with which a static binding is refused at its application. -/
def Chip.staticRefusal (c : Chip) (m : Mbx) (tenant : BitVec 12) (id : Nat) (tag : BitVec 12) (addr : Nat) : Option Half :=
  let s := tget c.statics id
  if addr = 0 then
    if !s.resident then some 0x0020 else if !tagOk s.tag tenant then some 0x0023 else none
  else if c.plan.cur.isNone then some 0x0021
  else if (s.resident && decide (s.tag ≠ tag)) || !tagOk tag tenant || (decide (tag = 0#12) && !c.rbit 0x120 m.val) then some 0x0023
  else none

/-- BIND_MASK of a request. -/
def Chip.bindMask (c : Chip) (m : Mbx) (b : Mailbox) : Chip :=
  let q := b.target
  let slot1 := b.pay 0 1 == 1
  let mode := BitVec.ofNat 2 (b.pay 1 1)
  let id := b.pay 2 2
  let addr := b.pay 8 8
  match c.needLive b with
  | some st => c.finish m st
  | none =>
    if 2 ≤ b.pay 0 1 ∨ 4 ≤ b.pay 1 1 ∨ 4096 ≤ id ∨ 4096 ≤ b.pay 4 2 ∨ b.pay 6 2 ≠ 0 then c.finish m 0x0012
    else if mode = 3#2 ∧ (c.rq q).slotMode (!slot1) = 3#2 then c.finish m 0x0020
    else if mode = 0#2 ∨ mode = 3#2 then
      ((c.setSlot q slot1 mode).liftHold q [.rowFault, .noCandidate]).finish m 0x0000
    else match c.staticRefusal m (c.rq q).tenant id (BitVec.ofNat 12 (b.pay 4 2)) addr, c.plan.cur with
      | some st, _ => c.finish m st
      | none, some p =>
        let c := c.liftHold q [.rowFault, .noCandidate]
        if addr = 0 then c.beginRoutine m (c.newRoutine b) else c.beginMask m b p .static p.maskSlots addr
      | none, none => (c.liftHold q [.rowFault, .noCandidate]).beginRoutine m (c.newRoutine b)

/-- BIND_MASK (R147). -/
def execBindMask (m : Mbx) (s : State) : Host.Outcome State Fault Refusal :=
  .next { s with unit := s.unit.applyCmd m 0x0304 fun c b => c.bindMask m b }

/-- One binding more. -/
def StaticMask.bindOne (s : StaticMask) : StaticMask := { s with binds := s.binds + 1 }

/-- A slot binds a static mask that is resident. -/
def Chip.bindStatic (c : Chip) (q : Nat) (slot1 : Bool) (mode : BitVec 2) (id : Nat) : Chip :=
  let c := { c with statics := tmod c.statics id StaticMask.bindOne }
  let c := (c.setSlot q slot1 mode).modRq q fun e => e.setMaskId slot1 (BitVec.ofNat 12 id)
  (c.modAx q fun a => if slot1 then { a with bound1 := some id } else { a with bound0 := some id }).freeMaskHolds

/-- A copied bitmap becomes the static mask; the pages of the one it replaces are freed. -/
def Chip.putStatic (c : Chip) (id : Nat) (tag : BitVec 12) (pages : List (Nat × Nat × Nat)) : Chip :=
  let s := tget c.statics id
  let c := c.dropAll (tablePages s.pages)
  let x : StaticMask := { resident := true, tag := tag, pages := pageTable pages, binds := s.binds, bad := false }
  { c with statics := tset c.statics id x }

/-- The static binding or the reload takes effect (log entry 80). -/
def Chip.bindCommit (c : Chip) (m : Mbx) (b : Mailbox) (r : Routine) : Chip :=
  let q := b.target
  let slot1 := b.pay 0 1 == 1
  let mode := BitVec.ofNat 2 (b.pay 1 1)
  let id := b.pay 2 2
  let tag := BitVec.ofNat 12 (b.pay 4 2)
  let s := tget c.statics id
  match r.failed with
  | some st => c.finish m st
  | none =>
    if (c.needLive b).isSome then (c.dropAll r.pages).finish m 0x0021
    else if r.key = 1 then
      if s.resident ∧ s.tag ≠ tag then (c.dropAll r.pages).finish m 0x0023
      else ((c.putStatic id tag r.pages).bindStatic q slot1 mode id).finish m 0x0000
    else if !s.resident then c.finish m 0x0020
    else if !tagOk s.tag (c.rq q).tenant then c.finish m 0x0023
    else (c.bindStatic q slot1 mode id).finish m 0x0000

/-- BIND_MASK_COMMIT (R147). -/
def execBindMaskCommit (m : Mbx) (s : State) : Host.Outcome State Fault Refusal :=
  .next { s with unit := s.unit.commitCmd m 0x0304 fun c b r => c.bindCommit m b r }

/-! ### ROUTINE_FAULT (R258, R335) -/

/-- ROUTINE_FAULT (R335). -/
def execRoutineFault (m : Mbx) (s : State) : Host.Outcome State Fault Refusal :=
  .next { s with unit := s.unit.routineFault m.val }

end Sys2Proof.Machine
end

