-- ==== Sys2Proof/Machine/Background.lean ====
section
/-!
DEFINITION. The background slot, repairs, boot BIST, and the commands about them (R380 to R400, R418 to R422).
-/
namespace Sys2Proof.Machine

/-! ### The background slot (R390, R392, R398) -/

/-- An atoll is no longer due for a column diagnostic. -/
def Chip.unsuspect (c : Chip) (p : Nat) : Chip := { c with rpr := { c.rpr with suspect := c.rpr.suspect.filter fun x => x ≠ p } }

/-- The copies of the staged repairs go on for a slot of n UCLK (R392, R396) (log entry 45). -/
def Chip.copySlot (c : Chip) (n : Nat) : Chip :=
  { c with rpr := { c.rpr with staged := c.rpr.staged.map fun x => (x.1, x.2.1 - n, x.2.2) } }

/-- The atoll that the slot's column diagnostic takes: one with a repeated checksum mismatch, else the next of the rotation (R392). -/
def Chip.diagAtoll (c : Chip) : Nat := (c.rpr.suspect.head?).getD c.rpr.nextCol

/-- Does the slot's lane self-test take a physical lane: one that had a strike when the slot began, or one of the next k in ascending
order, wrapping (R392)? -/
def Chip.laneTested (c : Chip) (struck : List (Nat × Nat)) (p l : Nat) : Bool :=
  struck.contains (p, l) || (decide (l < 264 ∧ p < 17) && decide ((l + 264 - c.rfld 0x17C 16 8) % 264 < cdiv c.periodUs 2000))

/-- A physical lane, or the column that pairs with it, is faulty: the logical lane it serves is retired; an idle spare is never taken
(R390, R398). -/
def Chip.laneFaulty (c : Chip) (p l : Nat) : Chip :=
  match c.logicalLane p l with
  | some n => c.stageLane p n
  | none =>
    if 256 ≤ l ∧ !(c.spareHalf p (l - 256)).testBit 15 ∧ !c.rpr.dead.contains (p, l - 256) then
      { c with rpr := { c.rpr with dead := (p, l - 256) :: c.rpr.dead } }
    else c

/-- The checksum column of an atoll is suspect, and a spare column replaces it (R398). -/
def Chip.cksumSuspect (c : Chip) (p : Nat) : Chip := ((c.unsuspect p).note .cksumSuspect (p + 1)).stageSpare p (.cksum p)

/-- What one finding of a background job leads to, in a slot whose self-test puts the given lanes first. -/
def Chip.found (struck : List (Nat × Nat)) (c : Chip) : Finding → Chip
  | .corrected site addr pass => c.scrubbed site addr pass
  | .uncorrectable site addr => c.ueFound site addr
  | .laneFails p l => if c.laneTested struck p l then (c.note .stFail (p + 1)).laneFaulty p l else c
  | .engineFails p => (c.note .engineFail (p + 1)).stageAtoll p
  | .converterFails => (c.note .convFail (portSrc (c.rfld 0x17C 3 0))).quarantine (c.rfld 0x17C 3 0)
  | .columnFails l => (c.unsuspect c.diagAtoll).laneFaulty c.diagAtoll l
  | .cksumFails => c.cksumSuspect c.diagAtoll
  | .arrayFails => ((c.unsuspect c.diagAtoll).note .stFail (c.diagAtoll + 1)).stageAtoll c.diagAtoll

/-- The jobs of a slot. A lane that has a strike in the slot waits for the next. Where the diagnostic of an atoll with a repeated mismatch finds no column at fault, its checksum column is suspect
(R398). -/
def Chip.jobs (c : Chip) (found : List Finding) : Chip :=
  let d := c.diagAtoll
  let repeated := c.rpr.suspect.contains d
  let struck := c.rpr.struck
  let c := found.foldl (Chip.found struck) { c with rpr := { c.rpr with struck := [] } }
  let c := if repeated ∧ c.rpr.suspect.contains d then c.cksumSuspect d else c
  { c with rpr := { c.rpr with nextCol := if repeated then c.rpr.nextCol else (c.rpr.nextCol + 1) % 17 } }

/-- The self-test rotation moves on (R392, R421). -/
def Chip.rotate (c : Chip) : Chip :=
  let k := cdiv c.periodUs 2000
  let lane := (c.rfld 0x17C 16 8 + k) % 264
  let conv := (c.rfld 0x17C 3 0 + 1) % 9
  let c := c.setReg 0x17C (BitVec.ofNat 32 (k * 2 ^ 24 + lane * 256 + conv))
  (List.range 17).foldl (fun c p => c.eventAtl p 0x133 k) c

/-- Crossings re-train in the first slot at full clock (R67). -/
def Chip.retrainNow (c : Chip) : Chip :=
  if c.pwr.retrainDue ∧ !c.pwr.halved then
    (({ c with pwr := { c.pwr with retrainDue := false } }).orReg 0x024 0x10#32).note .retrain
  else c

/-- The background slot of the step in progress, T+2,048 to P0 − 1 and once in a step (R52). -/
def Chip.background (c : Chip) (found : List Finding) : Chip :=
  if !c.runs ∨ !c.stp.planned ∨ c.stp.bgDone ∨ c.since < 2048 ∨ c.p0 ≤ c.since then c
  else (({ c.retrainNow with stp := { c.retrainNow.stp with bgDone := true } }).jobs found).copySlot c.stp.bg |>.rotate

/-- BACKGROUND_SLOT (R392). -/
def execBackgroundSlot (found : List Finding) (s : State) : Host.Outcome State Fault Refusal :=
  .next { s with unit := s.unit.background found }

/-! ### Repairs take effect (R396) -/

/-- The lowest unused spare lane of a physical atoll takes a value for its half register. -/
def Chip.takeSpare (c : Chip) (p v : Nat) : Chip :=
  match c.freeSpares p with
  | [] => c
  | k :: _ => c.setSpareHalf p k v

/-- A row of an SRAM macro is replaced by a spare row. -/
def Chip.rowSpared (c : Chip) (mem addr : Nat) : Chip := ((c.takeRowSpare mem addr).orReg 0x160 0x80#32).note .rowSpared

/-- The registers of an atoll's window that follow the logical atoll: the plan's, the pool's and the bank's. -/
def atollPlanRegs : List Nat := [0x00, 0x04, 0x08, 0x40, 0x44, 0x48, 0x60, 0x64]

/-- A restored instruction word is the image's again (R388, R396). -/
def Chip.rewriteWord (c : Chip) (x : Nat × Nat) : Chip :=
  { c with bank := tset c.bank (bankKey x.1 c.bankSel (x.2 % 8192)) (BitVec.ofNat 64 (c.imgWord c.plan.addr x.1 (x.2 % 8192))) }

/-- The spare atoll serves the logical atoll of a physical one; its instruction banks come from the plan image (R396). -/
def Chip.moveAtoll (c : Chip) (p l : Nat) : Chip :=
  let phys := c.rfld 0x164 12 8
  let c := atollPlanRegs.foldl (fun c o => c.setAtl phys o (c.atlReg p o)) c
  let c := c.setReg 0x164 (BitVec.ofNat 32 (2 ^ 31 + p * 65536 + phys * 256 + l))
  let c := (c.rpr.restore.filter fun x => x.1 = l).foldl Chip.rewriteWord c
  { c with rpr := { c.rpr with restore := c.rpr.restore.filter fun x => x.1 ≠ l } }

/-- What one repair makes of the repair map (R396, R400). -/
def Chip.mapRepair (c : Chip) : Part → Chip
  | .row m a => c.takeRowSpare m a
  | .lane p l => c.takeSpare p (0x8000 + l)
  | .cksum p => c.takeSpare p 0xC000
  | .atoll p => match c.logicalOf p with
    | none => c
    | some l => c.moveAtoll p l

/-- One repair takes effect. -/
def Chip.applyRepair (c : Chip) : Part → Chip
  | .row m a => c.rowSpared m a
  | .lane p l => ((c.mapRepair (.lane p l)).orReg 0x160 0x40#32).note .laneRetired (p + 1)
  | .cksum p => (c.mapRepair (.cksum p)).orReg 0x160 8#32
  | .atoll p => if (c.logicalOf p).isNone then c else ((c.mapRepair (.atoll p)).orReg 0x160 0x20#32).note .atollRetired (p + 1)

/-- Is a staged plan due to switch in this cycle, or has one switched (R282)? -/
def Chip.switchDue (c : Chip) : Bool :=
  c.stp.switched || c.plan.staged.any fun st => (c.mb st.mbx).routine.any fun r => decide (c.tick.cnt ≠ r.tick ∧ r.left = 0)

/-- Staged repairs whose copy completed in an earlier step take effect at the T+0 of this step, unless a plan switches
then (R312, R396, R422). -/
def Chip.repairNow (c : Chip) : Chip :=
  if !c.atT0 ∨ c.switchDue ∨ c.stopped then c
  else
    let ripe (x : Part × Nat × DWord) : Bool := x.2.1 = 0 ∧ x.2.2 ≠ c.tick.cnt
    let due := c.rpr.staged.filter ripe
    due.foldl (fun c x => c.applyRepair x.1) { c with rpr := { c.rpr with staged := c.rpr.staged.filter fun x => !ripe x } }

/-- REPAIR (R396). -/
def execRepair (s : State) : Host.Outcome State Fault Refusal := .next { s with unit := s.unit.repairNow }

/-! ### IMAGE_RESTORE (R388) -/

/-- A word is restored: it is rewritten from the image into a spare row. With no spare row left the atoll is repaired instead, and until
then the word stays bad (R396). -/
def Chip.restoreWord (c : Chip) (x : Nat × Nat) : Chip :=
  let site := MemSite.atollImem x.1 x.2
  if c.spareRowLeft (siteCode site) (c.placeOf site x.2) then
    let c := (c.rewriteWord x).note .imageRestore (c.physOf x.1 + 1)
    ({ c with rpr := { c.rpr with restore := c.rpr.restore.erase x } }).rowSpared (siteCode site) (c.placeOf site x.2)
  else c.stageAtoll (c.physOf x.1)

/-- Failed instruction words are restored at a tick, or the unit fail-stops where the image fails its CRC. -/
def Chip.restoreImage (c : Chip) (imageOk : Bool) : Chip :=
  if c.rpr.restore = [] ∨ c.stopped ∨ !c.atT0 then c
  else if !imageOk ∨ !c.imgSound c.plan.addr then c.failStop 5
  else c.rpr.restore.foldl Chip.restoreWord c

/-- IMAGE_RESTORE (R388). -/
def execImageRestore (imageOk : Bool) (s : State) : Host.Outcome State Fault Refusal :=
  .next { s with unit := s.unit.restoreImage imageOk }

/-! ### Boot BIST (R347, R400) -/

/-- A permanent fault that BIST finds is repaired in the map, with the spares that the fuses have left. -/
def Chip.bistFault (c : Chip) (x : BistFault) : Chip :=
  let c : Chip := match x with
    | .row site addr => c.spareRow site addr
    | .lane p l => c.laneFaulty p l
    | .cksum p => c.stageSpare p (.cksum p)
    | .atoll p => c.stageAtoll p
    | .port p =>
      if p = 8 then
        let c := c.orReg (fabOff p) 0x80#32
        if c.rbit 0x168 31 then c.failStop 1 else c
      else if c.rbit 0x168 31 ∨ c.rfld (fabOff 8) 7 7 = 1 then c.failStop 1
        else c.setReg 0x168 (BitVec.ofNat 32 (2 ^ 31 + p * 16 + p))
  c.rpr.staged.foldl (fun c s => c.mapRepair s.1) { c with rpr := { c.rpr with staged := [] } }

/-- The stages of the boot that end by themselves (R347, R458): BIST, with the repair map as it completes it, at most 130 ms after reset
release; the boot ROM, at most 160 ms after it. -/
def Chip.bootRun (c : Chip) : Chip :=
  if c.boot = 1 ∧ min Config.bistEnd 136500000 ≤ c.clk.now then
    let u := c.rpr.bist.foldl Chip.bistFault c
    { u.setBoot 2 with rpr := { u.rpr with bist := [] } }
  else if c.boot = 2 ∧ min Config.romEnd 168000000 ≤ c.clk.now then c.setBoot 3
  else c

/-! ### RETIRE_LANE and REPAIR_STATUS (R418, R419) -/

/-- Is a spare lane or column of a physical atoll left that no staged repair takes? -/
def Chip.spareLeft (c : Chip) (p : Nat) : Bool :=
  decide ((c.rpr.staged.filter fun s => s.1.takesSpare p).length < (c.freeSpares p).length)

/-- RETIRE_LANE (R418): NO_SPARE stages nothing and stops nothing (R419). -/
def Chip.retireLane (c : Chip) (m : Mbx) (b : Mailbox) : Chip :=
  let t := b.target
  if t < 4096 then
    let p := c.physOf (t / 256)
    let same := c.rpr.staged.any fun s => s.1 == .lane p (t % 256) || s.1 == .atoll p
    if !same ∧ !c.spareLeft p ∧ !c.spareAtollFree then c.finish m 0x0071
    else (c.stageLane p (t % 256)).finish m 0x0000
  else if 65536 ≤ t ∧ t < 65552 then
    let p := c.physOf (t - 65536)
    let same := c.rpr.staged.any fun s => s.1 == .atoll p
    if !same ∧ !c.spareAtollFree then c.finish m 0x0071 else (c.stageAtoll p).finish m 0x0000
  else c.finish m 0x0015

/-- RETIRE_LANE (R418). -/
def execRetireLane (m : Mbx) (s : State) : Host.Outcome State Fault Refusal :=
  .next { s with unit := s.unit.applyCmd m 0x0601 fun c b => c.retireLane m b }

/-- REPAIR_STATUS (R418). -/
def Chip.repairStatus (c : Chip) (m : Mbx) (b : Mailbox) : Chip :=
  let t := b.target
  if t = 0 then c.finish m 0x0000 ((List.range 8).flatMap fun i => toLE 4 (c.ctrlWord (0x160 + 4 * i)).toNat)
  else if 65536 ≤ t ∧ t < 69632 then c.finish m 0x0000 (c.mr (t - 65536)).bytes
  else if 131072 ≤ t ∧ t < 131088 then
    c.finish m 0x0000 ((List.range 4).flatMap fun i => toLE 4 (c.atlReg (c.physOf (t - 131072)) (0x80 + 4 * i)).toNat)
  else c.finish m 0x0015

/-- REPAIR_STATUS (R418). -/
def execRepairStatus (m : Mbx) (s : State) : Host.Outcome State Fault Refusal :=
  .next { s with unit := s.unit.applyCmd m 0x0600 fun c b => c.repairStatus m b }

end Sys2Proof.Machine
end

