-- ==== Sys2Proof/Machine/Streams.lean ====
section
/-!
DEFINITION. The two streams of an atoll: entries, program counters, loops, waits, castling and skipped words (R90, R279, R285
to R288, R297, R301 to R308).
-/
namespace Sys2Proof.Machine

/-- A logical atoll's sequencer. -/
def Chip.atl (c : Chip) (a : Nat) : AtollSt := tget c.atoll a
/-- Change a logical atoll's sequencer. -/
def Chip.modAtl (c : Chip) (a : Nat) (f : AtollSt → AtollSt) : Chip := { c with atoll := tmod c.atoll a f }

/-! ### Entries (R279, R285) -/

/-- The entry of an atoll for a phase: the layout slot of DRAFTN, the template, the phase. A plan without a layout for the DRAFTN in force
gives no entry (log entry 82). -/
def Chip.entryWord (c : Chip) (a phase : Nat) : Nat :=
  match c.plan.cur with
  | none => 0
  | some p =>
    let slot := p.layouts.getD c.draftN 0xFF
    if 4 ≤ slot then 0 else (tget c.bank (bankKey a c.bankSel ((4 * slot + c.stp.template) * 16 + phase))).toNat

/-- A tile stream that has ended begins the phases whose input fence has come, one after the other; an entry that is not
VALID leaves it idle for its phase. -/
def Chip.startTile (c : Chip) (a : Nat) : (fuel : Nat) → Chip
  | 0 => c
  | n + 1 =>
    let x := c.atl a
    if x.tileRuns ∨ c.stp.fenced ≤ x.tilePhase then c
    else
      let w := c.entryWord a x.tilePhase
      Chip.startTile (c.modAtl a fun x => { x with
        tilePhase := x.tilePhase + 1, tileRuns := w.testBit 0, tilePc := fld w 28 16, tileWait := .none }) a n

/-- The same for a lane stream. -/
def Chip.startLane (c : Chip) (a : Nat) : (fuel : Nat) → Chip
  | 0 => c
  | n + 1 =>
    let x := c.atl a
    if x.laneRuns ∨ c.stp.fenced ≤ x.lanePhase then c
    else
      let w := c.entryWord a x.lanePhase
      Chip.startLane (c.modAtl a fun x => { x with
        lanePhase := x.lanePhase + 1, laneRuns := w.testBit 0, lanePc := fld w 44 32, laneWait := .none, loops := []
        left := true }) a n

/-- The input fence of a phase has come: streams that have ended begin it. -/
def Chip.passFence (c : Chip) (phase : Nat) : Chip :=
  let c := { c with stp := { c.stp with fenced := max c.stp.fenced (phase + 1) } }
  (List.range 16).foldl (fun c a => (c.startTile a 16).startLane a 16) c

/-- A stream ends its phase. -/
def Chip.endTile (c : Chip) (a : Nat) : Chip := (c.modAtl a fun x => { x with tileRuns := false, scoreAt := 0 }).startTile a 16
def Chip.endLane (c : Chip) (a : Nat) : Chip := (c.modAtl a fun x => { x with laneRuns := false, loops := [] }).startLane a 16

/-! ### Waits (R288, R297) -/

/-- A wait is over. -/
def Wait.over (w : Wait) (now : Nat) : Bool :=
  match w with
  | .none => true
  | .castling => false
  | .untilUclk t => decide (t ≤ now)

/-- May the atoll's tile stream, or its lane stream, run its next word now? At PC 8,192 there is none (R286). -/
def Chip.tileReady (c : Chip) (a : Nat) : Bool :=
  c.runs && (c.atl a).tileRuns && decide ((c.atl a).tilePc < 8192) && (c.atl a).tileWait.over c.clk.ucyc
def Chip.laneReady (c : Chip) (a : Nat) : Bool :=
  c.runs && (c.atl a).laneRuns && decide ((c.atl a).lanePc < 8192) && (c.atl a).laneWait.over c.clk.ucyc

/-- The cycle of a phase's input or mask fence (R50, R53). -/
def Chip.fenceAt (c : Chip) (phase : Nat) (mask : Bool) : Nat :=
  match c.plan.cur with
  | none => c.stp.t0 + c.p0
  | some p => let f := p.fence c.stp.template phase
              c.stp.t0 + c.p0 + (if mask then f.2 else f.1)

/-! ### Skipped words (R302 to R308) -/

/-- The event of a skip by its cause. -/
def skipEvent (tile : Bool) (cause : Nat) : Ev :=
  if cause = 4 then .pcRange else if tile then .tcmdBad
  else if cause = 0 then .insnUndef else if cause = 1 then .insnRsvd else if cause = 2 then .descBad
  else if cause = 5 then .predSplit else .loopBad

/-- The registers of a skip: ATL_ILLCNT, ATL_IBANK.ILLEGAL, ATL_ILLINFO and ATL_ILLWORD (R304). -/
def Chip.skipRegs (c : Chip) (p info : Nat) (word : DWord) : Chip :=
  let c := c.setAtl p 0x6C (sat32 (c.atlReg p 0x6C) 1)
  let c := c.orAtl p 0x64 1#32
  ((c.setAtl p 0x70 (BitVec.ofNat 32 info)).setAtl p 0x74 (word.setWidth 32)).setAtl p 0x78 ((word >>> 32).setWidth 32)

/-- A skip is counted and recorded; one event per word per step, with the first three items of R304: atoll, bank, stream. -/
def Chip.skipped (c : Chip) (a : Nat) (tile : Bool) (cause desc : Nat) (word : DWord) : Chip :=
  let x := c.atl a
  let pc := if tile then x.tilePc else x.lanePc
  let p := c.physOf a
  let info := b2n tile * 2 ^ 31 + b2n c.bankSel * 2 ^ 30 + cause * 2 ^ 27 + desc * 2 ^ 21 + pc % 8192
  let d := c.skipRegs p info word
  let d := if tile then d else d.eventAtl p 0x111
  let key := 2 * pc + b2n tile
  if x.skipLogged.contains key then d
  else (d.modAtl a fun x => { x with skipLogged := key :: x.skipLogged }).note (skipEvent tile cause) (p + 1) a
    (b2n c.bankSel) (b2n tile)

/-! ### Program counters and loops (R286, R301) -/

/-- A tile stream at PC 8,192 ends, once a wait that its last word has left is over (R286). -/
def Chip.tileRange (c : Chip) (a : Nat) : Chip :=
  let x := c.atl a
  if x.tileRuns ∧ 8192 ≤ x.tilePc ∧ x.tileWait.over c.clk.ucyc then (c.skipped a true 4 0 0).endTile a else c

/-- The tile stream goes on to its next word. -/
def Chip.tileNext (c : Chip) (a : Nat) : Chip := (c.modAtl a fun x => { x with tilePc := x.tilePc + 1, scoreAt := 0 }).tileRange a

/-- A lane's registers. -/
def Chip.ln (c : Chip) (g : Nat) : Lane := tget c.lane g
/-- Change a lane's registers. -/
def Chip.modLn (c : Chip) (g : Nat) (f : Lane → Lane) : Chip := { c with lane := tmod c.lane g f }
/-- A scalar register takes a value in every lane of an atoll. -/
def Chip.setAllS (c : Chip) (a s : Nat) (v : Word) : Chip :=
  (List.range 256).foldl (fun c l => c.modLn (256 * a + l) fun x => { x with s := tset x.s s v }) c

/-- The index register of a loop takes a value. -/
def Chip.setIndex (c : Chip) (a : Nat) (idx : Option Nat) (v : Word) : Chip :=
  match idx with
  | some s => c.setAllS a s v
  | none => c

/-- Where the lane stream goes after the word before `next`: back to the start of a loop with trips left, whose index
register counts on; out of loops that have none. -/
def Chip.laneGoto (c : Chip) (a next : Nat) : List LoopFrame → Chip
  | [] => c.modAtl a fun x => { x with lanePc := next, loops := [] }
  | f :: r =>
    if next ≠ f.start + f.len then c.modAtl a fun x => { x with lanePc := next, loops := f :: r }
    else if f.left = 0 then Chip.laneGoto c a next r
    else
      (c.setIndex a f.idx (BitVec.ofNat 32 (f.iter + 1))).modAtl a fun x => { x with
        lanePc := f.start, loops := { f with left := f.left - 1, iter := f.iter + 1 } :: r }

/-- A lane stream at PC 8,192 ends, once a wait that its last word has left is over (R286). -/
def Chip.laneRange (c : Chip) (a : Nat) : Chip :=
  let x := c.atl a
  if x.laneRuns ∧ 8192 ≤ x.lanePc ∧ x.laneWait.over c.clk.ucyc then (c.skipped a false 4 0 0).endLane a else c

/-- The lane stream goes on to its next word. -/
def Chip.laneNext (c : Chip) (a : Nat) : Chip := (c.laneGoto a ((c.atl a).lanePc + 1) (c.atl a).loops).laneRange a

/-- Streams that wait at PC 8,192 end in the cycle in which their wait is over. -/
def Chip.rangeEnds (c : Chip) : Chip :=
  if !c.runs then c else (List.range 16).foldl (fun c a => (c.tileRange a).laneRange a) c

/-- A lane word takes its turn: its wait is over, it is counted, and its reads and its strait transfers meet what lies in their way (R380,
R381). -/
def Chip.laneTurn (c : Chip) (a : Nat) (f : LaneF) : Chip :=
  (((c.modAtl a fun x => { x with laneWait := .none }).eventAtl (c.physOf a) 0x110).reads f.ecc).straits f.strait

/-- A lane word is skipped in every lane (R302). -/
def Chip.laneSkip (c : Chip) (a cause desc op : Nat) (f : LaneF) : Chip := (c.skipped a false cause desc (laneWord op f)).laneNext a

/-- A lane word of a defined opcode with its reserved fields checked: what it does, then the next word. -/
def Chip.laneStep (c : Chip) (a op : Nat) (f : LaneF) (act : Chip → Chip) : Chip :=
  if !c.laneReady a then c
  else if laneReserved op f then (c.laneTurn a f).laneSkip a 1 0 op f
  else act (c.laneTurn a f)

/-! ### Castling (R90) -/

/-- The set that becomes active begins a new accumulation (R288). -/
def SetInfo.fresh (i : SetInfo) : SetInfo := { i with tiles := 0 }

/-- The sets are swapped; a lane stream in WAITC goes on. -/
def Chip.castle (c : Chip) (a : Nat) : Chip :=
  c.modAtl a fun x => { x with
    activeSet := !x.activeSet, shadowFull := true, tileWait := .none, taken := false, given := false
    set0 := if x.activeSet then x.set0.fresh else x.set0, set1 := if x.activeSet then x.set1 else x.set1.fresh
    laneWait := if x.laneWait = .castling then .none else x.laneWait }

/-- A castling point: it waits until the shadow set has been drained. -/
def Chip.castlePoint (c : Chip) (a : Nat) : Chip :=
  if (c.atl a).shadowFull then c.modAtl a fun x => { x with tileWait := .castling } else c.castle a

/-- The shadow set is drained: a castling point that waited for it takes place. -/
def Chip.drain (c : Chip) (a : Nat) : Chip :=
  let c := c.modAtl a fun x => { x with shadowFull := false }
  if (c.atl a).tileWait = .castling then c.castle a else c

/-! ### Tile words other than SCORE (R287, R288, R303) -/

/-- A tile word takes its turn: its wait is over, and its fetch meets the bad words that lie in its way (R381). -/
def Chip.tileTurn (c : Chip) (a : Nat) (ecc : List ReadFind) : Chip := (c.modAtl a fun x => { x with tileWait := .none }).reads ecc

/-- A tile word of a TOP code with its fields checked; a word of another code is not this command. -/
def Chip.tileStep (c : Chip) (a top : Nat) (w : TileWord) (act : Chip → Chip) : Chip :=
  if !c.tileReady a ∨ fld w.word.toNat 63 60 ≠ top then c
  else if tileReserved w.word.toNat then ((c.tileTurn a w.ecc).skipped a true 1 0 w.word).tileNext a
  else act (c.tileTurn a w.ecc)

/-- WAITF of the tile stream (R288). -/
def execTileWaitf (at_ : Atoll) (word : TileWord) (s : State) : Host.Outcome State Fault Refusal :=
  .next { s with unit := s.unit.tileStep at_ 0x2 word fun c =>
    let t := c.fenceAt (fld word.word.toNat 3 0) false
    (c.modAtl at_ fun x => if t ≤ c.clk.ucyc then x else { x with tileWait := .untilUclk t }).tileNext at_ }

/-- NOP of the tile stream (R287). -/
def execTileNop (at_ : Atoll) (word : TileWord) (s : State) : Host.Outcome State Fault Refusal :=
  .next { s with unit := s.unit.tileStep at_ 0xE word fun c => c.tileNext at_ }

/-- END: the tile stream of the phase ends (R285). -/
def execTileEnd (at_ : Atoll) (word : TileWord) (s : State) : Host.Outcome State Fault Refusal :=
  .next { s with unit := s.unit.tileStep at_ 0xF word fun c => c.endTile at_ }

/-- TCMD_BAD: a tile command with an undefined TOP is skipped (R303). -/
def execTcmdBad (at_ : Atoll) (word : TileWord) (s : State) : Host.Outcome State Fault Refusal :=
  .next { s with unit :=
    if s.unit.tileReady at_ ∧ !tileDefined word.word.toNat then
      ((s.unit.tileTurn at_ word.ecc).skipped at_ true 0 0 word.word).tileNext at_
    else s.unit }

/-! ### Lane words that control the stream (R297, R301, R302) -/

/-- INSN_UNDEF: a lane word with an undefined opcode is skipped (R302). -/
def execInsnUndef (at_ : Atoll) (op : Byte) (f : LaneF) (s : State) : Host.Outcome State Fault Refusal :=
  .next { s with unit := if s.unit.laneReady at_ ∧ !opDefined op.toNat then (s.unit.laneTurn at_ f).laneSkip at_ 0 0 op.toNat f else s.unit }

/-- NOP (R297). -/
def execLaneNop (at_ : Atoll) (f : LaneF) (s : State) : Host.Outcome State Fault Refusal :=
  .next { s with unit := s.unit.laneStep at_ 0x00 f fun c => c.laneNext at_ }

/-- HALT: the lane stream of the phase ends (R297). -/
def execHalt (at_ : Atoll) (f : LaneF) (s : State) : Host.Outcome State Fault Refusal :=
  .next { s with unit := s.unit.laneStep at_ 0x01 f fun c => c.endLane at_ }

/-- Does a body that ends at a word pass the end of the body around it? -/
def pastLoop (loops : List LoopFrame) (stop : Nat) : Bool :=
  match loops with
  | [] => false
  | g :: _ => decide (g.start + g.len < stop)

/-- The scalar register that an operand names. -/
def Opnd.scalar : Opnd → Option Nat
  | .scal s => Option.some s
  | _ => Option.none

/-- LOOP: refused as a fifth level or past the end of the body around it (R301). -/
def Chip.loop (c : Chip) (a : Nat) (f : LaneF) : Chip :=
  let m := f.mod.toNat
  let x := c.atl a
  let start := x.lanePc + 1
  let len := fld m 27 16
  let idx := (opnd f.d).scalar
  if 4 ≤ x.loops.length ∨ pastLoop x.loops (start + len) then c.laneSkip a 6 0 0x02 f
  else
    let fr : LoopFrame := { start := start, len := len, left := fld m 15 0, idx := idx, iter := 0 }
    let c : Chip := (c.setIndex a idx 0).modAtl a fun x => { x with lanePc := start, loops := fr :: x.loops }
    c.laneRange a

/-- LOOP (R301). -/
def execLoop (at_ : Atoll) (f : LaneF) (s : State) : Host.Outcome State Fault Refusal :=
  .next { s with unit := s.unit.laneStep at_ 0x02 f fun c => c.loop at_ f }

/-- WAITC: the stream resumes after the next castling point (R297). -/
def execWaitc (at_ : Atoll) (f : LaneF) (s : State) : Host.Outcome State Fault Refusal :=
  .next { s with unit := s.unit.laneStep at_ 0x03 f fun c =>
    (c.modAtl at_ fun x => { x with laneWait := .castling, left := true }).laneNext at_ }

/-- A wait for a phase's fence; 0 where the fence has passed (R312). -/
def Chip.waitFence (c : Chip) (a : Nat) (f : LaneF) (mask : Bool) : Chip :=
  let t := c.fenceAt (fld f.mod.toNat 3 0) mask
  (c.modAtl a fun x => if t ≤ c.clk.ucyc then x else { x with laneWait := .untilUclk t }).laneNext a

/-- WAITF (R297). -/
def execWaitf (at_ : Atoll) (f : LaneF) (s : State) : Host.Outcome State Fault Refusal :=
  .next { s with unit := s.unit.laneStep at_ 0x04 f fun c => c.waitFence at_ f false }

/-- WAITM (R297). -/
def execWaitm (at_ : Atoll) (f : LaneF) (s : State) : Host.Outcome State Fault Refusal :=
  .next { s with unit := s.unit.laneStep at_ 0x05 f fun c => c.waitFence at_ f true }

end Sys2Proof.Machine
end

