-- ==== Sys2Proof/Machine/Ingress.lean ====
section
/-!
DEFINITION. Rows and grammar masks that arrive on the fabric ports, their conversion, and the two fences (R54, R81 to R86,
R106, R107, R149 to R152, R362, R465, R466).
-/
namespace Sys2Proof.Machine

/-! ### A ROW message (R465) -/

/-- KIND of a row on the unit: hidden target 1, hidden draft 2, score-in target 3, score-in draft 4. -/
def Plan.rowKind (p : Plan) (draft : Bool) : Nat := (if p.scoreIn draft then 3 else 1) + (if draft then 1 else 0)

/-- Columns of the piece that a score-in row carries. -/
def Plan.pieceCols (p : Plan) (piece : Nat) : Nat := min p.n ((piece + 1) * (4096 * p.cpl)) - piece * (4096 * p.cpl)

/-- Bytes of one element of a format. -/
def fmtBytes (fmt : Nat) : Nat := if fmt = 6 then 4 else if 4 ≤ fmt then 2 else 1

/-- Bytes of a body of n elements: an MXFP8 body ends with a scale byte per 32 elements. -/
def bodyLen (fmt n : Nat) : Nat := n * fmtBytes fmt + (if fmt = 2 ∨ fmt = 3 then cdiv n 32 else 0)

/-- The fields of a ROW header: KIND, REQUEST, OFFSET, FMT, PIECE, POSITION, PROMPT, XS. -/
structure RowHdr where
  kind : Nat
  req : Nat
  offset : Nat
  fmt : Nat
  piece : Nat
  pos : Word
  prompt : BitVec 24
  xs : Word
  rsvd : Bool
  deriving DecidableEq, Repr, Inhabited

/-- The header of a ROW message. -/
def rowHdr (m : List Byte) : RowHdr :=
  let a := leAt m 0 4
  { kind := fld a 15 12, req := fld a 11 0, offset := fld a 23 20, fmt := fld a 19 16, piece := fld a 25 24
    pos := BitVec.ofNat 32 (leAt m 4 4), prompt := BitVec.ofNat 24 (leAt m 8 3), xs := BitVec.ofNat 32 (leAt m 12 4)
    rsvd := decide (fld a 31 26 ≠ 0 ∨ leAt m 11 1 ≠ 0) }

/-- Elements of the row that a header announces. -/
def Plan.rowElems (p : Plan) (h : RowHdr) : Nat :=
  if h.kind = 1 then p.h0 else if h.kind = 2 then p.h1 else p.pieceCols h.piece

/-- ROW_BAD (R466). -/
def Chip.rowIsBad (c : Chip) (h : RowHdr) (len : Nat) : Bool :=
  match c.plan.cur with
  | none => true
  | some p =>
    let hidden := h.kind = 1 ∨ h.kind = 2
    let fp8 := h.fmt = 0 ∨ h.fmt = 1
    decide ((h.kind ≠ p.rowKind false ∧ (p.draftSrc = 0 ∨ h.kind ≠ p.rowKind true))
        ∨ (hidden ∧ (h.fmt ≠ (if h.kind = 1 then p.fmt0 else p.fmt1) ∨ h.piece ≠ 0))
        ∨ (¬ hidden ∧ (h.fmt < 4 ∨ 6 < h.fmt ∨ p.pieces ≤ h.piece)) ∨ (h.xs ≠ 0#32 ∧ ¬ fp8)
        ∨ len ≠ 192 * cdiv (16 + bodyLen h.fmt (p.rowElems h)) 192) || h.rsvd

/-- Does a request in one of three states have such a row (R466)? -/
def Chip.rowKnown (c : Chip) (h : RowHdr) : Bool :=
  let e := c.rq h.req
  let draft := h.kind = 2 ∨ h.kind = 4
  let g := c.gOf e
  (e.state = .active || e.state = .held || e.state = .preempted)
    && decide (h.offset < (if draft then g else g + 1) ∧ h.pos = e.position + BitVec.ofNat 32 h.offset)

/-- The input that a header names has arrived already. -/
def Chip.rowHere (c : Chip) (h : RowHdr) : Bool :=
  c.inputs.any fun i => decide (i.req.toNat = h.req ∧ i.kind.toNat = h.kind ∧ i.offset = h.offset ∧ i.pos = h.pos ∧ i.piece = h.piece)

/-- A row or mask is discarded on a port (R467). -/
def Chip.dropInput (c : Chip) (p : Nat) (ev : Ev) : Chip :=
  ((c.count (fabOff p + 0x10) 1).orReg (fabOff p) 1#32).note ev (portSrc p)

/-- The pending PROMPT of a request after one of its rows has arrived (R362). -/
def Chip.takePrompt (c : Chip) (p : Nat) (h : RowHdr) : Chip :=
  let first := (h.kind = 1 ∨ h.kind = 3) ∧ h.offset = 0
  if (c.rq h.req).merge ∧ c.rfld 0x090 13 8 ≠ 0 then c
  else if first then c.modAx h.req fun a => { a with prompt := h.prompt }
  else if h.prompt ≠ 0#24 then c.note .promptIgnored (portSrc p) else c

/-- The phase of a row. -/
def Chip.rowPhase (c : Chip) (r : Row) : Nat := (c.stp.waves.getD r.wave default).phase

/-- A row of the step in progress that arrives after the fence of its phase adds to bin 0 of the slack (R433). -/
def Chip.lateSample (c : Chip) (h : RowHdr) : Chip :=
  if c.stp.active && c.stp.rows.any fun r =>
      decide (r.req.toNat = h.req ∧ r.pos = h.pos ∧ (r.kind = .draft ↔ (h.kind = 2 ∨ h.kind = 4)) ∧ c.rowPhase r < c.stp.fenced)
  then c.sample 5 0 else c

/-- A whole ROW message has arrived (R465, R466, R86) (log entry 78). -/
def Chip.onRow (c : Chip) (p : Nat) (m : List Byte) : Chip :=
  let h := rowHdr m
  if c.rowIsBad h m.length then c.dropInput p .rowBad
  else if !c.rowKnown h then c.dropInput p .rowStray
  else if c.rowHere h then c.dropInput p .rowDup
  else
    let n : Nat := match c.plan.cur with
      | some q => q.rowElems h
      | none => 0
    let time := if h.kind ≤ 2 then 2 * cdiv n 128 + 24 else 0
    let x : RowInput :=
      { req := BitVec.ofNat 12 h.req, kind := BitVec.ofNat 4 h.kind, offset := h.offset, pos := h.pos, piece := h.piece, port := p
        arrived := c.clk.ucyc + time, came := c.clk.ucyc, fmt := h.fmt, xs := h.xs, body := (m.drop 16).take (bodyLen h.fmt n) }
    (({ c with inputs := c.inputs ++ [x] }).takePrompt p h).lateSample h

/-! ### Conversion (R81 to R84, R106, R107) -/

/-- Element k of a row of n elements decoded to FP32 (R81). -/
def RowInput.elem (x : RowInput) (n k : Nat) : Word :=
  let b := fun i => (x.body.getD i 0).toNat
  let h := BitVec.ofNat 16 (leAt x.body (2 * k) 2)
  let s := Fp.ofE8m0 (b (n + k / 32))
  if x.fmt = 0 then ((Fp.ofE4m3 (b k)).mul (Fp.ofF32 x.xs)).toF32
  else if x.fmt = 1 then ((Fp.ofE5m2 (b k)).mul (Fp.ofF32 x.xs)).toF32
  else if x.fmt = 2 then ((Fp.ofE4m3 (b k)).mul s).toF32
  else if x.fmt = 3 then ((Fp.ofE5m2 (b k)).mul s).toF32
  else if x.fmt = 4 then (Fp.ofBf16 h).toF32
  else if x.fmt = 5 then (Fp.ofFp16 h).toF32
  else BitVec.ofNat 32 (leAt x.body (4 * k) 4)

/-- The largest magnitude of a list of finite FP32 values, as a pattern. -/
def amax (ys : List Word) : Word := ys.foldl (fun a y => if a.toNat < y.toNat % 2 ^ 31 then BitVec.ofNat 32 (y.toNat % 2 ^ 31) else a) 0#32

/-- floor(log2) and ceil(log2) of a positive FP32 pattern. -/
def flog2 (a : Word) : Int := (Fp.ofF32 a).log2
def clog2 (a : Word) : Int :=
  match Fp.ofF32 a with
  | .fin _ m e => (m.log2 : Int) + e + (if m = 2 ^ m.log2 then 0 else 1)
  | _ => 0

/-- A number bounded on both sides. -/
def clampInt (v lo hi : Int) : Int := if v < lo then lo else if hi < v then hi else v

/-- The scale exponent of a set: floor(log2(amax)) − emax within bounds, 0 for a set of zeros (R83). -/
def scaleExp (a : Word) (emax lo : Int) : Int := if a = 0#32 then 0 else clampInt (flog2 a - emax) lo 127

/-- y / 2^e as an E4M3 or E5M2 code (R83). -/
def fp8Code (e5m2 : Bool) (y : Word) (e : Int) : Half :=
  let v := (Fp.ofF32 y).scale (-e)
  (if e5m2 then v.toE5m2 else v.toE4m3).setWidth 16

/-- Consecutive groups of 32 elements. -/
def blocks32 (ys : List Word) : List (List Word) := (List.range (cdiv ys.length 32)).map fun i => (ys.drop (32 * i)).take 32

/-- The array input format of a row of finite values (R83): codes, scale codes, row scale, and whether a conversion
overflows. -/
def toArray (afmt : Nat) (ys : List Word) : RowData :=
  let e5m2 := afmt % 2 = 1
  let emax : Int := if e5m2 then 15 else 8
  let two (e : Int) : Word := (Fp.fin false 1 e).toF32
  if afmt ≤ 1 then
    let bs := (blocks32 ys).map fun b => (b, scaleExp (amax b) emax (-127))
    { (default : RowData) with
      codes := bs.flatMap fun b => b.1.map fun y => fp8Code e5m2 y b.2
      scales := bs.map fun b => BitVec.ofInt 8 (b.2 + 127), xs := 0x3F800000#32 }
  else if afmt ≤ 3 then
    let e := scaleExp (amax ys) emax (-126)
    { (default : RowData) with codes := ys.map fun y => fp8Code e5m2 y e, xs := two e }
  else if afmt = 4 then
    let e := if amax ys = 0#32 then 0 else clampInt (clog2 (amax ys) - 7) (-133) 127
    { (default : RowData) with
      codes := ys.map fun y => BitVec.ofInt 16 (clampInt (((Fp.ofF32 y).scale (-e)).toInt) (-128) 127), xs := two e }
  else
    let conv (y : Word) : Half := if afmt = 5 then (Fp.ofF32 y).toBf16 else (Fp.ofF32 y).toFp16
    let inf := if afmt = 5 then 0x7F80#16 else 0x7C00#16
    { (default : RowData) with
      codes := ys.map conv, xs := 0x3F800000#32, nonfinite := ys.any fun y => (conv y &&& 0x7FFF#16) = inf }

/-- The hidden-scale value of element k of an adapter, 1.0 without one (R82). -/
def Chip.hiddenScale (c : Chip) (slot : Option Nat) (k : Nat) : Word :=
  match slot with
  | none => 0x3F800000#32
  | some s => (Fp.ofE4m3 (tget c.adpMem (adpKey s (8192 + k))).toNat).toF32

/-- A hidden-state row converted: adapter scale, non-finite values replaced, array input format, rescore copy; `copy`: the row has one
(R85), whose conversion may overflow too. -/
def Chip.convHidden (c : Chip) (x : RowInput) (afmt n : Nat) (adapter : Option Nat) (copy : Bool) : RowData :=
  let xs := (List.range n).map (x.elem n)
  let ys := (List.range n).map fun k => fmul (xs.getD k 0) (c.hiddenScale adapter k)
  let fin := ys.map fun y => if f32Finite y then y else 0#32
  let d := toArray afmt fin
  let bf := fin.map fun y => (Fp.ofF32 y).toBf16
  { d with bf16 := bf
           nonfinite := d.nonfinite || (xs.any fun v => !f32Finite v) || (ys.any fun v => !f32Finite v)
             || (copy && bf.any fun h => (h &&& 0x7FFF#16) = 0x7F80#16) }

/-- A score-in row: its values widened to FP32; NaN and +inf set the indicator (R106, R107). -/
def convScoreIn (x : RowInput) (n : Nat) : RowData :=
  let vs := (List.range n).map (x.elem n)
  { (default : RowData) with values := vs, nonfinite := vs.any fun v => fnan v || decide (v = 0x7F800000#32) }

/-! ### The input fence (R54, R225) -/

/-- The input of a row for one piece. -/
def Chip.inputOf (c : Chip) (p : Plan) (r : Row) (piece : Nat) : Option RowInput :=
  let draft := r.kind == .draft
  c.inputs.find? fun i => decide (i.req = r.req ∧ i.kind.toNat = p.rowKind draft ∧ i.offset = r.offset ∧ i.pos = r.pos ∧ i.piece = piece)

/-- The pieces for which a row needs a message. -/
def Plan.rowPieces (p : Plan) (draft : Bool) : List Nat :=
  if p.scoreIn draft then (List.range p.pieces).filter fun i => 0 < p.pieceCols i else [0]

/-- The inputs of a row, one per piece, if all have arrived by a cycle. -/
def Chip.inputsBy (c : Chip) (p : Plan) (r : Row) (t : Nat) : Option (List RowInput) :=
  let ps := p.rowPieces (r.kind == .draft)
  let xs := ps.filterMap fun i => (c.inputOf p r i).bind fun x => if x.arrived ≤ t then some x else none
  if xs.length = ps.length then some xs else none

/-- Does the row need a rescore copy (R85, R132)? -/
def Chip.wantsCopy (c : Chip) (p : Plan) (r : Row) : Bool :=
  let q := r.req.toNat
  r.kind ≠ .draft && !p.scoreIn false && ((c.rq q).deltaV || decide (0 < c.rescoreOf q (c.pm q)))

/-- A row with its inputs converted. -/
def Chip.admitRow (c : Chip) (p : Plan) (r : Row) (xs : List RowInput) : Row :=
  let draft := r.kind == .draft
  let e := c.rq r.req.toNat
  let ad : Option Nat := if e.adapterV ∧ !draft then some e.adapter.toNat else none
  let ds := xs.map fun x =>
    if p.scoreIn draft then convScoreIn x (p.pieceCols x.piece)
    else c.convHidden x (cfgAfmt (p.cfg draft)) (p.hdim draft) ad (c.wantsCopy p r)
  { r with admitted := true, data := ds, nonfinite := ds.any fun d => d.nonfinite }

/-- The rescore copies of a wave's rows lie one after the other from the base of the region, in slot order. -/
def Chip.writeCopies (c : Chip) (p : Plan) (wave : Nat) : Chip :=
  let rs := (c.waveRows wave).filter fun r => r.admitted && c.wantsCopy p r
  let img := rs.flatMap fun r => (r.data.headD default).bf16.flatMap fun h => toLE 2 h.toNat
  { c with lagoon := (List.range 16).foldl (fun m a => wrBytes m (lagKey a (p.region 5).1) img) c.lagoon }

/-- The slack of an arrived row at its fence (R432). -/
def Chip.slackRow (c : Chip) (p : Plan) (t : Nat) (r : Row) : Chip :=
  (p.rowPieces (r.kind == .draft)).foldl (fun c i => match c.inputOf p r i with
    | some x => c.sample 5 (slackBin (if x.arrived ≤ t then some (t - x.arrived) else none))
    | none => c) c

/-- F(p): the inputs of the phase's rows give their slack, whether or not a row has been dropped (R432); arrived rows are admitted; a request with a row that is missing loses all its rows. A row that a draft fault has
predicated off needs no input (R225). -/
def Chip.fenceRows (c : Chip) (p : Plan) (phase t : Nat) : Chip :=
  let mine (r : Row) : Bool := decide (c.rowPhase r = phase) && r.drop.isNone && !r.predOff && !r.admitted
  let rs := c.stp.rows.filter mine
  let c := (c.stp.rows.filter fun r => c.rowPhase r = phase).foldl (Chip.slackRow · p t) c
  let late := (rs.filter fun r => (c.inputsBy p r t).isNone).map fun r => r.req
  let c' := c.mapRows mine fun r => match c.inputsBy p r t with
    | some xs => c.admitRow p r xs
    | none => r
  let c' := c'.dropRows (fun r => late.contains r.req) .deferred 0x011
  ((List.range c.stp.waves.length).filter fun w => (c.stp.waves.getD w default).phase = phase).foldl (Chip.writeCopies · p) c'

/-- The fence of one phase. -/
def Chip.fencePhase (p : Plan) (c : Chip) (phase : Nat) : Chip :=
  (c.fenceRows p phase (c.stp.t0 + c.p0 + (p.fence c.stp.template phase).1)).passFence phase

/-- INPUT_FENCE (R54): the cycle of F(phase), in which an arrival still counts (R57), is over. Fences that have not been given yet come
first. -/
def Chip.inputFence (c : Chip) (phase : Nat) : Chip :=
  match c.plan.cur with
  | none => c
  | some p =>
    let f := c.p0 + (p.fence c.stp.template phase).1
    if !c.runs ∨ !c.stp.planned ∨ c.stp.committed ∨ c.since ≤ f ∨ p.nphase.getD c.stp.template 0 ≤ phase then c
    else ((List.range (phase + 1)).filter fun k => c.stp.fenced ≤ k).foldl (Chip.fencePhase p) c

/-- INPUT_FENCE (R54). A mismatch of the sequencer's copies is a fail-stop (R380). -/
def execInputFence (fence : PhaseFence) (s : State) : Host.Outcome State Fault Refusal :=
  .next { s with unit := if fence.mismatch ∧ s.unit.runs then s.unit.failStop 2 else s.unit.inputFence fence.phase }

/-! ### Grammar masks (R149 to R152) -/

/-- The event with which a mask is discarded at its header, before any page is allocated (R150). -/
def Chip.maskRefusal (c : Chip) (m : List Byte) : Option Ev :=
  let q := leAt m 0 2 % 4096
  let pos := BitVec.ofNat 32 (leAt m 4 4)
  let e := c.rq q
  match c.plan.cur with
  | none => some .maskBad
  | some p =>
    if leAt m 8 4 ≠ p.maskLen ∨ 4096 ≤ leAt m 0 4 ∨ leAt m 12 4 ≠ 0 then some .maskBad
    else if !e.streams ∨ !(e.state = .opened ∨ e.state = .active ∨ e.state = .held ∨ e.state = .preempted) then some .maskStray
    else if pos ≠ e.position then some .maskStale
    else if c.grammar.any fun g => decide (g.req.toNat = q ∧ g.pos = pos) then some .maskDup else none

/-- The header of a mask arrives: the mask's pages are allocated (R149), or it is discarded (R150). -/
def Chip.maskHeader (c : Chip) (port : Nat) (m : List Byte) : Chip :=
  match c.maskRefusal m, c.plan.cur with
  | some ev, _ => c.dropInput port ev
  | none, none => c
  | none, some p =>
    match Chip.allocAll .grammar p.maskSlots c [] with
    | (none, c) => (c.orReg 0x060 0x40#32).dropInput port .maskNopage
    | (some pages, c) =>
      let g : GrammarMask :=
        { req := BitVec.ofNat 12 (leAt m 0 2), pos := BitVec.ofNat 32 (leAt m 4 4), port := port, pages := pageTable pages
          resident := false, arrived := 0 }
      { c with grammar := c.grammar ++ [g] }

/-- A mask of a row of the step in progress that arrives after the fence of its phase adds to bin 0 of the slack (R433). -/
def Chip.lateMask (c : Chip) (q : Nat) (pos : Word) : Chip :=
  if c.stp.active && c.stp.rows.any fun r => decide (r.req.toNat = q ∧ r.pos = pos) && c.stp.masked.contains (c.rowPhase r)
  then c.sample 5 0 else c

/-- The last flit of a mask arrives: the bitmap is written into the pages and the mask is resident (R149). A mask discarded
at its header, or freed since, leaves nothing; one of the wrong length is discarded. -/
def Chip.onMask (c : Chip) (port : Nat) (m : List Byte) : Chip :=
  match c.maskArriving port, c.plan.cur with
  | some g, some p =>
    if m.length ≠ 192 * cdiv (16 + p.maskLen) 192 then (c.loseMask port).dropInput port .maskBad
    else
      let c := c.writeMask p (fun i => m.getD (16 + i) 0) (tablePages g.pages)
      let there (x : GrammarMask) : GrammarMask := if x == g then { x with resident := true, arrived := c.clk.ucyc } else x
      ({ c with grammar := c.grammar.map there }).lateMask g.req.toNat g.pos
  | some _, none => (c.loseMask port).dropInput port .maskBad
  | none, _ => c

/-- M(p), whose cycle is over: masks of the phase's rows give their slack (R432), and rows whose grammar mask is not resident are dropped
with cause MASK_LATE (R152). -/
def Chip.maskFence (c : Chip) (phase : Nat) : Chip :=
  match c.plan.cur with
  | none => c
  | some p =>
    let f := c.p0 + (p.fence c.stp.template phase).2
    let t := c.stp.t0 + f
    if !c.runs ∨ !c.stp.planned ∨ c.stp.committed ∨ c.since ≤ f ∨ p.nphase.getD c.stp.template 0 ≤ phase ∨ c.stp.masked.contains phase then c
    else
      let mine (r : Row) : Bool := decide (c.rowPhase r = phase) && (c.rq r.req.toNat).streams
      let mask (r : Row) : Option GrammarMask := c.grammarFor r.req.toNat r.pos
      let late (r : Row) : Bool := mine r && r.drop.isNone && !((mask r).any fun g => decide (g.arrived ≤ t))
      let c' := (c.stp.rows.filter mine).foldl (fun c r => match mask r with
        | some g => c.sample 5 (slackBin (if g.arrived ≤ t then some (t - g.arrived) else none))
        | none => c) { c with stp := { c.stp with masked := phase :: c.stp.masked } }
      c'.maskDrop late

/-- MASK_FENCE (R152). -/
def execMaskFence (phase : Nat) (s : State) : Host.Outcome State Fault Refusal :=
  .next { s with unit := s.unit.maskFence phase }

/-! ### Messages on a port -/

/-- A message that arrives whole: refused before READY and after a fail-stop (R463). -/
def Chip.deliver (c : Chip) (port cls : Nat) (m : List Byte) : Chip :=
  if !c.portLive port then c
  else if c.refusing then c.notReady port cls 0 m
  else if cls = 1 then c.onRow port m
  else if cls = 2 then (c.maskHeader port m).onMask port m else c

/-- ROW (R465). -/
def execRow (port : Port) (msg : List Byte) (s : State) : Host.Outcome State Fault Refusal :=
  .next { s with unit := s.unit.deliver port 1 msg }

/-- GRAMMAR_MASK (R149). -/
def execGrammarMask (port : Port) (msg : List Byte) (s : State) : Host.Outcome State Fault Refusal :=
  .next { s with unit := s.unit.deliver port 2 msg }

/-! ### DATA flits (R459 to R464) -/

/-- The receiver finds a gap or a bad CRC: one NAK, which asks for a replay and counts as one, and flits are discarded until the replay
arrives (R461, R467). -/
def Chip.sendNak (c : Chip) (p : Nat) : Chip :=
  let x := c.fb p
  if x.discarding then c
  else
    let c := (((c.count (fabOff p + 8) 1).orReg (fabOff p) 2#32).eventPort p 0x203).noteOnce (0x1000 + p) .linkRetry (portSrc p)
    let c := c.modFab p fun x => { x with discarding := true }
    c.sendFlit p (flitBytes 3 0 false false 0 (x.rxSeq.toNat + 4095) [])

/-- A corrupted flit: FAB_CRCCNT, a NAK; the 64th in a row takes the link down (R461, R462). -/
def Chip.corruptFlit (c : Chip) (p : Nat) : Chip :=
  let c := (c.count (fabOff p + 4) 1).modFab p fun x => { x with corrupt := x.corrupt + 1 }
  if 64 ≤ (c.fb p).corrupt then c.linkDown p else c.sendNak p

/-- A flit received in order is acknowledged, at least every 64 (R461). -/
def Chip.inOrder (c : Chip) (p : Nat) : Chip :=
  let c := c.modFab p fun x => { x with rxSeq := x.rxSeq + 1, discarding := false, unacked := x.unacked + 1 }
  if 64 ≤ (c.fb p).unacked then c.sendAck p else c

/-- The payload of a DATA flit joins its message; a message that has begun before READY or after a fail-stop is refused as
a whole (R463). Its last flit delivers it, and its credits return (R460). -/
def Chip.takePayload (c : Chip) (p cls : Nat) (som eom : Bool) (pay : List Byte) : Chip :=
  let c := c.modFab p fun x => { x with taken := tmod x.taken cls fun n => n + 1 }
  let c := if cls = 3 then c.eventPort p 0x206 else c
  let cur : Option (Bool × List Byte) := if som then some (c.refusing, []) else tget (c.fb p).assembly cls
  match cur with
  | none => c.giveCredit p cls 1
  | some (refused, bs) =>
    let m := bs ++ pay
    let c : Chip := if som && cls == 2 then (if refused then c.loseMask p else (c.loseMask p).maskHeader p pay) else c
    if !eom then c.modFab p fun x => { x with assembly := tset x.assembly cls (some (refused, m)) }
    else
      let c := c.modFab p fun x => { x with assembly := tset x.assembly cls none }
      let n := m.length / 192
      if refused then c.notReady p cls n m
      else
        let c := c.giveCredit p cls n
        if cls = 1 then c.onRow p m else if cls = 2 then c.onMask p m else c

/-- A flit arrives on a port. A sound one for which no credit has been advertised is not accepted (R463) (log entry 105). -/
def Chip.onFlit (c : Chip) (p : Nat) (f : List Byte) : Chip :=
  let c := c.eventPort p 0x201
  if f.length ≠ 200 ∨ crc32 (f.take 196) ≠ leAt f 196 4 then c.corruptFlit p
  else
    let c := c.modFab p fun x => { x with corrupt := 0 }
    let h := leAt f 0 4
    let type := fld h 31 29
    let cls := fld h 28 26
    let seq := BitVec.ofNat 12 (fld h 23 12)
    let arg := fld h 11 0
    let low := fld h 25 12
    if type = 0 ∨ 5 ≤ type then
      let ahead := (seq - (c.fb p).rxSeq).toNat
      if ahead = 0 ∧ type = 0 ∧ cls ≠ 7 ∧ arg = 0 ∧ tget (c.fb p).granted cls ≤ tget (c.fb p).taken cls then c
      else if ahead = 0 then
        let c := c.inOrder p
        if type ≠ 0 ∨ cls = 7 ∨ arg ≠ 0 then
          ((c.modFab p fun x => { x with taken := tmod x.taken cls fun n => n + 1 }).giveCredit p cls 1).note .flitBad (portSrc p)
        else c.takePayload p cls (h.testBit 25) (h.testBit 24) ((f.drop 4).take 192)
      else if 2048 ≤ ahead then c.sendAck p
      else c.sendNak p
    else if type = 1 then
      if cls = 7 ∨ low ≠ 0 then c.note .flitBad (portSrc p) else c.onCredit p cls arg
    else if cls ≠ 0 ∨ low ≠ 0 ∨ (type = 4 ∧ arg ≠ 0) then c.note .flitBad (portSrc p)
    else if type = 2 then c.acked p (BitVec.ofNat 12 arg)
    else if type = 3 then c.onNak p (BitVec.ofNat 12 arg) else c

/-- DATA (R459). -/
def execData (port : Port) (flit : List Byte) (s : State) : Host.Outcome State Fault Refusal :=
  .next { s with unit := if s.unit.portLive port then s.unit.onFlit port flit else s.unit }

end Sys2Proof.Machine
end

