-- ==== Sys2Proof/Machine/Flags.lean ====
section
/-!
DEFINITION. What predicates and compare results are: compare codes, logic codes, predicate outcomes, the column fault test
(R121, R297 to R299).
-/
namespace Sys2Proof.Machine

/-- A compare of FP32 patterns in the ordered sense: any NaN gives 0, except that NE gives 1 (R298). -/
def cmpFp (code : Nat) (a b : Word) : Bool :=
  let x := Fp.ofF32 a
  let y := Fp.ofF32 b
  match code with
  | 0 => x.eq y
  | 1 => !x.eq y
  | 2 => x.lt y
  | 3 => x.lt y || x.eq y
  | 4 => y.lt x
  | _ => y.lt x || x.eq y

/-- A compare of integers (R298). -/
def cmpInt (code : Nat) (a b : Int) : Bool :=
  match code with
  | 0 => decide (a = b)
  | 1 => decide (a ≠ b)
  | 2 => decide (a < b)
  | 3 => decide (a ≤ b)
  | 4 => decide (b < a)
  | _ => decide (b ≤ a)

/-- A logic code on two bits: AND, OR, ANDN, XOR (R297). -/
def logicBool (code : Nat) (a b : Bool) : Bool :=
  match code with
  | 0 => a && b
  | 1 => a || b
  | 2 => a && !b
  | _ => a != b

/-- A logic code on two 64-bit values (R297). -/
def logicBits (code : Nat) (a b : DWord) : DWord :=
  match code with
  | 0 => a &&& b
  | 1 => a ||| b
  | 2 => a &&& ~~~ b
  | _ => a ^^^ b

/-- A predicate of a lane: P0 always reads 1 (R299). -/
def Lane.pred (x : Lane) (k : Nat) : Bool := k = 0 || x.p.getLsbD k

/-- A lane with a predicate set: writes to P0 are dropped (R299). -/
def Lane.setPred (x : Lane) (k : Nat) (v : Bool) : Lane :=
  if k = 0 then x else { x with p := if v then x.p ||| (1#8 <<< k) else x.p &&& ~~~ (1#8 <<< k) }

/-- The predicate outcome of a word in a lane: P[PRED] XOR PNEG (R299). -/
def Lane.outcome (x : Lane) (f : LaneF) : Bool := x.pred (fld f.mod.toNat 30 28) != f.mod.getLsbD 31

/-- The column fault test: x is NaN or +inf, or −inf where neither x0 was −inf nor the column was masked (R121). -/
def faultyCol (x x0 : Word) (masked : Bool) : Bool :=
  fnan x || x = 0x7F800000#32 || (x = negInf && x0 ≠ negInf && !masked)

end Sys2Proof.Machine
end

