-- ==== Sys2Proof/Machine/Lanes.lean ====
section
/-!
DEFINITION. Lane operands and the vector instructions' common form: element reads and writes, consistency of descriptors, the
regions lane code may reach, conversions (R291 to R295, R298 to R302).
-/
namespace Sys2Proof.Machine

/-- The lanes of an atoll as global lane numbers, ascending. -/
def atollLanes (a : Nat) : List Nat := (List.range 256).map fun l => 256 * a + l

/-- The fields of a lane's descriptor. -/
def Chip.dsc (c : Chip) (g n : Nat) : Desc := descOf (tget (c.ln g).d n)

/-! ### Elements (R292) -/

/-- ETYPE of an operand: a vector register holds FP32, a scalar has none. -/
def Chip.etypeOf (c : Chip) (g : Nat) : Opnd → Option Nat
  | .desc n => some (c.dsc g n).etype
  | .vec _ => some 0
  | _ => none

/-- COUNT of an operand. -/
def Chip.countOf (c : Chip) (g : Nat) : Opnd → Nat
  | .desc n => (c.dsc g n).count
  | .vec _ => 8
  | _ => 1

/-- Bits of element i of an operand; an operand of one element is broadcast. -/
def Chip.readEl (c : Chip) (g : Nat) (o : Opnd) (i : Nat) : Nat :=
  match o with
  | .desc n =>
    let d := c.dsc g n
    let a := (d.addr (if d.count = 1 then 0 else i)).toNat
    let k := elemBytes d.etype
    if d.space = 0 then rdLE c.scratch (padKey g a) k
    else rdLE c.lagoon (lagKey (if d.space = 1 then g / 256 else d.peer) a) k
  | .vec v => (tget (c.ln g).v (8 * v + i)).toNat
  | .scal s => (tget (c.ln g).s s).toNat
  | _ => 0

/-- Element i of an operand as an FP32 pattern. -/
def Chip.readFp (c : Chip) (g : Nat) (o : Opnd) (i : Nat) : Word := BitVec.ofNat 32 (c.readEl g o i)

/-- Element i of an operand takes bits. -/
def Chip.writeEl (c : Chip) (g : Nat) (o : Opnd) (i v : Nat) : Chip :=
  match o with
  | .desc n =>
    let d := c.dsc g n
    let bs := toLE (elemBytes d.etype) v
    let a := (d.addr i).toNat
    if d.space = 0 then { c with scratch := wrBytes c.scratch (padKey g a) bs }
    else { c with lagoon := wrBytes c.lagoon (lagKey (g / 256) a) bs }
  | .vec w => c.modLn g fun x => { x with v := tset x.v (8 * w + i) (BitVec.ofNat 32 v) }
  | .scal s => c.modLn g fun x => { x with s := tset x.s s (BitVec.ofNat 32 v) }
  | _ => c

/-! ### Consistency (R293, R295) -/

/-- The lagoon regions that lane code may write (A and B), and read (also piece spill and rescore). -/
def Chip.laneRegions (c : Chip) (write : Bool) : List (Nat × Nat) :=
  match c.plan.cur with
  | none => []
  | some p => (if write then [6, 7] else [4, 5, 6, 7]).map p.region

/-- Does a descriptor lie wholly in the piece-spill region of the atoll's own lagoon? -/
def Chip.inSpill (c : Chip) (d : Desc) : Bool :=
  match c.plan.cur with
  | none => false
  | some p => decide (d.space = 1) && (List.range d.count).all fun i => d.elemIn [p.region 4] i

/-- One use of an operand: the element types the opcode accepts, whether it is written, whether one element is broadcast. -/
structure Use where
  o : Opnd
  types : List Nat
  write : Bool
  bcast : Bool
  deriving DecidableEq, Repr, Inhabited

/-- Does a descriptor lie where it may be used? -/
def Chip.descPlaced (c : Chip) (d : Desc) (write : Bool) : Bool :=
  if d.space = 0 then d.within 0 0x8000
  else d.within 0 0x800000 && (!write || d.space = 1) && (List.range d.count).all fun i => d.elemIn (c.laneRegions write) i

/-- Is a descriptor consistent but for its COUNT? -/
def Chip.descOkay (c : Chip) (d : Desc) (u : Use) : Bool :=
  let k := elemBytes d.etype
  decide (d.space ≠ 3 ∧ (d.space = 2 ∨ d.peer = 0) ∧ d.base % k = 0 ∧ d.stride % k = 0) && !d.rsvd && u.types.contains d.etype
    && c.descPlaced d u.write

/-- Is a use inconsistent in a lane? `n` is the COUNT it must have. -/
def Chip.useBad (c : Chip) (g n : Nat) (u : Use) : Bool :=
  let short (k : Nat) : Bool := decide (k ≠ n) && !(u.bcast && k = 1)
  match u.o with
  | .desc i => !c.descOkay (c.dsc g i) u || short (c.dsc g i).count
  | .vec _ => !u.types.contains 0 || short 8
  | _ => false

/-- VMOV's use of its destination: it may lie in the piece-spill region, into which VMOV copies a row slice, though lane code otherwise only
reads that region (R295, R311) (log entry 104). -/
def Chip.movDest (c : Chip) (g : Nat) (f : LaneF) (types : List Nat) : Use :=
  ⟨opnd f.d, types, match opnd f.d with
    | .desc n => !c.inSpill (c.dsc g n)
    | _ => true, false⟩

/-- The descriptor index of an operand; 0 for a vector register, of which R308 names no index (log entry 104). -/
def descIdx : Opnd → Nat
  | .desc n => n
  | _ => 0

/-- The descriptor of the first inconsistent use in any lane of an atoll. -/
def Chip.firstBad (c : Chip) (a : Nat) (n : Nat → Nat) (us : Nat → List Use) : Option Nat :=
  (atollLanes a).findSome? fun g => ((us g).find? fun u => c.useBad g (n g) u).map fun u => descIdx u.o

/-! ### Writing (R294, R299) -/

/-- The lanes of an atoll in which a word writes. -/
def Chip.writers (c : Chip) (a : Nat) (f : LaneF) : List Nat := (atollLanes a).filter fun g => (c.ln g).outcome f

/-- The first n elements of a destination take values, in ascending lane order. The values were read before. -/
def Chip.writeAll (c : Chip) (a : Nat) (f : LaneF) (o : Opnd) (n : Nat → Nat) (val : Nat → Nat → Nat) : Chip :=
  (c.writers a f).foldl (fun x g => (List.range (n g)).foldl (fun x i => x.writeEl g o i (val g i)) x) c

/-- Registers of the lanes in which a word writes change. -/
def Chip.eachLane (c : Chip) (a : Nat) (f : LaneF) (h : Nat → Lane → Lane) : Chip :=
  (c.writers a f).foldl (fun x g => x.modLn g (h g)) c

/-- A vector word: skipped where a use is inconsistent; else its destination is written and the stream goes on. -/
def Chip.vecStep (c : Chip) (a op : Nat) (f : LaneF) (n : Nat → Nat) (us : Nat → List Use) (val : Nat → Nat → Nat) : Chip :=
  match c.firstBad a n us with
  | some d => c.laneSkip a 2 d op f
  | none => (c.writeAll a f (opnd f.d) n val).laneNext a

/-- An elementwise word on FP32 operands: D, then A and B as the opcode has them. -/
def Chip.fpStep (c : Chip) (a op : Nat) (f : LaneF) (val : Nat → Nat → Word) : Chip :=
  c.vecStep a op f (fun g => c.countOf g (opnd f.d))
    (fun _ => [⟨opnd f.d, [0], true, false⟩, ⟨opnd f.a, [0], false, true⟩, ⟨opnd f.b, [0], false, true⟩])
    fun g i => (val g i).toNat

/-! ### Conversions of VMOV (R298) -/

/-- An FP32 pattern to an unsigned integer of a width, nearest even, clamped; NaN becomes 0. -/
def toUnsigned (w : Nat) (v : Word) : Nat :=
  match Fp.ofF32 v with
  | .nan => 0
  | .inf neg => if neg then 0 else 2 ^ w - 1
  | x => min (x.toInt.toNat) (2 ^ w - 1)

/-- Bits of one element type as another; none where the pairing is inconsistent. -/
def convert (src dst v : Nat) : Option Nat :=
  let w := BitVec.ofNat 32 v
  let h := BitVec.ofNat 16 v
  if src = dst then some v
  else if dst = 0 then
    if src = 1 then some (Fp.ofBf16 h).toF32.toNat
    else if src = 2 then some (Fp.ofFp16 h).toF32.toNat
    else if src = 3 then some (Fp.ofE4m3 v).toF32.toNat
    else if src = 4 ∨ src = 5 then some (Fp.ofInt v).toF32.toNat else none
  else if dst = 6 ∧ (src = 4 ∨ src = 5) then some v
  else if src = 0 then
    if dst = 1 then some (Fp.ofF32 w).toBf16.toNat
    else if dst = 2 then some (Fp.ofF32 w).toFp16.toNat
    else if dst = 3 then some (Fp.ofF32 w).toE4m3.toNat
    else if dst = 4 then some (toUnsigned 8 w)
    else if dst = 5 then some (toUnsigned 16 w)
    else if dst = 6 then some (toUnsigned 32 w) else none
  else none

/-- The source types that convert to a type. -/
def convertible (dst : Nat) : List Nat := (List.range 8).filter fun s => (convert s dst 0).isSome

end Sys2Proof.Machine
end

