-- ==== Sys2Proof/Machine/Scalars.lean ====
section
/-!
DEFINITION. Scalar, descriptor and predicate instructions of the lanes (R297 to R299).
-/
namespace Sys2Proof.Machine

/-- The register index of an operand. -/
def opndNum : Opnd → Nat
  | .desc n | .vec n | .scal n | .pred n => n
  | _ => 0

/-- The scalar register that an operand field names takes a value. -/
def Lane.setS (x : Lane) (b : Byte) (v : Word) : Lane := { x with s := tset x.s (opndNum (opnd b)) v }
/-- The scalar register that an operand field names. -/
def Lane.getS (x : Lane) (b : Byte) : Word := tget x.s (opndNum (opnd b))

/-- D ← h(A, B) on scalars. -/
def Chip.scalar2 (c : Chip) (a : Nat) (f : LaneF) (h : Word → Word → Word) : Chip :=
  (c.eachLane a f fun _ x => x.setS f.d (h (x.getS f.a) (x.getS f.b))).laneNext a

/-- SLI: every lane's D ← MOD; it has no predicate (R290, R299). -/
def execSli (at_ : Atoll) (f : LaneF) (s : State) : Host.Outcome State Fault Refusal :=
  .next { s with unit := s.unit.laneStep at_ 0x10 f fun c => (c.setAllS at_ (opndNum (opnd f.d)) f.mod).laneNext at_ }

/-- SMOV (R297). -/
def execSmov (at_ : Atoll) (f : LaneF) (s : State) : Host.Outcome State Fault Refusal :=
  .next { s with unit := s.unit.laneStep at_ 0x11 f fun c =>
    (c.eachLane at_ f fun _ x => x.setS f.d (x.getS f.a)).laneNext at_ }

/-- SADD (R297). -/
def execSadd (at_ : Atoll) (f : LaneF) (s : State) : Host.Outcome State Fault Refusal :=
  .next { s with unit := s.unit.laneStep at_ 0x12 f fun c => c.scalar2 at_ f fun a b => a + b }

/-- SSUB (R297). -/
def execSsub (at_ : Atoll) (f : LaneF) (s : State) : Host.Outcome State Fault Refusal :=
  .next { s with unit := s.unit.laneStep at_ 0x13 f fun c => c.scalar2 at_ f fun a b => a - b }

/-- SMUL (R297). -/
def execSmul (at_ : Atoll) (f : LaneF) (s : State) : Host.Outcome State Fault Refusal :=
  .next { s with unit := s.unit.laneStep at_ 0x14 f fun c => c.scalar2 at_ f fun a b => a * b }

/-- SAND (R297). -/
def execSand (at_ : Atoll) (f : LaneF) (s : State) : Host.Outcome State Fault Refusal :=
  .next { s with unit := s.unit.laneStep at_ 0x15 f fun c => c.scalar2 at_ f fun a b => a &&& b }

/-- SOR (R297). -/
def execSor (at_ : Atoll) (f : LaneF) (s : State) : Host.Outcome State Fault Refusal :=
  .next { s with unit := s.unit.laneStep at_ 0x16 f fun c => c.scalar2 at_ f fun a b => a ||| b }

/-- SXOR (R297). -/
def execSxor (at_ : Atoll) (f : LaneF) (s : State) : Host.Outcome State Fault Refusal :=
  .next { s with unit := s.unit.laneStep at_ 0x17 f fun c => c.scalar2 at_ f fun a b => a ^^^ b }

/-- SSHL (R297). -/
def execSshl (at_ : Atoll) (f : LaneF) (s : State) : Host.Outcome State Fault Refusal :=
  .next { s with unit := s.unit.laneStep at_ 0x18 f fun c => c.scalar2 at_ f fun a b => a <<< (b.toNat % 32) }

/-- SSHR (R297). -/
def execSshr (at_ : Atoll) (f : LaneF) (s : State) : Host.Outcome State Fault Refusal :=
  .next { s with unit := s.unit.laneStep at_ 0x19 f fun c => c.scalar2 at_ f fun a b => a >>> (b.toNat % 32) }

/-- SFADD (R297). -/
def execSfadd (at_ : Atoll) (f : LaneF) (s : State) : Host.Outcome State Fault Refusal :=
  .next { s with unit := s.unit.laneStep at_ 0x1A f fun c => c.scalar2 at_ f fun a b => fadd a b }

/-- SFMUL (R297). -/
def execSfmul (at_ : Atoll) (f : LaneF) (s : State) : Host.Outcome State Fault Refusal :=
  .next { s with unit := s.unit.laneStep at_ 0x1B f fun c => c.scalar2 at_ f fun a b => fmul a b }

/-- SFDIV (R297). -/
def execSfdiv (at_ : Atoll) (f : LaneF) (s : State) : Host.Outcome State Fault Refusal :=
  .next { s with unit := s.unit.laneStep at_ 0x1C f fun c => c.scalar2 at_ f fun a b => fdiv a b }

/-- The element index of SLD and SST is at or above COUNT in some lane (R302). -/
def Chip.indexBad (c : Chip) (a : Nat) (o : Opnd) (i : Nat) : Bool := (atollLanes a).any fun g => decide (c.countOf g o ≤ i)

/-- A single-element word: skipped where the operand is inconsistent or the index is at or above its COUNT. -/
def Chip.elemStep (c : Chip) (a op : Nat) (f : LaneF) (u : Use) (i : Nat) (act : Chip → Chip) : Chip :=
  match c.firstBad a (fun g => c.countOf g u.o) (fun _ => [u]) with
  | some d => c.laneSkip a 2 d op f
  | none => if c.indexBad a u.o i then c.laneSkip a 2 (descIdx u.o) op f else (act c).laneNext a

/-- SLD: D ← element of A; HI takes the upper word of a W64 element (R297). -/
def Chip.sld (c : Chip) (a : Nat) (f : LaneF) : Chip :=
  let m := f.mod.toNat
  let i := fld m 10 0
  let hi := m.testBit 11
  let u : Use := ⟨opnd f.a, if hi then [7] else List.range 8, false, true⟩
  c.elemStep a 0x1D f u i fun c => c.eachLane a f fun g x =>
    let v := c.readEl g (opnd f.a) i
    x.setS f.d (BitVec.ofNat 32 (if hi then v / 2 ^ 32 else v))

/-- SLD (R297). -/
def execSld (at_ : Atoll) (f : LaneF) (s : State) : Host.Outcome State Fault Refusal :=
  .next { s with unit := s.unit.laneStep at_ 0x1D f fun c => c.sld at_ f }

/-- SST: element of D ← A; FP32 or W32 elements (R297). -/
def Chip.sst (c : Chip) (a : Nat) (f : LaneF) : Chip :=
  let i := fld f.mod.toNat 10 0
  c.elemStep a 0x1E f ⟨opnd f.d, [0, 6], true, true⟩ i fun c =>
    (c.writers a f).foldl (fun x g => x.writeEl g (opnd f.d) i ((c.ln g).getS f.a).toNat) c

/-- SST (R297). -/
def execSst (at_ : Atoll) (f : LaneF) (s : State) : Host.Outcome State Fault Refusal :=
  .next { s with unit := s.unit.laneStep at_ 0x1E f fun c => c.sst at_ f }

/-- A lane with a descriptor written. -/
def Lane.setD (x : Lane) (n : Nat) (w : DWord) : Lane := { x with d := tset x.d n w }

/-- DLD: every lane's D ← an entry of the active bank's descriptor table, unchecked (R279, R293). -/
def Chip.dld (c : Chip) (a : Nat) (f : LaneF) : Chip :=
  let w := tget c.bank (bankKey a c.bankSel (256 + fld f.mod.toNat 7 0))
  ((atollLanes a).foldl (fun x g => x.modLn g fun y => y.setD (opndNum (opnd f.d)) w) c).laneNext a

/-- DLD (R297). -/
def execDld (at_ : Atoll) (f : LaneF) (s : State) : Host.Outcome State Fault Refusal :=
  .next { s with unit := s.unit.laneStep at_ 0x20 f fun c => c.dld at_ f }

/-- BASE of a lane's descriptor plus the signed scalar. -/
def Lane.newBase (x : Lane) (f : LaneF) : Int := (fld (tget x.d (opndNum (opnd f.d))).toNat 22 0 : Int) + (x.getS f.a).toInt

/-- DADD: skipped where the result falls outside the 23 bits of BASE in any lane (R293). -/
def Chip.dadd (c : Chip) (a : Nat) (f : LaneF) : Chip :=
  let n := opndNum (opnd f.d)
  let out (g : Nat) : Bool := decide ((c.ln g).newBase f < 0 ∨ 8388608 ≤ (c.ln g).newBase f)
  if (atollLanes a).any out then c.laneSkip a 2 n 0x21 f
  else (c.eachLane a f fun _ x =>
    let w := (tget x.d n).toNat
    x.setD n (BitVec.ofNat 64 (w / 2 ^ 23 * 2 ^ 23 + (x.newBase f).toNat))).laneNext a

/-- DADD (R297). -/
def execDadd (at_ : Atoll) (f : LaneF) (s : State) : Host.Outcome State Fault Refusal :=
  .next { s with unit := s.unit.laneStep at_ 0x21 f fun c => c.dadd at_ f }

/-- D ← a bit, in the predicate register that the field names. -/
def Chip.setPreds (c : Chip) (a : Nat) (f : LaneF) (h : Lane → Bool) : Chip :=
  (c.eachLane a f fun _ x => x.setPred (opndNum (opnd f.d)) (h x)).laneNext a

/-- A compare of two scalars of a lane: FP32 in the ordered sense, or signed integers (R298). -/
def Lane.compare (x : Lane) (f : LaneF) : Bool :=
  let code := fld f.mod.toNat 2 0
  if f.mod.getLsbD 3 then cmpFp code (x.getS f.a) (x.getS f.b) else cmpInt code (x.getS f.a).toInt (x.getS f.b).toInt

/-- PCMP (R298). -/
def execPcmp (at_ : Atoll) (f : LaneF) (s : State) : Host.Outcome State Fault Refusal :=
  .next { s with unit := s.unit.laneStep at_ 0x28 f fun c => c.setPreds at_ f fun x => x.compare f }

/-- Does a row slot of a wave hold a planned row that has not been dropped? A row predicated off counts as dropped (R225). -/
def Chip.rowLive (c : Chip) (wave slot : Nat) : Bool := (c.rowAt wave slot).any fun r => r.drop.isNone && !r.predOff

/-- PROW (R297). -/
def execProw (at_ : Atoll) (wave : Nat) (f : LaneF) (s : State) : Host.Outcome State Fault Refusal :=
  .next { s with unit := s.unit.laneStep at_ 0x29 f fun c => c.setPreds at_ f fun x => c.rowLive wave (x.getS f.a).toNat }

/-- A logic operation on two predicates of a lane. -/
def Lane.logic (x : Lane) (f : LaneF) : Bool :=
  logicBool (fld f.mod.toNat 1 0) (x.pred (opndNum (opnd f.a))) (x.pred (opndNum (opnd f.b)))

/-- PLOG (R297). -/
def execPlog (at_ : Atoll) (f : LaneF) (s : State) : Host.Outcome State Fault Refusal :=
  .next { s with unit := s.unit.laneStep at_ 0x2A f fun c => c.setPreds at_ f fun x => x.logic f }

end Sys2Proof.Machine
end

