-- ==== Sys2Proof/Machine/Scoring.lean ====
section
/-!
DEFINITION. The scoring array: tile sums, accumulation, spills, dither, split-K and finalisation (R74 to R80, R87 to R103,
R106, R107, R288, R289).
-/
namespace Sys2Proof.Machine

/-! ### Elements and tile sums (R79, R80, R87, R486) -/

/-- The value of a weight element by WFMT. -/
def weightVal (wfmt : Nat) (h : Half) : Fp :=
  let n := h.toNat
  match wfmt with
  | 0 => Fp.ofE2m1 n
  | 1 => Fp.ofSigned 4 (-2) n
  | 2 => Fp.ofSigned 4 0 n
  | 3 => Fp.ofE3m2 n
  | 4 => Fp.ofE2m3 n
  | 5 => Fp.ofE4m3 (n % 256)
  | 6 => Fp.ofE5m2 (n % 256)
  | 7 => Fp.ofE4m3 (n % 256)
  | 8 => Fp.ofE5m2 (n % 256)
  | 9 => Fp.ofSigned 8 0 n
  | 10 => Fp.ofBf16 h
  | _ => Fp.ofFp16 h

/-- The value of an activation element by AFMT. -/
def actVal (afmt : Nat) (h : Half) : Fp :=
  let n := h.toNat
  match afmt with
  | 0 => Fp.ofE4m3 (n % 256)
  | 1 => Fp.ofE5m2 (n % 256)
  | 2 => Fp.ofE4m3 (n % 256)
  | 3 => Fp.ofE5m2 (n % 256)
  | 4 => Fp.ofSigned 8 0 n
  | 5 => Fp.ofBf16 h
  | _ => Fp.ofFp16 h

/-- +0. -/
def fzero : Fp := .fin false 0 0

/-- Element k of a row with its block's scale. -/
def actAt (wfmt afmt : Nat) (d : RowData) (k : Nat) : Fp :=
  let a := actVal afmt (d.codes.getD k 0)
  if mxFmt wfmt then a.mul (Fp.ofE8m0 (d.scales.getD (k / 32) 0x7F#8).toNat) else a

/-- Weight i of a lane's share of a tile with its block's scale. -/
def weightAt (wfmt : Nat) (codes : List Half) (scales : List Byte) (i : Nat) : Fp :=
  let w := weightVal wfmt (codes.getD i 0)
  if mxFmt wfmt then w.mul (Fp.ofE8m0 (scales.getD (i / 32) 0x7F#8).toNat) else w

/-- A row times weights from k0 on, exactly: `h` is the hidden dimension. k-values from h on are padding and add exactly zero. -/
def tileDot (wfmt afmt h k0 : Nat) (d : RowData) (w : Nat → Fp) : Fp :=
  (List.range (min (ktOf wfmt) (h - k0))).foldl (fun t i => t.add ((actAt wfmt afmt d (k0 + i)).mul (w i))) fzero

/-- The exact tile sum of a row and a lane from k0 on: `codes` and `scales` are the lane's share of the tile. A block of padding has
scale code 0x7F. -/
def tileSum (wfmt afmt h k0 : Nat) (d : RowData) (codes : List Half) (scales : List Byte) : Fp :=
  tileDot wfmt afmt h k0 d (weightAt wfmt codes scales)

/-- Σ (n + 1) × x(n) over the logical lanes, exactly (R88). -/
def laneWeighted (x : Nat → Fp) : Fp := (List.range 256).foldl (fun t n => t.add ((Fp.ofInt (Int.ofNat (n + 1))).mul (x n))) fzero

/-! ### Dither (R93) -/

/-- One step of the Galois LFSR. -/
def lfsrStep (st : Word) : Word := if st.getLsbD 0 then (st >>> 1) ^^^ 0x80200003#32 else st >>> 1

/-- The state before the warm-up. -/
def ditherSeed (seed : DWord) (t : Nat) : Word :=
  let hi : Word := (seed >>> 32).setWidth 32
  let st := seed.setWidth 32 ^^^ hi.rotateLeft 16 ^^^ BitVec.ofNat 32 (t * 0x9E3779B9)
  if st = 0#32 then 0x6A09E667#32 else st

/-- The dither of a logical lane in a tile. -/
def dither (seed : DWord) (t lane : Nat) : Nat := (iter lfsrStep (32 + 8 * (lane + 1)) (ditherSeed seed t)).toNat % 256

/-! ### Accumulation (R90 to R95) -/

/-- An accumulator entry with its wide buffer: (hi, lo) on the float path, the halves of an INT64 on the integer path;
whether a value became non-finite or was clamped. -/
structure AccCell where
  acc : Word
  hi : Word
  lo : Word
  nf : Bool
  sat : Bool
  deriving DecidableEq, Repr, Inhabited

/-- The INT64 of a wide buffer. -/
def AccCell.wide (x : AccCell) : Int := (x.hi ++ x.lo : DWord).toInt

/-- A spill (R91, R94). -/
def AccCell.spill (int : Bool) (x : AccCell) : AccCell :=
  if int then
    let v : DWord := BitVec.ofInt 64 (x.wide + x.acc.toInt)
    { x with acc := 0, hi := (v >>> 32).setWidth 32, lo := v.setWidth 32 }
  else
    let s := fadd x.hi x.acc
    let e := (((Fp.ofF32 x.hi).add (Fp.ofF32 x.acc)).sub (Fp.ofF32 s)).toF32
    let l := fadd x.lo e
    { x with acc := 0, hi := s, lo := l, nf := x.nf || !f32Finite s || !f32Finite l }

/-- One tile sum is added; `d` is the dither under stochastic rounding (R91, R92, R94). -/
def AccCell.addTile (int : Bool) (d : Option Nat) (t : Fp) (x : AccCell) : AccCell :=
  if int then
    let i := x.acc.toInt + t.toInt
    let v := satI32 i
    { x with acc := v, sat := x.sat || decide (v.toInt ≠ i) }
  else
    let y := (Fp.ofF32 x.acc).add t
    let v := match d with
      | some d => y.sr d
      | none => y.toF32
    { x with acc := v, nf := x.nf || !t.finite || !f32Finite v }

/-- The logit of an entry: the wide buffer and the accumulator joined, then the row and column scales where the format has
them (R91, R94), with whether it is non-finite. -/
def AccCell.final (wfmt : Nat) (xs ws : Word) (x : AccCell) : Word × Bool :=
  let v := if intFmt wfmt then (Fp.ofInt (x.wide + x.acc.toInt)).toF32 else fadd x.hi (fadd x.lo x.acc)
  let y := if intFmt wfmt ∨ wfmt = 7 ∨ wfmt = 8 then fmul (fmul v xs) ws else v
  (y, !f32Finite v || !f32Finite y)

/-- An entry of a lane. -/
def Chip.cell (c : Chip) (g : Nat) (set : Bool) (r : Nat) : AccCell :=
  let k := accKey g set r
  { acc := tget c.acc k, hi := tget c.wide (2 * k), lo := tget c.wide (2 * k + 1), nf := false, sat := false }

/-- An entry of a lane takes a value. -/
def Chip.putCell (c : Chip) (g : Nat) (set : Bool) (r : Nat) (x : AccCell) : Chip :=
  let k := accKey g set r
  { c with acc := tset c.acc k x.acc, wide := tset (tset c.wide (2 * k) x.hi) (2 * k + 1) x.lo }

/-- The active and the shadow set of an atoll. -/
def AtollSt.active (x : AtollSt) : SetInfo := if x.activeSet then x.set1 else x.set0
def AtollSt.shadow (x : AtollSt) : SetInfo := if x.activeSet then x.set0 else x.set1
def AtollSt.setActive (x : AtollSt) (i : SetInfo) : AtollSt := if x.activeSet then { x with set1 := i } else { x with set0 := i }

/-- Entries of one set of an atoll, and its wide buffers, become 0. -/
def Chip.clearSet (c : Chip) (a : Nat) (set : Bool) : Chip :=
  let mine (k : Nat) : Bool := decide (k / 128 / 512 = a) && (k / 128 % 2 = 1) == set
  { c with acc := c.acc.filter fun e => !mine e.1, wide := c.wide.filter fun e => !mine (e.1 / 2) }

/-! ### SCORE (R288, R289) -/

/-- The fields of a SCORE word. -/
structure ScoreF where
  wfmt : Nat
  round : Bool
  castle : Bool
  spill : Nat
  piece : Nat
  block : Nat
  group : Nat
  shape : Nat
  draft : Bool
  start : Nat
  count : Nat
  deriving DecidableEq, Repr, Inhabited

def scoreF (w : Nat) : ScoreF :=
  { wfmt := fld w 59 56, round := w.testBit 55, castle := w.testBit 54, spill := fld w 53 46, piece := fld w 45 44
    block := fld w 43 40, group := fld w 39 34, shape := fld w 33 30, draft := decide (fld w 29 28 = 1)
    start := fld w 21 11, count := fld w 10 0 + 1 }

/-- The k-chunks of a head that an atoll scores: the first, and one past the last (R100). -/
def Plan.kRange (p : Plan) (draft : Bool) (a : Nat) : Nat × Nat :=
  let s := cfgKsplit (p.cfg draft)
  let kc := p.kc draft
  let q := cdiv kc s
  let m := a / (16 / s)
  (min (m * q) kc, min ((m + 1) * q) kc)

/-- Does an atoll score a column block of a head (R100, R226)? -/
def Plan.scores (p : Plan) (draftN : Nat) (draft : Bool) (a block : Nat) : Bool :=
  let s := cfgKsplit (p.cfg draft)
  if s = 1 then (classBlocks draftN draft a).contains block else block = a % (16 / s)

/-- Is a SCORE command inconsistent (R289)? -/
def Chip.scoreBad (c : Chip) (p : Plan) (a : Nat) (f : ScoreF) : Bool :=
  let w := p.cfg f.draft
  let spill := if f.spill = 0 ∧ !intFmt f.wfmt then 64 else f.spill
  let k := p.kRange f.draft a
  decide (f.wfmt ≠ cfgWfmt w ∨ f.round ≠ cfgRound w ∨ spill ≠ cfgSpill w ∨ (f.draft ∧ p.draftSrc ≠ 1) ∨ p.cpl ≤ f.group
    ∨ p.pieces ≤ f.piece ∨ f.start < k.1 ∨ k.2 < f.start + f.count ∨ (p.shape f.shape).2 ≠ f.draft)
    || !p.scores c.draftN f.draft a f.block

/-- An atoll sets a row's non-finite indicator, or its ACC_SAT. -/
def Row.setNf (a : Nat) (r : Row) : Row := { r with nonfinite := true, nfAt := a :: r.nfAt }
def Row.setSat (a : Nat) (r : Row) : Row := { r with accSat := true, satAt := a :: r.satAt }

/-- Rows of a wave in slots where an atoll finds something for the first time in the row: ATL_SATCNT or ATL_NFCNT counts them, and
ATL_SCORESTAT takes its bit (R97, R98, R117). -/
def Chip.flagRows (c : Chip) (a wave : Nat) (slots : List Nat) (sat : Bool) : Chip :=
  let new (r : Row) : Bool := decide (r.wave = wave) && slots.contains r.slot && !(if sat then r.satAt else r.nfAt).contains a
  let n := (c.stp.rows.filter new).length
  if n = 0 then c
  else
    let p := c.physOf a
    let off := if sat then 0x1C else 0x20
    let c := (c.setAtl p off (sat32 (c.atlReg p off) n)).orAtl p 0x0C (if sat then 1#32 else 2#32)
    c.mapRows new fun r => if sat then r.setSat a else r.setNf a

/-- The converted input of a wave's row slot. -/
def Chip.slotData (c : Chip) (wave r : Nat) : RowData := ((c.rowAt wave r).bind fun x => x.data.head?).getD default

/-- The tile index (R78). -/
def Plan.tileIndex (p : Plan) (f : ScoreF) (chunk : Nat) : Nat :=
  ((f.piece * 16 + f.block) * p.cpl + f.group) * p.kc f.draft + chunk

/-! ### What the array's checks find (R88, R89, R96, R380, R398) -/

/-- A checksum mismatch: the tile is recomputed. -/
def Chip.checksumRetry (c : Chip) (a slot : Nat) : Chip :=
  let p := c.physOf a
  let c := c.setAtl p 0x14 (sat32 (c.atlReg p 0x14) 1)
  let c := c.orAtl p 0x0C 4#32
  (c.eventAtl p 0x104).note .checksumRetry (p + 1) a (c.atlReg p 0x10).toNat slot

/-- The recompute mismatches too: the wave's rows are fault-dropped, and the atoll's column diagnostic goes first.
The second mismatch counts in ATL_CKSUMCNT and logs CHECKSUM_RETRY as the first did (log entry 89). -/
def Chip.checksumRepeat (c : Chip) (a wave slot : Nat) : Chip :=
  let p := c.physOf a
  let c := c.checksumRetry a slot
  let c := c.setAtl p 0x18 (sat32 (c.atlReg p 0x18) 1)
  let c := c.orAtl p 0x0C 8#32
  let c := { c with rpr := { c.rpr with suspect := if c.rpr.suspect.contains p then c.rpr.suspect else c.rpr.suspect ++ [p] } }
  c.faultDrop fun r => r.wave = wave

/-- What a check finds has its consequence. -/
def Chip.arrayFault (c : Chip) (a wave : Nat) : ArrayFault → Chip
  | .parity l r => c.accParity a l wave r
  | .adder l => ((c.note .dupMismatch (c.physOf a + 1)).strike (256 * a + l)).faultDrop fun r => r.wave = wave

/-- The same of several. -/
def Chip.arrayFaults (c : Chip) (a wave : Nat) (fs : List ArrayFault) : Chip := fs.foldl (fun c x => c.arrayFault a wave x) c

/-! ### A tile (R87 to R92, R94) -/

/-- The weights of a lane in a tile; a pad column's are zero (R75). -/
def Chip.laneWeight (p : Plan) (f : ScoreF) (t : TileData) (l i : Nat) : Fp :=
  if p.n ≤ p.column f.block (p.wide f.piece f.group) l then weightAt f.wfmt [] [] i
  else weightAt f.wfmt (t.codes.getD l []) (t.scales.getD l []) i

/-- A row slot's exact product with weights over the k-values of a tile. -/
def Chip.slotDot (c : Chip) (p : Plan) (wave r : Nat) (f : ScoreF) (chunk : Nat) (w : Nat → Fp) : Fp :=
  tileDot f.wfmt (cfgAfmt (p.cfg f.draft)) (p.hdim f.draft) (chunk * ktOf f.wfmt) (c.slotData wave r) w

/-- A sum as it is read: the exact one and what upsets add to it. -/
def readSum (int : Bool) (us : List TileUpset) (r : Nat) (l : Option Nat) (t : Fp) : Fp :=
  (us.filter fun u => u.slot = r && u.lane == l).foldl (fun t u => t.add (if int then Fp.ofInt u.err.toInt else Fp.ofF32 u.err)) t

/-- The tile sum T(r, n) as it is read. -/
def Chip.sumRead (c : Chip) (p : Plan) (wave r : Nat) (f : ScoreF) (chunk : Nat) (t : TileData) (us : List TileUpset) (l : Nat) : Fp :=
  readSum (intFmt f.wfmt) us r (some l) (c.slotDot p wave r f chunk (Chip.laneWeight p f t l))

/-- The checksum weight z_k (R88). -/
def checkWeight (p : Plan) (f : ScoreF) (t : TileData) (k : Nat) : Fp := laneWeighted fun n => Chip.laneWeight p f t n k

/-- The checksum output C(r) as it is read (R88). -/
def Chip.checkRead (c : Chip) (p : Plan) (wave r : Nat) (f : ScoreF) (chunk : Nat) (t : TileData) (us : List TileUpset) : Fp :=
  readSum (intFmt f.wfmt) us r none (c.slotDot p wave r f chunk (checkWeight p f t))

/-- Does the compare of a row slot fail? A slot with a tile sum that is not finite is not compared (R88). -/
def Chip.slotFails (c : Chip) (p : Plan) (wave r : Nat) (f : ScoreF) (chunk : Nat) (t : TileData) (us : List TileUpset) : Bool :=
  let s := c.sumRead p wave r f chunk t us
  ((List.range 256).all fun l => (s l).finite) && !(c.checkRead p wave r f chunk t us).eq (laneWeighted s)

/-- The lowest row slot whose compare fails. Exact sums always agree, so only a slot with an upset can fail. -/
def Chip.tileFails (c : Chip) (p : Plan) (wave : Nat) (f : ScoreF) (chunk : Nat) (t : TileData) (us : List TileUpset) : Option Nat :=
  (List.range (p.shape f.shape).1).find? fun r => (us.any fun u => u.slot = r) && c.slotFails p wave r f chunk t us

/-- One tile's adds: every lane's entry of every row slot, a spill before it where one is due (R91, R94). -/
def Chip.tileCells (c : Chip) (p : Plan) (a wave : Nat) (f : ScoreF) (chunk done : Nat) (t : TileData) (us : List TileUpset) :
    List (Nat × Nat × AccCell) :=
  let w := p.cfg f.draft
  let int := intFmt f.wfmt
  let set := (c.atl a).activeSet
  let due := decide (0 < cfgSpill w ∧ 0 < done ∧ done % cfgSpill w = 0)
  (List.range 256).flatMap fun l =>
    let d : Option Nat := if f.round then some (dither p.seed (p.tileIndex f chunk) l) else none
    (List.range (p.shape f.shape).1).map fun r =>
      let x := c.cell (256 * a + l) set r
      let x := if due then x.spill int else x
      (l, r, x.addTile int d (c.sumRead p wave r f chunk t us l))

/-- The tile's weights load into the idle registers of the cells, which the array then uses (R23, R112). -/
def AtollSt.load (x : AtollSt) (t : TileData) : AtollSt :=
  if x.weightSel then { x with weights0 := t, weightSel := false } else { x with weights1 := t, weightSel := true }

/-- The sums of a tile that passed its compare, or whose mismatch repeated, are added. -/
def Chip.addCells (c : Chip) (p : Plan) (a wave : Nat) (f : ScoreF) (chunk : Nat) (t : TileData) (us : List TileUpset) : Chip :=
  let x := c.atl a
  let cells := c.tileCells p a wave f chunk x.active.tiles t us
  let c := cells.foldl (fun c e => c.putCell (256 * a + e.1) x.activeSet e.2.1 e.2.2) c
  let c := c.flagRows a wave ((cells.filter fun e => e.2.2.nf).map fun e => e.2.1) false
  c.flagRows a wave ((cells.filter fun e => e.2.2.sat).map fun e => e.2.1) true

/-- The compare of a tile: what is logged, and the upsets of the sums that reach the accumulators (R89). -/
def Chip.compare (c : Chip) (p : Plan) (a wave : Nat) (f : ScoreF) (chunk : Nat) (t : TileData) (us : List TileUpset) :
    Chip × List TileUpset :=
  match c.tileFails p wave f chunk t us with
  | none => (c, us)
  | some r =>
    let c := c.checksumRetry a r
    let us := us.filter fun u => u.again
    match c.tileFails p wave f chunk t us with
    | none => (c, us)
    | some r => (c.checksumRepeat a wave r, us)

/-- A tile is issued: the atoll's tile position, its event, and the count of a running DEBUG_STEP, whose halt falls due in the cycle after
its last tile (R447). -/
def Chip.tileIssued (c : Chip) (a index : Nat) : Chip :=
  let ph := c.physOf a
  let c := (c.setAtl ph 0x10 (BitVec.ofNat 32 index)).eventAtl ph 0x100
  let d := c.dbg
  if !d.stepping ∨ d.reached ∨ d.stepAtoll ≠ a then c
  else { c with dbg := { d with stepGoal := d.stepGoal - 1, reached := decide (d.stepGoal ≤ 1)
                                haltAt := if d.stepGoal ≤ 1 then c.clk.ucyc + 1 else d.haltAt } }

/-- One tile is issued, compared, and its sums are added. `us`: the upsets of this tile. -/
def Chip.scoreTile (c : Chip) (p : Plan) (a wave : Nat) (f : ScoreF) (chunk : Nat) (t : TileData) (us : List TileUpset) : Chip :=
  let done := (c.atl a).active.tiles
  let ph := c.physOf a
  let c := (c.modAtl a fun x => x.load t).tileIssued a (p.tileIndex f chunk)
  let v := c.compare p a wave f chunk t us
  let c := v.1.addCells p a wave f chunk t v.2
  let c := { c with colScale := (List.range 256).foldl (fun m l =>
    tset m (2 * (256 * a + l) + b2n (c.atl a).activeSet) (t.colScale.getD l 0)) c.colScale }
  let sp := cfgSpill (p.cfg f.draft)
  let c := if 0 < sp ∧ 0 < done ∧ done % sp = 0 then c.eventAtl ph 0x105 else c
  c.modAtl a fun x => x.setActive { x.active with tiles := done + 1 }

/-- The first tile of a column group: its entries start at 0. -/
def Chip.openGroup (c : Chip) (a wave : Nat) (f : ScoreF) : Chip :=
  let x := c.atl a
  let i := x.active
  if i.tiles ≠ 0 ∧ i.wave = wave ∧ i.draft = f.draft ∧ i.piece = f.piece ∧ i.block = f.block ∧ i.group = f.group then c
  else (c.clearSet a x.activeSet).modAtl a fun x => x.setActive
    { wave := wave, draft := f.draft, piece := f.piece, block := f.block, group := f.group, tiles := 0 }

/-- Has a running DEBUG_STEP seen the last tile of its atoll issued (R447)? -/
def Chip.stepDone (c : Chip) (a : Nat) : Bool := c.dbg.stepping && c.dbg.reached && decide (c.dbg.stepAtoll = a)

/-- Tile i of a SCORE, unless it has been issued before a halt or a DEBUG_STEP stops before it (R447). -/
def Chip.scoreOne (p : Plan) (a wave : Nat) (f : ScoreF) (tiles : List TileData) (us : List TileUpset) (fs : List (Nat × ArrayFault))
    (c : Chip) (i : Nat) : Chip :=
  if i < (c.atl a).scoreAt ∨ c.stepDone a then c
  else
    ((c.scoreTile p a wave f (f.start + i) (tiles.getD i default) (us.filter fun u => u.tile = i)).arrayFaults a wave
      ((fs.filter fun x => x.1 = i).map fun x => x.2)).modAtl a fun x => { x with scoreAt := i + 1 }

/-- SCORE of a consistent command: its tiles in ascending chunk order, then the castling point if it carries CASTLE. One that a DEBUG_STEP
stops goes on with its next tile when the step runs on (R447) (log entry 27). -/
def Chip.scoreGo (c : Chip) (p : Plan) (a wave : Nat) (f : ScoreF) (tiles : List TileData)
    (us : List TileUpset) (fs : List (Nat × ArrayFault)) : Chip :=
  let c := (List.range f.count).foldl (Chip.scoreOne p a wave f tiles us fs) (c.openGroup a wave f)
  if (c.atl a).scoreAt < f.count then c
  else (if f.castle then c.castlePoint a else c).tileNext a

/-- SCORE of a word; a skipped one that carries CASTLE still castles (R303). -/
def Chip.score (c : Chip) (a wave : Nat) (word : DWord) (tiles : List TileData) (us : List TileUpset)
    (fs : List (Nat × ArrayFault)) : Chip :=
  let f := scoreF word.toNat
  let skip (cause : Nat) : Chip :=
    let c := c.skipped a true cause 0 word
    let c := if f.castle then c.castlePoint a else c
    c.tileNext a
  if tileReserved word.toNat then skip 1
  else match c.plan.cur with
    | none => skip 3
    | some p => if c.scoreBad p a f then skip 3 else c.scoreGo p a wave f tiles us fs

/-- SCORE (R288). -/
def execScore (at_ : Atoll) (wave : Nat) (word : DWord) (tiles : List TileData) (finds : ScoreFinds) (s : State) :
    Host.Outcome State Fault Refusal :=
  .next { s with unit :=
    if s.unit.tileReady at_ ∧ fld word.toNat 63 60 = 1 ∧ !s.unit.stepDone at_ then
      (s.unit.tileTurn at_ finds.ecc).score at_ wave word tiles finds.upsets finds.faults
    else s.unit }

/-! ### FINAL (R91, R94, R100, R101, R103, R106) -/

/-- The wave shape of a wave of the step: W and head. -/
def Chip.waveShape (c : Chip) (wave : Nat) : Nat × Bool :=
  match c.plan.cur with
  | none => (1, false)
  | some p => p.shape (c.stp.waves.getD wave default).shape

/-- The logit of a row slot and lane, finalised from the shadow set, with whether a value on its way is non-finite. -/
def Chip.finalAt (c : Chip) (p : Plan) (a l wave r : Nat) (draft : Bool) : Word × Bool :=
  let w := p.cfg draft
  let s := cfgKsplit w
  let n := 16 / s
  let xs := (c.slotData wave r).xs
  let part (m : Nat) : Word × Bool :=
    let b := a + n * m
    let set := !(c.atl b).activeSet
    let k := p.kRange draft b
    if k.2 ≤ k.1 then (0, false)
    else (c.cell (256 * b + l) set r).final (cfgWfmt w) xs (tget c.colScale (2 * (256 * b + l) + b2n set))
  treeJoin (fun x y => (fadd x.1 y.1, x.2 || y.2 || !f32Finite (fadd x.1 y.1))) (0, false) s.log2 ((List.range s).map part)

/-- The block whose columns an atoll's epilogue conditions: until the lanes leave a group that FINAL has drained, that group's;
else the shadow set's, or that of a score-in wave's round (R106, R227). -/
def Chip.blockNow (c : Chip) (p : Plan) (a wave : Nat) : Nat :=
  let draft := (c.waveShape wave).2
  let x := c.atl a
  if p.scoreIn draft then
    let k := match x.epi with
      | some e => if e.wave = wave then e.round else 0
      | none => 0
    (classBlocks c.draftN draft a).getD k 0
  else match x.spillUnit with
    | some u => if x.left then x.shadow.block else u.2.2
    | none => x.shadow.block

/-- The epilogue of a score-in wave reaches a column group: a group not above the last one begins the next block. -/
def Chip.epiGroup (c : Chip) (a wave q : Nat) : Chip :=
  c.modAtl a fun x => { x with epi := some (match x.epi with
    | some e => if e.wave ≠ wave then { wave := wave, last := q, round := 0 }
                else if e.last < q then { e with last := q } else { e with last := q, round := e.round + 1 }
    | none => { wave := wave, last := q, round := 0 }) }

/-- A score-in value of a row slot in a column of a piece (R106). -/
def Chip.scoreInAt (c : Chip) (p : Plan) (wave r col : Nat) : Word :=
  let piece := col / (4096 * p.cpl)
  match c.rowAt wave r with
  | none => 0
  | some x => ((x.data.getD piece default).values).getD (col % (4096 * p.cpl)) negInf

/-- Is a column of the layout a pad column (R75)? -/
def Plan.pad (p : Plan) (block q lane : Nat) : Bool := decide (p.groups ≤ q ∨ p.n ≤ p.column block q lane)

/-- The value that FINAL gives a lane for a row slot, and whether the row's non-finite indicator is to be set. -/
def Chip.finalVal (c : Chip) (p : Plan) (a l wave block q r : Nat) : Word × Bool :=
  let draft := (c.waveShape wave).2
  if p.pad block q l ∨ (!p.scoreIn draft ∧ 16 / cfgKsplit (p.cfg draft) ≤ a) then (negInf, false)
  else if p.scoreIn draft then (c.scoreInAt p wave r (p.column block q l), false)
  else c.finalAt p a l wave r draft

/-- The bytes of a running pair, m first (R310). -/
def pairBytes (x : Word × Word) : List Byte := toLE 4 x.1.toNat ++ toLE 4 x.2.toNat

/-- The fault flags of an atoll's lanes become 0. -/
def Chip.clearFlags (c : Chip) (a : Nat) : Chip :=
  { c with scratch := (atollLanes a).foldl (fun m g => wrBytes m (padKey g 0x7B80) (List.replicate 128 0#8)) c.scratch }

/-- The running pairs of an atoll's lanes start at (−inf, +0). -/
def Chip.clearPairs (c : Chip) (a w : Nat) : Chip :=
  let img := (List.range w).flatMap fun _ => pairBytes (negInf, 0#32)
  { c with scratch := (atollLanes a).foldl (fun m g => wrBytes m (padKey g 0x7C00) img) c.scratch }

/-- FINAL of a spill unit that the atoll's epilogue has not begun: the pairs start afresh, and the fault flags with the wave
(R104, R123, R194, R227). -/
def Chip.beginUnit (c : Chip) (a w : Nat) (u : Nat × Nat × Nat) : Chip :=
  let old := (c.atl a).spillUnit
  let c := if (old.map fun x => x.1) = some u.1 then c else c.clearFlags a
  let c := if old = some u then c else c.clearPairs a w
  c.modAtl a fun x => { x with spillUnit := some u, left := false }

/-- The shadow set of an atoll has been read: its wide buffers are cleared and it is drained (R90, R91, R103). -/
def Chip.setDone (c : Chip) (a : Nat) : Chip :=
  let mine (k : Nat) : Bool := decide (k / 2 / 128 / 512 = a) && ((k / 2 / 128 % 2 = 1) != (c.atl a).activeSet)
  ({ c with wide := c.wide.filter fun e => !mine e.1 }).drain a

/-- Member 0 of a split has read the shadow set of a member (R101): the set is done where the member's own FINAL has run, else when it
runs. -/
def Chip.memberRead (c : Chip) (b : Nat) : Chip :=
  if (c.atl b).given then (c.modAtl b fun x => { x with given := false }).setDone b else c.modAtl b fun x => { x with taken := true }

/-- FINAL has read what it reads: of a split, member 0 reads the sets of all members, and the set of another member is done once both
FINALs have run (R101). -/
def Chip.finalDone (c : Chip) (p : Plan) (a : Nat) (draft : Bool) : Chip :=
  let s := cfgKsplit (p.cfg draft)
  let n := 16 / s
  if a < n then (List.range (s - 1)).foldl (fun c m => c.memberRead (a + n * (m + 1))) (c.setDone a)
  else if (c.atl a).taken then (c.modAtl a fun x => { x with taken := false }).setDone a
  else c.modAtl a fun x => { x with given := true }

/-- FINAL writes the logits of a column group for every row slot. -/
def Chip.finalGroup (c : Chip) (p : Plan) (a wave w block : Nat) (f : LaneF) : Chip :=
  let val (g r : Nat) : Word × Bool := c.finalVal p a (g % 256) wave block ((c.ln g).getS f.a).toNat r
  let nf := (List.range w).filter fun r => (atollLanes a).any fun g => (val g r).2
  (c.writeAll a f (opnd f.d) (fun _ => w) fun g r => (val g r).1.toNat).flagRows a wave nf false

/-- FINAL: logits of a column group for every row slot; the shadow set is drained. -/
def Chip.final (c : Chip) (a wave : Nat) (f : LaneF) (fs : List ArrayFault) : Chip :=
  let w := (c.waveShape wave).1
  match c.firstBad a (fun _ => w) (fun _ => [⟨opnd f.d, [0], true, false⟩]), c.plan.cur with
  | some d, _ => c.laneSkip a 2 d 0x58 f
  | none, none => c.laneNext a
  | none, some p =>
    let draft := (c.waveShape wave).2
    let q := ((c.ln (256 * a)).getS f.a).toNat
    let c := if p.scoreIn draft then c.epiGroup a wave q else c.modAtl a fun x => { x with left := true }
    let block := c.blockNow p a wave
    let c := (c.beginUnit a w (wave, q / p.cpl, block)).finalGroup p a wave w block f
    let c := if p.scoreIn draft then c else (c.arrayFaults a wave fs).finalDone p a draft
    c.laneNext a

/-- FINAL (R91). -/
def execFinal (at_ : Atoll) (wave : Nat) (f : LaneF) (faults : List ArrayFault) (s : State) : Host.Outcome State Fault Refusal :=
  .next { s with unit := s.unit.laneStep at_ 0x58 f fun c => c.final at_ wave f faults }

end Sys2Proof.Machine
end

