-- ==== Sys2Proof/Machine/RowOps.lean ====
section
/-!
DEFINITION. Lane instructions that load what the rows of a wave are conditioned with, and those that follow the running pairs
and the fault flags (R104, R120, R121, R128, R133, R137, R145, R297, R409).
-/
namespace Sys2Proof.Machine

/-! ### Row loads -/

/-- What a row load is given: the plan, the logical atoll that scores the block, the block, the row-wide group, the lane. -/
structure ColAt where
  plan : Plan
  block : Nat
  q : Nat
  lane : Nat
  deriving DecidableEq, Repr, Inhabited

/-- The column. -/
def ColAt.col (x : ColAt) : Nat := x.plan.column x.block x.q x.lane
/-- The token ID of the column (R167). -/
def ColAt.token (x : ColAt) : Nat := x.plan.baseToken + x.col
/-- Is it a pad column? -/
def ColAt.pad (x : ColAt) : Bool := x.plan.pad x.block x.q x.lane

/-- D ← a value for every row slot of the wave in every lane; a slot without a row gives 0. -/
def Chip.rowLoad (c : Chip) (a wave op : Nat) (f : LaneF) (etype : Nat) (val : Row → ColAt → Nat) : Chip :=
  match c.plan.cur with
  | none => c.laneNext a
  | some p =>
    let block := c.blockNow p a wave
    c.vecStep a op f (fun _ => (c.waveShape wave).1) (fun _ => [⟨opnd f.d, [etype], true, false⟩]) fun g r =>
      match c.rowAt wave r with
      | none => 0
      | some x => val x { plan := p, block := block, q := ((c.ln g).getS f.a).toNat, lane := g % 256 }

/-- An atoll that scores a block of another atoll reads the pages that a row load needs over the strait, one read a page (R228). -/
def Chip.peerReads (c : Chip) (a wave : Nat) (f : LaneF) (pages : Row → ColAt → Nat) : Chip :=
  match c.plan.cur with
  | none => c
  | some p =>
    let x : ColAt := { plan := p, block := c.blockNow p a wave, q := ((c.ln (256 * a)).getS f.a).toNat, lane := 0 }
    if x.block = a then c
    else c.eventAtl (c.physOf a) 0x132 (((List.range (c.waveShape wave).1).filterMap fun r => c.rowAt wave r).map fun r => pages r x).sum

/-! ### CNTLD (R137) -/

/-- The token that a draft row has drawn. -/
def Row.token (r : Row) : Option Nat := (r.drawn.bind fun i => r.list[i]?).map fun e => e.token.toNat

/-- The draft tokens proposed at positions below a row's own. -/
def Chip.draftsBelow (c : Chip) (r : Row) : List Nat :=
  (c.stp.rows.filter fun d => decide (d.kind = .draft ∧ d.req = r.req ∧ d.offset < r.offset)).filterMap Row.token

/-- count(r, c) of a column (R137). -/
def Chip.countOfCol (c : Chip) (r : Row) (x : ColAt) : Nat :=
  if x.pad then 0
  else min 255 (c.countAt x.block r.req.toNat x.q x.lane + ((c.draftsBelow r).filter fun t => t = x.token).length)

/-- CNTLD (R137). -/
def execCntld (at_ : Atoll) (wave : Nat) (f : LaneF) (s : State) : Host.Outcome State Fault Refusal :=
  .next { s with unit := s.unit.laneStep at_ 0x60 f fun c =>
    (c.peerReads at_ wave f fun r x => b2n (c.countPage x.block r.req.toNat x.q).isSome).rowLoad at_ wave 0x60 f 4 fun r x => c.countOfCol r x }

/-! ### MSKLD (R145) -/

/-- Does the grammar mask of the row's position ban the column? -/
def Chip.grammarBans (c : Chip) (r : Row) (x : ColAt) : Bool :=
  match c.grammarFor r.req.toNat r.pos with
  | none => false
  | some g => c.maskBit g.pages x.block x.q x.lane = some false

/-- Is a column of a row masked (R145)? -/
def Chip.maskedCol (c : Chip) (r : Row) (x : ColAt) : Bool :=
  let q := r.req.toNat
  let e := c.rq q
  decide (x.q < x.plan.groups) &&
  (c.denyBans e.tenant.toNat x.block x.q x.lane || c.denyBans 0 x.block x.q x.lane
    || c.staticBans e.slot0 (c.ax q).bound0 x.block x.q x.lane || c.staticBans e.slot1 (c.ax q).bound1 x.block x.q x.lane
    || (e.streams && c.grammarBans r x)
    || (!r.trieDeg && (c.bansAt q r.node).contains x.token))

/-- Mask pages that the mask of a row in a column group takes. -/
def Chip.maskPages (c : Chip) (r : Row) (x : ColAt) : Nat :=
  let q := r.req.toNat
  let e := c.rq q
  let here (m : SMap (Option Nat)) : Nat := b2n (tget m (32 * x.block + x.q / 8)).isSome
  let static (b : Option Nat) : Nat := match b with
    | some id => here (tget c.statics id).pages
    | none => 0
  here (tget c.deny e.tenant.toNat).pages + here (tget c.deny 0).pages + static (c.ax q).bound0 + static (c.ax q).bound1
    + (if e.streams then match c.grammarFor q r.pos with
        | some g => here g.pages
        | none => 0
      else 0)

/-- MSKLD (R145). -/
def execMskld (at_ : Atoll) (wave : Nat) (f : LaneF) (s : State) : Host.Outcome State Fault Refusal :=
  .next { s with unit := s.unit.laneStep at_ 0x61 f fun c =>
    (c.peerReads at_ wave f c.maskPages).rowLoad at_ wave 0x61 f 4 fun r x => b2n (c.maskedCol r x) }

/-! ### BIASLD (R128) -/

/-- bias(r, c): +0.0 for columns not listed, and in pad columns (R120, R128). -/
def Chip.biasCol (c : Chip) (r : Row) (x : ColAt) : Word :=
  let e := c.rq r.req.toNat
  if e.adapterV ∧ !x.pad then c.biasOf e.adapter.toNat x.token else 0#32

/-- BIASLD (R128). -/
def execBiasld (at_ : Atoll) (wave : Nat) (f : LaneF) (s : State) : Host.Outcome State Fault Refusal :=
  .next { s with unit := s.unit.laneStep at_ 0x62 f fun c => c.rowLoad at_ wave 0x62 f 0 fun r x => (c.biasCol r x).toNat }

/-! ### PRMLD (R297) -/

/-- Is a delta set applied to the row (R134, R215)? -/
def Chip.deltaBound (c : Chip) (r : Row) : Bool :=
  (c.rq r.req.toNat).deltaV && r.kind ≠ .draft && !(match c.plan.cur with
    | none => false
    | some p => p.scoreIn false)

/-- A clamped parameter field of a row: temperature, rep, presence, frequency, bias bound, delta bound, t > 0. -/
def Chip.rowParam (c : Chip) (r : Row) (field : Nat) : Nat :=
  let q := r.req.toNat
  let p := c.pm q
  match field with
  | 0 => p.temp.toNat
  | 1 => p.rep.toNat
  | 2 => p.presence.toNat
  | 3 => p.frequency.toNat
  | 4 => b2n (c.rq q).adapterV
  | 5 => b2n (c.deltaBound r)
  | _ => b2n (flt 0#32 p.temp)

/-- PRMLD: the field that MOD names. -/
def Chip.prmld (c : Chip) (a wave : Nat) (f : LaneF) : Chip :=
  let k := fld f.mod.toNat 2 0
  c.rowLoad a wave 0x63 f (if k < 4 then 0 else 4) fun r _ => c.rowParam r k

/-- PRMLD (R297). -/
def execPrmld (at_ : Atoll) (wave : Nat) (f : LaneF) (s : State) : Host.Outcome State Fault Refusal :=
  .next { s with unit := s.unit.laneStep at_ 0x63 f fun c => c.prmld at_ wave f }

/-! ### DELLD (R130, R133, R134) -/

/-- The 8-byte entry of a triplet: its place in [24:0], DELTA in [63:32] (R130). -/
def Triplet.entry (t : Triplet) : Nat :=
  t.v.toNat * 2 ^ 32 + t.piece.toNat * 2 ^ 23 + t.group.toNat * 2 ^ 17 + t.k.toNat

/-- The set of the request in a row slot, if a delta is applied to its row. -/
def Chip.deltaOf (c : Chip) (wave slot : Nat) : Option Nat :=
  match c.rowAt wave slot with
  | none => none
  | some r => if c.deltaBound r then some (c.rq r.req.toNat).delta.toNat else none

/-- The triplet of one of the DMAX slots of a group, as it is delivered: a slot past the lane's share, and a triplet whose K is
not below H, hold K = 0 and DELTA = +0.0. -/
def Chip.deltaSlot (c : Chip) (p : Plan) (set block q lane n : Nat) : Nat :=
  match (c.deltaShare set block lane (q / p.cpl) (q % p.cpl))[n]? with
  | none => 0
  | some t => if p.h0 ≤ t.k.toNat then 0 else t.entry

/-- Does a lane's share of a group hold a triplet whose K is not below H? -/
def Chip.deltaOver (c : Chip) (p : Plan) (set block q lane : Nat) : Bool :=
  (c.deltaShare set block lane (q / p.cpl) (q % p.cpl)).any fun t => decide (p.h0 ≤ t.k.toNat)

/-- The range event of a set is logged. -/
def DeltaSet.logged (d : DeltaSet) : DeltaSet := { d with rangeLogged := true }

/-- DELTA_RANGE, once per set and plan activation (R134). -/
def Chip.deltaRange (c : Chip) (set : Nat) : Chip :=
  match tget c.delta set with
  | none => c
  | some d =>
    if d.rangeLogged then c
    else ({ c with delta := tset c.delta set (some d.logged) }).note .deltaRange

/-- The sets whose delivered triplets run past H, by lane. -/
def Chip.deltaOvers (c : Chip) (p : Plan) (a wave : Nat) (f : LaneF) : List Nat :=
  let block := c.blockNow p a wave
  (c.writers a f).filterMap fun g =>
    match c.deltaOf wave ((c.ln g).getS f.b).toNat with
    | none => none
    | some s => if c.deltaOver p s block ((c.ln g).getS f.a).toNat (g % 256) then some s else none

/-- DELLD of a chunk that the plan has: its triplet slots, then the range event. -/
def Chip.delldGo (c : Chip) (p : Plan) (a wave : Nat) (f : LaneF) (n : Nat) : Chip :=
  let chunk := fld f.mod.toNat 0 0
  let block := c.blockNow p a wave
  let overs := c.deltaOvers p a wave f
  let use : Use := ⟨opnd f.d, [7], true, false⟩
  match c.firstBad a (fun _ => n) (fun _ => [use]) with
  | some d => c.laneSkip a 2 d 0x64 f
  | none =>
    let x := c.vecStep a 0x64 f (fun _ => n) (fun _ => [use]) fun g i =>
      match c.deltaOf wave ((c.ln g).getS f.b).toNat with
      | none => 0
      | some s => c.deltaSlot p s block ((c.ln g).getS f.a).toNat (g % 256) (2048 * chunk + i)
    overs.foldl Chip.deltaRange x

/-- DELLD (R133): a CHUNK that DMAX does not reach makes the instruction inconsistent. -/
def Chip.delld (c : Chip) (a wave : Nat) (f : LaneF) : Chip :=
  match c.plan.cur with
  | none => c.laneNext a
  | some p =>
    let n := min (p.dmax - 2048 * fld f.mod.toNat 0 0) 2048
    if n = 0 then c.laneSkip a 2 (descIdx (opnd f.d)) 0x64 f else c.delldGo p a wave f n

/-- DELLD (R133). -/
def execDelld (at_ : Atoll) (wave : Nat) (f : LaneF) (s : State) : Host.Outcome State Fault Refusal :=
  .next { s with unit := s.unit.laneStep at_ 0x64 f fun c => c.delld at_ wave f }

/-! ### NORM (R104, R409) -/

/-- A running pair as a 64-bit element, m in the low word. -/
def pairOf (v : Nat) : Word × Word := (BitVec.ofNat 32 v, BitVec.ofNat 32 (v / 2 ^ 32))
def pairNat (x : Word × Word) : Nat := x.1.toNat + x.2.toNat * 2 ^ 32

/-- The address of an atoll's wave signature for the running pair step (R409). -/
def Chip.sigAddr (c : Chip) (a wave : Nat) : Nat :=
  lagKey a (0x7E0000 + 128 * (c.lock.pairStep.toNat % 1024) + 8 * min wave 15)

/-- The wave signature goes on over values, row slot by row slot and lane by lane (R409). -/
def Chip.signWave (c : Chip) (a wave : Nat) (f : LaneF) : Chip :=
  if !c.lock.bound then c
  else
    let gs := c.writers a f
    let bs := (List.range (c.waveShape wave).1).flatMap fun r => gs.flatMap fun g => toLE 4 (c.readEl g (opnd f.a) r)
    let k := c.sigAddr a wave
    { c with lagoon := wrBytes c.lagoon k (toLE 8 (crc64 (rdLE c.lagoon k 8) bs)) }

/-- NORM (R104). -/
def Chip.norm (c : Chip) (a wave : Nat) (f : LaneF) : Chip :=
  let us : List Use := [⟨opnd f.d, [7], true, false⟩, ⟨opnd f.a, [0], false, true⟩]
  let n := (c.waveShape wave).1
  let signed := if (c.firstBad a (fun _ => n) fun _ => us).isSome then c else c.signWave a wave f
  signed.vecStep a 0x59 f (fun _ => n) (fun _ => us) fun g r =>
    pairNat (pairStep (pairOf (c.readEl g (opnd f.d) r)) (c.readFp g (opnd f.a) r))

/-- NORM (R104). -/
def execNorm (at_ : Atoll) (wave : Nat) (f : LaneF) (s : State) : Host.Outcome State Fault Refusal :=
  .next { s with unit := s.unit.laneStep at_ 0x59 f fun c => c.norm at_ wave f }

/-! ### CHK (R121) -/

/-- CHK: D[r] ← D[r] OR faulty(A[r], B[r], mask[r]). -/
def Chip.chk (c : Chip) (a : Nat) (f : LaneF) : Chip :=
  let m : Opnd := .desc (fld f.mod.toNat 5 0)
  c.vecStep a 0x5A f (fun g => c.countOf g (opnd f.d))
    (fun _ => [⟨opnd f.d, [4], true, false⟩, ⟨opnd f.a, [0], false, true⟩, ⟨opnd f.b, [0], false, true⟩, ⟨m, [4], false, true⟩])
    fun g r => Nat.lor (c.readEl g (opnd f.d) r)
      (b2n (faultyCol (c.readFp g (opnd f.a) r) (c.readFp g (opnd f.b) r) (c.readEl g m r ≠ 0)))

/-- CHK (R121). -/
def execChk (at_ : Atoll) (_wave : Nat) (f : LaneF) (s : State) : Host.Outcome State Fault Refusal :=
  .next { s with unit := s.unit.laneStep at_ 0x5A f fun c => c.chk at_ f }

end Sys2Proof.Machine
end

