-- ==== Sys2Proof/Machine/Cands.lean ====
section
/-!
DEFINITION. Keys, histograms, boundaries, candidate lists, the generator and the draw (R105, R166 to R186, R219).
-/
namespace Sys2Proof.Machine

/-! ### Keys and columns (R166 to R168, R174, R310, R311) -/

/-- The key of a conditioned value. -/
def keyOf (x : Word) : Word :=
  let b := if x = 0x80000000#32 then 0#32 else x
  if b.msb then ~~~b else b ^^^ 0x80000000#32

/-- The value of a key. -/
def keyVal (k : Word) : Word := if k.msb then k ^^^ 0x80000000#32 else ~~~k

/-- A live column: its token and its conditioned value. -/
structure Col where
  token : Nat
  x : Word
  deriving DecidableEq, Repr, Inhabited

/-- Column blocks that the atoll of a block scores: how many, and which round the block is. -/
def blockRound (d : Nat) (draft : Bool) (block : Nat) : Nat × Nat × Nat :=
  let as := classAtolls d draft
  let a := as.getD (block % as.length) 0
  (a, (classBlocks d draft a).length, block / as.length)

/-- The conditioned value of a row slot: in the scratchpad for the last unit that the atoll conditions, else in the piece-spill
region (R194, R227, R310, R311). -/
def Chip.condVal (c : Chip) (p : Plan) (wave slot piece block j lane : Nat) : Word :=
  let s := c.waveShape wave
  let r := blockRound c.draftN s.2 block
  let u := piece * r.2.1 + r.2.2
  let off := 4 * (j * s.1 + slot)
  if u + 1 = p.pieces * r.2.1 then BitVec.ofNat 32 (rdLE c.scratch (padKey (256 * r.1 + lane) off) 4)
  else BitVec.ofNat 32 (rdLE c.lagoon (lagKey r.1 ((p.region 4).1 + (256 * u + lane) * 4 * s.1 * p.cpl + off)) 4)

/-- The live columns of a block in a piece, in engine order. -/
def Chip.pieceCols (c : Chip) (p : Plan) (wave slot block piece : Nat) : List Col :=
  (List.range (256 * p.cpl)).filterMap fun i =>
    let col := p.column block (p.wide piece (i / 256)) (i % 256)
    if p.n ≤ col then none
    else
      let x := c.condVal p wave slot piece block (i / 256) (i % 256)
      if f32Finite x then some { token := p.baseToken + col, x := x } else none

/-- The live columns of a block, in the order in which the histogram engine takes them (R174). -/
def Chip.blockCols (c : Chip) (p : Plan) (wave slot block : Nat) : List Col :=
  (List.range p.pieces).flatMap fun i => c.pieceCols p wave slot block i

/-- The live columns of a row, block by block. -/
def Chip.rowCols (c : Chip) (p : Plan) (wave slot : Nat) : List (List Col) := (List.range 16).map fun b => c.blockCols p wave slot b

/-! ### The row's pair (R104, R105, R194) -/

/-- Does a block hold no column of a piece (R101, R105)? -/
def Plan.emptyBlock (p : Plan) (draft : Bool) (piece block : Nat) : Bool :=
  decide (p.n ≤ p.column block (p.wide piece 0) 0) || (!p.scoreIn draft && decide (16 / cfgKsplit (p.cfg draft) ≤ block))

/-- A lane's running pair in a piece of a block: (−inf, +0) for an empty block, the one in the scratchpad for the last unit, else the one
that its values gave. -/
def Chip.lanePair (c : Chip) (p : Plan) (wave slot piece block lane : Nat) : Word × Word :=
  let s := c.waveShape wave
  let r := blockRound c.draftN s.2 block
  if p.emptyBlock s.2 piece block then (negInf, 0#32)
  else if piece * r.2.1 + r.2.2 + 1 = p.pieces * r.2.1 then pairOf (rdLE c.scratch (padKey (256 * r.1 + lane) (0x7C00 + 8 * slot)) 8)
  else (List.range p.cpl).foldl (fun a j => pairStep a (c.condVal p wave slot piece block j lane)) (negInf, 0#32)

/-- The pair of a piece: the lanes of each block, then the blocks. -/
def Chip.piecePair (c : Chip) (p : Plan) (wave slot piece : Nat) : Word × Word :=
  let z : Word × Word := (negInf, 0#32)
  treeJoin pairJoin z 4 ((List.range 16).map fun b =>
    treeJoin pairJoin z 8 ((List.range 256).map fun l => c.lanePair p wave slot piece b l))

/-- The pair of a row: its pieces padded to four. -/
def Chip.rowPair (c : Chip) (p : Plan) (wave slot : Nat) : Word × Word :=
  let z : Word × Word := (negInf, 0#32)
  treeJoin pairJoin z 2 ((List.range 4).map fun i => if i < p.pieces then c.piecePair p wave slot i else z)

/-! ### Histograms (R168, R173 to R175) -/

/-- A histogram: count and mass of the bins that hold columns. -/
abbrev Hist := SMap (Nat × Word)

/-- e(x): the mass of a value under a row maximum. -/
def massOf (m x : Word) : Word := fexp (fsub x m)

/-- The digit of a key that a pass bins by, and how many bins there are. -/
def digit (pass : Nat) (k : Word) : Nat := if pass = 1 then fld k.toNat 31 21 else if pass = 2 then fld k.toNat 20 10 else fld k.toNat 9 0
def nbins (pass : Nat) : Nat := if pass = 3 then 1024 else 2048

/-- Is a key in the set of a pass? `key` is the decided prefix, aligned to bit 31. -/
def inPass (pass : Nat) (key k : Word) : Bool :=
  if pass = 1 then true else if pass = 2 then fld k.toNat 31 21 = fld key.toNat 31 21 else fld k.toNat 31 10 = fld key.toNat 31 10

/-- One more column in its bin. -/
def Hist.push (h : Hist) (b : Nat) (e : Word) : Hist :=
  let x := tget h b
  tset h b (x.1 + 1, fadd x.2 e)

/-- Two histograms added bin by bin, the left operand first. -/
def Hist.join (a b : Hist) : Hist :=
  b.foldl (fun h e => let x := tget h e.1; tset h e.1 (x.1 + e.2.1, fadd x.2 e.2.2)) a

/-- The histogram of a pass over one block's columns. -/
def blockHist (pass : Nat) (key m : Word) (cols : List Col) : Hist :=
  (cols.filter fun x => inPass pass key (keyOf x.x)).foldl (fun h x => Hist.push h (digit pass (keyOf x.x)) (massOf m x.x)) []

/-- The merged histogram of a pass over a row's blocks. -/
def rowHist (pass : Nat) (key m : Word) (blocks : List (List Col)) : Hist :=
  treeJoin Hist.join [] 4 (blocks.map (blockHist pass key m))

/-! ### Boundaries (R170, R177) -/

/-- Where a search has got to: the decided key prefix, mass and count above it, and the length once it is fixed. -/
structure Cut where
  key : Word
  acc : Word
  above : Nat
  fixed : Option Nat
  deriving DecidableEq, Repr, Inhabited

/-- The bins that hold columns, highest first. -/
def Hist.desc (h : Hist) : List (Nat × Nat × Word) := (h.filter fun e => e.2.1 ≠ 0).reverse

/-- s1 of R177. -/
def Hist.total (h : Hist) : Word := h.desc.foldl (fun a e => fadd a e.2.2) 0#32

/-- The first bin, from the top, whose running mass reaches the target, with the mass and count above it. -/
def scanMass (target : Word) : (acc : Word) → (above : Nat) → List (Nat × Nat × Word) → Option Nat × Word × Nat
  | acc, above, [] => (none, acc, above)
  | acc, above, (b, n, w) :: r =>
    let nxt := fadd acc w
    if fle target nxt then (some b, acc, above) else scanMass target nxt (above + n) r

/-- A key prefix with the digit of a pass put in. -/
def putDigit (pass : Nat) (key : Word) (b : Nat) : Word :=
  key ||| BitVec.ofNat 32 (b * (if pass = 1 then 2 ^ 21 else if pass = 2 then 2 ^ 10 else 1))

/-- One pass of the search of R177. -/
def massPass (target : Word) (pass : Nat) (h : Hist) (u : Cut) : Cut :=
  match u.fixed with
  | some _ => u
  | none =>
    match scanMass target u.acc u.above h.desc with
    | (none, acc, above) => { u with acc := acc, above := above, fixed := some above }
    | (some b, acc, above) => { u with key := putDigit pass u.key b, acc := acc, above := above }

/-- The smallest j from 1 to n with which the tie group reaches the target, else n. -/
def tieCut (target acc e : Word) (n : Nat) : Nat :=
  match (List.range n).find? fun (i : Nat) => fle target (fadd acc (fmul (Fp.ofInt (Int.ofNat (i + 1))).toF32 e)) with
  | some i => i + 1
  | none => n

/-- Kp of a row (R177), over the merged histograms that a function gives for a pass and a decided prefix. -/
def topPLen (tp m : Word) (h : Nat → Word → Hist) : Nat :=
  let h1 := h 1 0#32
  let target := fmul tp h1.total
  let u := massPass target 1 h1 { key := 0#32, acc := 0#32, above := 0, fixed := none }
  let u := massPass target 2 (h 2 u.key) u
  let h3 := h 3 u.key
  let u := massPass target 3 h3 u
  match u.fixed with
  | some n => n
  | none => u.above + tieCut target u.acc (massOf m (keyVal u.key)) (tget h3 (digit 3 u.key)).1

/-- The key prefix that the first two passes decide (R173, R177). -/
def passKey (tp : Word) (h : Nat → Word → Hist) : Word :=
  let target := fmul tp (h 1 0#32).total
  let u := massPass target 1 (h 1 0#32) { key := 0#32, acc := 0#32, above := 0, fixed := none }
  (massPass target 2 (h 2 u.key) u).key

/-- The bins of the histogram engines after a pass: an atoll that scores several blocks keeps those of its last (R23, R227). -/
def Chip.leaveBins (c : Chip) (draft : Bool) (pass : Nat) (key m : Word) (blocks : List (List Col)) : Chip :=
  blocks.zipIdx.foldl (fun c e => c.modAtl (blockRound c.draftN draft e.2).1 fun x => { x with hist := blockHist pass key m e.1 }) c

/-- thr of min-p: rne(m + rne(log(min_p))) (R170). -/
def minThr (m minP : Word) : Word := fadd m (flog minP)

/-! ### The list (R167, R170, R171, R178 to R180) -/

/-- Does a come before b in the selection order? -/
def colBefore (a b : Col) : Bool :=
  let x := (keyOf a.x).toNat
  let y := (keyOf b.x).toNat
  if x ≠ y then decide (y < x) else decide (a.token < b.token)

/-- CAP (R169). -/
def Chip.cap (c : Chip) : Nat := c.rfld 0x144 12 0

/-- The cut-offs of a row: logprob count, rescore count, whether it is greedy, and the clamped fields. -/
structure SelParams where
  greedy : Bool
  alts : Nat
  rescore : Nat
  topK : Nat
  topP : Word
  minP : Word
  deriving DecidableEq, Repr, Inhabited

/-- The selection parameters of a row: a draft row takes no logprobs and no rescore, a merge-group row no rescore (R196, R215). -/
def Chip.selParams (c : Chip) (r : Row) : SelParams :=
  let q := r.req.toNat
  let p := c.pm q
  { greedy := p.temp = 0#32, alts := if r.kind = .draft then 0 else p.logprobs.toNat
    rescore := if r.kind = .draft then 0 else c.rescoreOf q p
    topK := p.topK.toNat, topP := p.topP, minP := p.minP }

/-- The least count among cut-offs that need no histogram. -/
def SelParams.countCut (s : SelParams) (m : Word) (cols : List Col) : Nat :=
  let live := cols.length
  let kk := if s.topK = 0 then live else s.topK
  let km := if s.minP = 0#32 then live else (cols.filter fun x => fle (minThr m s.minP) x.x).length
  min (min kk km) live

/-- K′ of a sampled row (R170). -/
def SelParams.prefixLen (s : SelParams) (m : Word) (blocks : List (List Col)) : Nat :=
  let n := s.countCut m blocks.flatten
  if s.topP = 0x3F800000#32 then n else min n (topPLen s.topP m fun pass key => rowHist pass key m blocks)

/-- L of a row and whether it is truncated (R170, R171). -/
def SelParams.listLen (s : SelParams) (cap : Nat) (m : Word) (blocks : List (List Col)) : Nat × Bool :=
  if s.greedy then (min (max (s.alts + 1) s.rescore) blocks.flatten.length, false)
  else
    let k := s.prefixLen m blocks
    (min k cap, decide (cap < k))

/-- Running masses through each entry (R180). -/
def cumulate : (first : Bool) → Word → List Cand → List Cand
  | _, _, [] => []
  | first, a, e :: r =>
    let u := if first then e.mass else fadd a e.mass
    { e with cum := u } :: cumulate false u r

/-- The final form of a list. -/
def withCum (l : List Cand) : List Cand := cumulate true 0#32 l

/-- Z: the last CUM of a list. -/
def totalOf (l : List Cand) : Word := ((l.getLast?).map fun e => e.cum).getD 0#32

/-- An entry of the list of a column. -/
def candOf (m : Word) (x : Col) : Cand :=
  { resc := false, token := BitVec.ofNat 24 x.token, key := keyOf x.x, mass := massOf m x.x, cum := 0#32 }

/-- The first n columns of the selection order. -/
def gather (n : Nat) (m : Word) (cols : List Col) : List Cand := ((sortBy colBefore cols).take n).map (candOf m)

/-- The selection order over list entries. -/
def candBefore (a b : Cand) : Bool :=
  if a.key ≠ b.key then decide (b.key.toNat < a.key.toNat) else decide (a.token.toNat < b.token.toNat)

/-! ### The generator (R183 to R185) -/

/-- The four words of a Philox counter. -/
structure Ctr where
  c0 : Word
  c1 : Word
  c2 : Word
  c3 : Word
  deriving DecidableEq, Repr, Inhabited

/-- High and low halves of a product. -/
def mulHi (a b : Word) : Word := BitVec.ofNat 32 (a.toNat * b.toNat / 2 ^ 32)
def mulLo (a b : Word) : Word := a * b

/-- The rounds that are left, under keys k0 and k1. -/
def philoxRounds : (n : Nat) → (k0 k1 : Word) → Ctr → Ctr
  | 0, _, _, x => x
  | n + 1, k0, k1, x =>
    philoxRounds n (k0 + 0x9E3779B9#32) (k1 + 0xBB67AE85#32)
      { c0 := mulHi 0xCD9E8D57#32 x.c2 ^^^ x.c1 ^^^ k0, c1 := mulLo 0xCD9E8D57#32 x.c2
        c2 := mulHi 0xD2511F53#32 x.c0 ^^^ x.c3 ^^^ k1, c3 := mulLo 0xD2511F53#32 x.c0 }

/-- Philox-4×32 with 10 rounds. -/
def philox (k0 k1 c0 c1 c2 c3 : Word) : Ctr := philoxRounds 10 k0 k1 { c0 := c0, c1 := c1, c2 := c2, c3 := c3 }

/-- Stream codes. -/
def strSample : Word := 0#32
def strDraft : Word := 1#32
def strAccept : Word := 2#32
def strResidual : Word := 3#32

/-- The uniform of a seed, position and stream, draw index 0. -/
def uniform (seed : DWord) (pos stream : Word) : Word :=
  let o := (philox (seed.setWidth 32) ((seed >>> 32).setWidth 32) pos 0#32 stream 0#32).c0
  (Fp.fin false (o.toNat / 256) (-24)).toF32

/-! ### The draw (R186) -/

/-- The entry that a threshold chooses. -/
def pick (l : List Cand) (thr : Word) : Nat :=
  match (List.range l.length).find? fun i => flt thr (l.getD i default).cum with
  | some i => i
  | none => ((List.range l.length).reverse.find? fun i => flt 0#32 (l.getD i default).mass).getD 0

/-- thr of a draw with a uniform. -/
def thrOf (l : List Cand) (u : Word) : Word := fmul u (totalOf l)

/-! ### Acceptance and residual (R219) -/

/-- The MASS of a token in a list, or +0.0. -/
def massIn (l : List Cand) (tok : BitVec 24) : Word := ((l.find? fun e => e.token = tok).map fun e => e.mass).getD 0#32

/-- The index words of a list in the gambit store: entry numbers in ascending TOKEN order (R217). -/
def indexWords (l : List Cand) : List Word :=
  (sortBy (fun a b => decide (a.1.token.toNat < b.1.token.toNat)) l.zipIdx).map fun e => BitVec.ofNat 32 e.2

/-- The place in lo to hi − 1 of the index at which a token stands, by binary search (R217). -/
def searchIndex (l : List Cand) (idx : List Word) (tok : BitVec 24) : (fuel lo hi : Nat) → Option Nat
  | 0, _, _ => none
  | n + 1, lo, hi =>
    if hi ≤ lo then none
    else
      let mid := (lo + hi) / 2
      let e := (idx.getD mid 0).toNat
      let t := (l.getD e default).token
      if t = tok then some e
      else if t.toNat < tok.toNat then searchIndex l idx tok n (mid + 1) hi else searchIndex l idx tok n lo mid

/-- The MASS of a token in a stored list, found through its index words, or +0.0. -/
def massStored (q : List Cand × List Word) (tok : BitVec 24) : Word :=
  ((searchIndex q.1 q.2 tok 20 0 q.1.length).map fun i => (q.1.getD i default).mass).getD 0#32

/-- Is a draft token accepted? `ql`: the draft list with its index words. -/
def accepts (pl : List Cand) (ql : List Cand × List Word) (y : BitVec 24) (u : Word) : Bool :=
  let mp := massIn pl y
  let mq := massStored ql y
  let a := fmul mp (totalOf ql.1)
  let f := fmul mq (totalOf pl)
  fle f a || flt (fmul (fmul u mq) (totalOf pl)) a

/-- The residual weights of a target list, in list order. -/
def residual (pl : List Cand) (ql : List Cand × List Word) : List Word :=
  pl.map fun e => fmax (fsub (fmul e.mass (totalOf ql.1)) (fmul (massStored ql e.token) (totalOf pl))) 0#32

/-- Running sums from +0.0. -/
def sums : Word → List Word → List Word
  | _, [] => []
  | a, w :: r => let b := fadd a w; b :: sums b r

/-- The entry drawn from the residual, and whether it had no weight. -/
def resample (pl : List Cand) (ql : List Cand × List Word) (u : Word) : Nat × Bool :=
  let ws := residual pl ql
  let rc := sums 0#32 ws
  let cum := rc.getLast?.getD 0#32
  if flt 0#32 cum then
    let thr := fmul u cum
    match (List.range rc.length).find? fun i => flt thr (rc.getD i 0) with
    | some i => (i, false)
    | none => (((List.range ws.length).reverse.find? fun i => flt 0#32 (ws.getD i 0)).getD 0, false)
  else (pick pl (thrOf pl u), true)

end Sys2Proof.Machine
end

