-- ==== Sys2Proof/Machine/Merge.lean ====
section
/-!
DEFINITION. Merge groups: the tree, the messages, a row's exchanges, NOTICEs and timeouts (R196 to R208).
-/
namespace Sys2Proof.Machine

/-- Is a row greedy: its token is entry 0 of its list, with no draw (R171)? -/
def Chip.greedyRow (c : Chip) (r : Row) : Bool := (c.pm r.req.toNat).temp = 0#32

/-- A row that ends in ROW_FAULT or NO_CANDIDATE is counted (R164). -/
def Chip.countOutcome (c : Chip) : RowOutcome → Chip
  | .fault => (c.count 0x064 1).orReg 0x060 1#32
  | .noCandidate => (c.count 0x068 1).orReg 0x060 2#32
  | _ => c

/-! ### The group and its tree (R199, R207) -/

/-- The number of members, and this unit's index; index 0 is the root and the owner (R207). -/
def Chip.mergeSize (c : Chip) : Nat := c.rfld 0x090 5 0 + 1
def Chip.mergeMe (c : Chip) : Nat := c.rfld 0x090 13 8

/-- The members from which member u receives on the way up, by ascending level, in a group of n. -/
def mergeKids (n u : Nat) : List Nat :=
  (List.range 6).filterMap fun l => if u % 2 ^ (l + 1) = 0 ∧ u + 2 ^ l < n then some (u + 2 ^ l) else none

/-- The member to which member u, above 0, sends on the way up. -/
def mergeParent (u : Nat) : Nat :=
  match (List.range 6).find? fun l => u.testBit l with
  | some l => u - 2 ^ l
  | none => 0

/-! ### Messages (R200, R201) -/

/-- KIND codes. -/
def kNorm : Nat := 0
def kDecision : Nat := 4
def kList : Nat := 5
def kNotice : Nat := 6

/-- A message's bytes. -/
def mergeBytes (tag source kind flags : Nat) (req : ReqId) (pos : Word) (body : List Byte) : List Byte :=
  [BitVec.ofNat 8 tag, BitVec.ofNat 8 source, BitVec.ofNat 8 kind, BitVec.ofNat 8 flags] ++ toLE 4 pos.toNat
    ++ toLE 2 req.toNat ++ toLE 2 (body.length / 16) ++ toLE 4 0 ++ body

/-- A message leaves for a member. -/
def Chip.sendMerge (c : Chip) (dest kind flags : Nat) (req : ReqId) (pos : Word) (body : List Byte) : Chip :=
  (c.overChannel 0 (Config.memberPackage (c.rfld 0x090 23 16) dest).toNat (.merge dest)
    (mergeBytes (c.rfld 0x090 23 16) c.mergeMe kind flags req pos body)).eventMch 0x301

/-- A message leaves for every other member. -/
def Chip.sendDown (c : Chip) (kind flags : Nat) (req : ReqId) (pos : Word) (body : List Byte) : Chip :=
  (List.range c.mergeSize).foldl (fun c d => if d = c.mergeMe then c else c.sendMerge d kind flags req pos body) c

/-- The flag bits that a KIND may carry: DESYNC in NORM, DROP and END in NOTICE. -/
def flagRoom (kind : Nat) : Nat := if kind = kNorm then 1 else if kind = kNotice then 6 else 0

/-- Does LENGTH, in 16-byte units, fit KIND? -/
def lengthFits (kind n : Nat) : Bool :=
  match kind with
  | 1 => n = 1024
  | 2 => n = 1024
  | 3 => n = 512
  | 5 => n ≤ 2048
  | _ => n = 1

/-- A message as it is kept. -/
def mergeMsg (m : List Byte) : MrgMsg :=
  { kind := fld (leAt m 2 1) 2 0, source := fld (leAt m 1 1) 5 0, req := BitVec.ofNat 12 (leAt m 8 2), pos := BitVec.ofNat 32 (leAt m 4 4)
    flags := BitVec.ofNat 8 (leAt m 3 1), body := m.drop 16 }

/-- Is a message malformed for this unit? -/
def Chip.mergeBad (c : Chip) (m : List Byte) : Bool :=
  let kind := fld (leAt m 2 1) 2 0
  let n := leAt m 10 2
  decide (leAt m 0 1 ≠ c.rfld 0x090 23 16 ∨ kind = 7 ∨ 64 ≤ leAt m 1 1 ∨ 8 ≤ leAt m 2 1
    ∨ Nat.land (leAt m 3 1) (255 - flagRoom kind) ≠ 0 ∨ 4096 ≤ leAt m 8 2 ∨ leAt m 12 4 ≠ 0 ∨ m.length ≠ 16 + 16 * n)
  || !lengthFits kind n

/-- Is a row a merge-group row that takes part in exchanges? -/
def Chip.mergeRow (c : Chip) (r : Row) : Bool := (c.rq r.req.toNat).merge && r.drop.isNone && !r.predOff

/-- The merge-group row of a request and position (log entry 81). -/
def Chip.mergeRowAt (c : Chip) (req : ReqId) (pos : Word) : Option Row :=
  if !c.stp.active ∨ c.stp.committed then none else c.stp.rows.find? fun r => c.mergeRow r && decide (r.req = req ∧ r.pos = pos)

/-- A message is discarded. -/
def Chip.mergeStray (c : Chip) : Chip := ((c.orReg 0x080 0x20#32).note .mergeStray 27).eventMch 0x304

/-! ### Payloads -/

/-- The pair that a NORM carries. -/
def MrgMsg.pair (m : MrgMsg) : Word × Word := (BitVec.ofNat 32 (leAt m.body 0 4), BitVec.ofNat 32 (leAt m.body 4 4))

/-- The histogram that a PASS message carries. -/
def MrgMsg.hist (m : MrgMsg) : Hist :=
  (List.range (m.body.length / 8)).foldl (fun h i => tset h i (leAt m.body (8 * i) 4, BitVec.ofNat 32 (leAt m.body (8 * i + 4) 4))) []

/-- A histogram as a payload of n bins. -/
def Hist.bytes (h : Hist) (n : Nat) : List Byte :=
  (List.range n).flatMap fun b => toLE 4 (tget h b).1 ++ toLE 4 (tget h b).2.toNat

/-- The entries that a LIST carries under a row maximum; padding has KEY 0. -/
def MrgMsg.entries (m : MrgMsg) (max : Word) : List Cand :=
  (List.range (m.body.length / 8)).filterMap fun i =>
    let k := BitVec.ofNat 32 (leAt m.body (8 * i) 4)
    if k = 0#32 then none
    else some { resc := false, token := BitVec.ofNat 24 (leAt m.body (8 * i + 4) 3), key := k, mass := massOf max (keyVal k), cum := 0#32 }

/-- A list as a payload. -/
def listBytes (l : List Cand) : List Byte :=
  (l.flatMap fun e => toLE 4 e.key.toNat ++ toLE 4 e.token.toNat) ++ (if l.length % 2 = 1 then List.replicate 8 0#8 else [])

/-- Lists merged by the selection order and cut. -/
def mergeLists (n : Nat) (a b : List Cand) : List Cand := (sortBy candBefore (a ++ b)).take n

/-- The payload of a decision. -/
def decisionBytes (x : MrgRow) (final : Bool) : List Byte :=
  toLE 4 x.key.toNat ++ toLE 4 x.accum.toNat ++ toLE 4 x.above ++ toLE 2 x.len ++ [BitVec.ofNat 8 (b2n final), 0#8]

/-! ### The root's decision (R170, R171, R177, R198) -/

/-- +inf: a mass target that nothing reaches. -/
def noTarget : Word := 0x7F800000#32

/-- The bin in which the first of the cut-offs falls: bins from the top, with the mass and count above. -/
def scanCuts (target : Word) (cap : Nat) (thr : Option Nat) : (acc : Word) → (above : Nat) → List (Nat × Nat × Word) →
    Option (Nat × Word × Nat × Bool)
  | _, _, [] => none
  | acc, above, (b, n, w) :: r =>
    let nxt := fadd acc w
    let hit := fle target nxt
    if hit ∨ cap ≤ above + n ∨ (thr.any fun t => decide (b ≤ t)) then some (b, acc, above, hit)
    else scanCuts target cap thr nxt (above + n) r

/-- The cut-offs as pass 1 starts. -/
def SelParams.startCuts (s : SelParams) (cap : Nat) (h : Hist) (x : MrgRow) : MrgRow :=
  let live := (h.desc.map fun e => e.2.1).foldl (· + ·) 0
  { x with
    key := 0#32, accum := 0#32, above := 0, fixed := none
    target := if s.greedy ∨ s.topP = 0x3F800000#32 then noTarget else fmul s.topP h.total
    cap := if s.greedy then min (max (s.alts + 1) s.rescore) live else min (min (if s.topK = 0 then live else s.topK) live) (cap + 1) }

/-- Where a mass search falls short of its target in a pass, the whole prefix group is in. -/
def shortMass (h : Hist) (x : MrgRow) : MrgRow :=
  if x.target = noTarget then x
  else match scanMass x.target x.accum x.above h.desc with
    | (none, _, n) => { x with target := noTarget, cap := min x.cap n }
    | _ => x

/-- The key of thr, where min-p is in force. -/
def SelParams.thrKey (s : SelParams) (m : Word) : Option Word :=
  if s.greedy ∨ s.minP = 0#32 then none else some (keyOf (minThr m s.minP))

/-- One pass of the root's search. -/
def SelParams.decide (s : SelParams) (cap : Nat) (m : Word) (pass : Nat) (h : Hist) (x : MrgRow) : MrgRow :=
  let x := shortMass h (if pass = 1 then s.startCuts cap h x else x)
  let thr : Option Nat := (s.thrKey m).bind fun k => if inPass pass x.key k then some (digit pass k) else none
  match scanCuts x.target x.cap thr x.accum x.above h.desc with
  | none => { x with fixed := x.fixed.orElse fun _ => some ((h.desc.map fun e => e.2.1).foldl (· + ·) x.above) }
  | some (b, acc, above, hit) =>
    { x with
      key := putDigit pass x.key b, accum := acc, above := above, target := if hit then x.target else noTarget
      fixed := x.fixed.orElse fun _ => if thr.any fun t => b < t then some above else none }

/-- K′ after the third pass. -/
def MrgRow.length (x : MrgRow) (m : Word) (h : Hist) : Nat :=
  let n := (tget h (digit 3 x.key)).1
  x.fixed.getD (x.above + min n (min (x.cap - x.above)
    (if x.target = noTarget then n else tieCut x.target x.accum (massOf m (keyVal x.key)) n)))

/-! ### A row's exchanges (R198 to R200, R203) -/

/-- Change a row's exchange. -/
def Chip.modMrg (c : Chip) (x : MrgRow) (f : MrgRow → MrgRow) : Chip :=
  { c with merge := { c.merge with rows := c.merge.rows.map fun y => if y.req = x.req ∧ y.pos = x.pos then f y else y } }

/-- Change the row of an exchange. -/
def Chip.modMrgRow (c : Chip) (x : MrgRow) (f : Row → Row) : Chip := c.mapRows (fun r => decide (r.req = x.req ∧ r.pos = x.pos)) f

/-- The KIND that goes up in a stage. -/
def stageKind (stage : Nat) : Nat := if stage = 4 then kList else stage

/-- The messages of a stage from below, once all are there. -/
def Chip.mrgBelow (c : Chip) (x : MrgRow) : Option (List MrgMsg) :=
  let ks := mergeKids c.mergeSize c.mergeMe
  let ms := ks.filterMap fun k =>
    c.merge.recv.find? fun m => decide (m.kind = stageKind x.stage ∧ m.source = k ∧ m.req = x.req ∧ m.pos = x.pos)
  if ms.length = ks.length then some ms else none

/-- The root's message of a stage. -/
def Chip.mrgAbove (c : Chip) (x : MrgRow) : Option MrgMsg :=
  let kind := if x.stage = 0 then kNorm else kDecision
  c.merge.recv.find? fun m => decide (m.kind = kind ∧ m.source = 0 ∧ m.req = x.req ∧ m.pos = x.pos)

/-- Messages that have been used are gone. -/
def Chip.mrgUsed (c : Chip) (ms : List MrgMsg) : Chip :=
  { c with merge := { c.merge with recv := c.merge.recv.filter fun m => !ms.contains m } }

/-- The shard's pair, joined with those from below. -/
def Chip.mrgPair (c : Chip) (p : Plan) (r : Row) (ms : List MrgMsg) : Word × Word :=
  ms.foldl (fun a m => pairJoin a m.pair) (c.rowPair p r.wave r.slot)

/-- The shard's histogram of a pass, joined with those from below. -/
def Chip.mrgHist (c : Chip) (p : Plan) (x : MrgRow) (r : Row) (ms : List MrgMsg) : Hist :=
  ms.foldl (fun h m => Hist.join h m.hist) (rowHist x.stage x.key r.m (c.rowCols p r.wave r.slot))

/-- The shard's first entries, merged with those from below. -/
def Chip.mrgList (c : Chip) (p : Plan) (x : MrgRow) (r : Row) (ms : List MrgMsg) : List Cand :=
  ms.foldl (fun l m => mergeLists x.len l (m.entries r.m)) (gather x.len r.m (c.rowCols p r.wave r.slot).flatten)

/-- Has this member, or one below it, missed a NOTICE? -/
def Chip.mrgDesync (c : Chip) (x : MrgRow) (ms : List MrgMsg) : Bool :=
  (c.ax x.req.toNat).desync || (x.stage = 0 && ms.any fun m => m.flags.getLsbD 0)

/-- What a member that is not the root sends up in a stage. -/
def Chip.mrgUp (c : Chip) (p : Plan) (x : MrgRow) (r : Row) (ms : List MrgMsg) : Chip :=
  let up (c : Chip) (flags : Nat) (body : List Byte) : Chip :=
    (c.sendMerge (mergeParent c.mergeMe) (stageKind x.stage) flags x.req x.pos body).modMrg x fun y => { y with up := true }
  let c' := c.mrgUsed ms
  if x.stage = 0 then
    let v := c.mrgPair p r ms
    let c' := up c' (b2n (c.mrgDesync x ms)) (pairBytes v ++ List.replicate 8 0#8)
    c'.modAx x.req.toNat fun a => { a with desync := false }
  else if x.stage ≤ 3 then up c' 0 ((c.mrgHist p x r ms).bytes (nbins x.stage))
  else
    let c' := up c' 0 (listBytes (c.mrgList p x r ms))
    (c'.modMrg x fun y => { y with stage := 5 }).modMrgRow x fun r => { r with outcome := .listed }

/-- An exchange ends without a list: the combined maximum is −inf. -/
def Chip.mrgEmpty (c : Chip) (x : MrgRow) : Chip :=
  ((c.modMrg x fun y => { y with stage := 5, up := true }).modMrgRow x fun r => { r with outcome := .noCandidate }).countOutcome .noCandidate

/-- NORM is combined: the row has its pair, and the next stage begins. -/
def Chip.mrgNormed (c : Chip) (x : MrgRow) (v : Word × Word) : Chip :=
  let c := c.modMrgRow x fun r => { r with m := v.1, s := v.2 }
  if v.1 = negInf then c.mrgEmpty x else c.modMrg x fun y => { y with stage := 1, up := false }

/-- The owner holds a request whose member has missed a NOTICE (R203). -/
def Chip.mrgHeld (c : Chip) (req : ReqId) (pos : Word) : Chip :=
  let c := (c.orReg 0x080 0x10#32).note .mergeDesync 27
  let c := c.mapRows (fun r => decide (r.req = req ∧ r.pos = pos)) fun r => { r with drop := some .rowFault, predOff := true }
  { c.modAx req.toNat fun a => { a with desync := false } with
    merge := { c.merge with
      rows := c.merge.rows.filter fun y => !(y.req = req ∧ y.pos = pos), recv := c.merge.recv.filter fun m => !(m.req = req ∧ m.pos = pos) } }

/-- A row is truncated at CAP (R170). -/
def Chip.truncRow (c : Chip) (pick : Row → Bool) : Chip :=
  (((c.count 0x084 1).orReg 0x080 1#32).event 0x025).mapRows pick fun r => { r with trunc := true }

/-- The root's part in a pass. -/
def Chip.mrgPass (c : Chip) (p : Plan) (x : MrgRow) (r : Row) (ms : List MrgMsg) : Chip :=
  let s := c.selParams r
  let h := c.mrgHist p x r ms
  let y := s.decide c.cap r.m x.stage h x
  let k := y.length r.m h
  let last := x.stage = 3
  let y := if last then { y with len := if s.greedy then k else min k c.cap } else y
  let c := c.sendDown kDecision 0 x.req x.pos (decisionBytes y last)
  let c := if last ∧ !s.greedy ∧ c.cap < k then c.truncRow fun r => r.req = x.req ∧ r.pos = x.pos else c
  c.modMrg x fun _ => { y with stage := x.stage + 1, up := false }

/-- The root's part in a stage. -/
def Chip.mrgRoot (c : Chip) (p : Plan) (x : MrgRow) (r : Row) (ms : List MrgMsg) : Chip :=
  let c' := c.mrgUsed ms
  if x.stage = 0 then
    let v := c.mrgPair p r ms
    (c'.sendDown kNorm 0 x.req x.pos (pairBytes v ++ List.replicate 8 0#8)).mrgNormed x v
  else if x.stage ≤ 3 then c'.mrgPass p x r ms
  else
    (c'.modMrg x fun y => { y with stage := 5, up := true }).modMrgRow x fun r =>
      { r with outcome := .listed, list := withCum (c.mrgList p x r ms), drawn := if c.greedyRow r then some 0 else none }

/-- The root's message of a stage is taken. -/
def Chip.mrgTake (c : Chip) (x : MrgRow) (m : MrgMsg) : Chip :=
  let c := c.mrgUsed [m]
  if x.stage = 0 then c.mrgNormed x m.pair
  else c.modMrg x fun y => { y with
    key := BitVec.ofNat 32 (leAt m.body 0 4), accum := BitVec.ofNat 32 (leAt m.body 4 4), above := leAt m.body 8 4
    len := leAt m.body 12 2, stage := x.stage + 1, up := false }

/-- This member's part in a stage, once all that comes from below is there; a pass leaves its bins in the engines (R23). -/
def Chip.mrgPart (c : Chip) (p : Plan) (x : MrgRow) (r : Row) (ms : List MrgMsg) : Chip :=
  let c := if 1 ≤ x.stage ∧ x.stage ≤ 3 then c.leaveBins false x.stage x.key r.m (c.rowCols p r.wave r.slot) else c
  if c.mergeMe = 0 then c.mrgRoot p x r ms else c.mrgUp p x r ms

/-- The next thing that a row's exchange can do. -/
def Chip.mrgStep (c : Chip) (p : Plan) (x : MrgRow) : Option Chip :=
  match c.mergeRowAt x.req x.pos with
  | none => none
  | some r =>
    if 5 ≤ x.stage then none
    else if x.up then (c.mrgAbove x).map (c.mrgTake x)
    else (c.mrgBelow x).map fun ms => c.mrgPart p x r ms

/-- A row's exchange goes on as far as what has arrived takes it. -/
def Chip.mrgRun (p : Plan) (req : ReqId) (pos : Word) : Nat → Chip → Chip
  | 0, c => c
  | n + 1, c =>
    match c.merge.rows.find? fun x => decide (x.req = req ∧ x.pos = pos) with
    | none => c
    | some x => match c.mrgStep p x with
      | none => c
      | some d => Chip.mrgRun p req pos n d

/-- A merge-group row that selection has taken begins its exchanges (R198). -/
def Chip.mrgBegin (c : Chip) (p : Plan) (r : Row) : Chip :=
  let x : MrgRow :=
    { (default : MrgRow) with req := r.req, pos := r.pos, stage := 0, up := false }
  Chip.mrgRun p r.req r.pos 16 { c with merge := { c.merge with rows := c.merge.rows ++ [x] } }

/-! ### Arrivals -/

/-- A message that is taken: kept until its exchange uses it; a NOTICE until the commit point. A NORM with DESYNC makes the owner hold
the request (R203). -/
def Chip.mergeKeep (c : Chip) (m : MrgMsg) : Chip :=
  if m.kind = kNotice then { c with merge := { c.merge with notices := c.merge.notices ++ [m] } }
  else if m.kind = kNorm ∧ m.flags.getLsbD 0 ∧ c.mergeMe = 0 then c.mrgHeld m.req m.pos
  else
    let c := { c with merge := { c.merge with recv := c.merge.recv ++ [m] } }
    match c.plan.cur with
    | none => c
    | some p => Chip.mrgRun p m.req m.pos 16 c

/-- 256 B credit units that a message of n payload bytes takes of the merge buffers (R468). -/
def mergeUnits (n : Nat) : Nat := cdiv (16 + n) 256

/-- Credit units in use: the messages that wait in the 128 KiB of merge buffers (R401, R468). -/
def Chip.mergeHeld (c : Chip) : Nat := ((c.merge.held ++ c.merge.recv ++ c.merge.notices).map fun m => mergeUnits m.body.length).sum

/-- A message that arrives in a halt waits for its end (R447, R448). -/
def Chip.mergeTake (c : Chip) (m : MrgMsg) : Chip :=
  if c.halts then { c with merge := { c.merge with held := c.merge.held ++ [m] } } else c.mergeKeep m

/-- The messages that have waited for the end of a halt are taken. -/
def Chip.mergeWake (c : Chip) : Chip :=
  if c.halts ∨ c.merge.held = [] then c else c.merge.held.foldl Chip.mergeKeep { c with merge := { c.merge with held := [] } }

/-- A merge message of a KIND arrives. A unit that is still booting, or in reset, takes none (R209); without the credit for it the
message does not leave its sender (R468). -/
def Chip.mergeArrives (c : Chip) (kind : Nat) (m : List Byte) : Chip :=
  if c.clk.held ∨ !c.ready ∨ 512 < c.mergeHeld + mergeUnits (m.length - 16) then c
  else
    let x := mergeMsg m
    if c.mergeBad m then (c.eventMch 0x302).mergeStray
    else if x.kind ≠ kind then c
    else if (c.mergeRowAt x.req x.pos).isNone then (c.eventMch 0x302).mergeStray
    else (c.eventMch 0x302).mergeTake x

/-- MERGE_NORM (R198). -/
def execMergeNorm (msg : List Byte) (s : State) : Host.Outcome State Fault Refusal := .next { s with unit := s.unit.mergeArrives 0 msg }

/-- PASS1 (R198). -/
def execPass1 (msg : List Byte) (s : State) : Host.Outcome State Fault Refusal := .next { s with unit := s.unit.mergeArrives 1 msg }

/-- PASS2 (R198). -/
def execPass2 (msg : List Byte) (s : State) : Host.Outcome State Fault Refusal := .next { s with unit := s.unit.mergeArrives 2 msg }

/-- PASS3 (R198). -/
def execPass3 (msg : List Byte) (s : State) : Host.Outcome State Fault Refusal := .next { s with unit := s.unit.mergeArrives 3 msg }

/-- DECISION (R198). -/
def execDecision (msg : List Byte) (s : State) : Host.Outcome State Fault Refusal := .next { s with unit := s.unit.mergeArrives 4 msg }

/-- LIST (R198). -/
def execList (msg : List Byte) (s : State) : Host.Outcome State Fault Refusal := .next { s with unit := s.unit.mergeArrives 5 msg }

/-- NOTICE (R203). -/
def execNotice (msg : List Byte) (s : State) : Host.Outcome State Fault Refusal := .next { s with unit := s.unit.mergeArrives 6 msg }

/-! ### Timeouts (R202, R203, R208) -/

/-- Has a merge-group row what it needs to be past its draw: at the root its draw, elsewhere its whole exchange? -/
def Chip.mergePast (c : Chip) (r : Row) : Bool :=
  if c.mergeMe = 0 then r.drawn.isSome || r.outcome = .noCandidate
  else r.outcome = .listed || r.outcome = .noCandidate

/-- The NOTICE of a row has come. -/
def Chip.noticed (c : Chip) (r : Row) : Bool := c.merge.notices.any fun m => decide (m.req = r.req ∧ m.pos = r.pos)

/-- The stage in which a row uses what comes up with a KIND. -/
def kindStage (kind : Nat) : Nat := if kind = kList then 4 else kind

/-- Does a row's exchange still lack the data of a KIND from a member (R202)? What has arrived is used, or waits in the merge buffers. -/
def Chip.lacks (c : Chip) (peer kind : Nat) (r : Row) : Bool :=
  let x := c.merge.rows.find? fun x => decide (x.req = r.req ∧ x.pos = r.pos)
  let stage := (x.map fun x => x.stage).getD 0
  let up := (x.map fun x => x.up).getD false
  let here := c.merge.recv.any fun m => decide (m.kind = kind ∧ m.source = peer ∧ m.req = r.req ∧ m.pos = r.pos)
  if kind = kNotice then c.mergeMe ≠ 0 && peer = 0 && !c.noticed r
  else if peer = 0 ∧ c.mergeMe ≠ 0 then
    !here && ((kind == kNorm && stage == 0) || (kind == kDecision && stage < 4))
  else
    (mergeKids c.mergeSize c.mergeMe).contains peer && !here && kind ≠ kDecision && kind < 6
      && (stage < kindStage kind || (stage = kindStage kind && !up))

/-- Has a stall of the merge endpoint lasted for more than 52,500 UCLK? What arrives in the timeout cycle has arrived (R57, R202). -/
def Chip.mergeOverdue (c : Chip) : Bool := c.stp.stalls.any fun x => x.1 = 16 && decide (x.2.1 + 52500 < c.since)

/-- Stalls of the merge endpoint that have timed out are over. -/
def Chip.endMergeStalls (c : Chip) : Chip :=
  { c with stp := { c.stp with stalls := c.stp.stalls.map fun x =>
      if x.1 = 16 ∧ x.2.1 + 52500 < c.since then (x.1, x.2.1, min x.2.2 c.since) else x } }

/-- Data for a row is 50 µs late: every merge-group row of the step that is not past its draw is dropped, the row itself too, and a
missed NOTICE leaves DESYNC in its request (R202, R203). -/
def Chip.mergeTimeout (c : Chip) (peer kind : Nat) (req : ReqId) : Chip :=
  let mine (r : Row) : Bool := c.mergeRow r && decide (r.req = req)
  let out (r : Row) : Bool := mine r || (c.mergeRow r && !c.mergePast r)
  if !c.runs ∨ c.stp.committed ∨ !c.mergeOverdue ∨ !(c.stp.rows.any fun r => mine r && c.lacks peer kind r) then c
  else
    let c' := (((c.endMergeStalls).setReg 0x094 (BitVec.ofNat 32 (peer * 256 + kind))).count 0x098 1).orReg 0x080 8#32
    let c' := (c'.note .mergeTimeout 27 peer kind).mapRows out fun r => { r with drop := some .deferred, predOff := true }
    if kind = kNotice then c'.modAx req.toNat fun a => { a with desync := true } else c'

/-- MERGE_TIMEOUT (R202). -/
def execMergeTimeout (peer : BitVec 6) (missing : MissingData) (s : State) : Host.Outcome State Fault Refusal :=
  .next { s with unit := s.unit.mergeTimeout peer.toNat missing.kind.toNat missing.req }

end Sys2Proof.Machine
end

