-- ==== Sys2Proof/Machine/Select.lean ====
section
/-!
DEFINITION. Handing rows to selection, their outcome and list, rescore within the list (R97, R98, R108 to R110, R123, R176,
R182, R225, R300).
-/
namespace Sys2Proof.Machine

/-! ### Words that act on shared hardware (R300) -/

/-- A word takes effect when every lane agrees that it does, nothing happens when every lane agrees that it does not, and it is
skipped where lanes disagree. -/
def Chip.sharedStep (c : Chip) (a op : Nat) (f : LaneF) (act : Chip → Chip) : Chip :=
  let n := (c.writers a f).length
  if n = 256 then (act c).laneNext a
  else if n = 0 then c.laneNext a
  else c.laneSkip a 5 0 op f

/-- The row slot that a field names, as lane 0 holds it. -/
def Chip.slotOf (c : Chip) (a : Nat) (b : Byte) : Nat := ((c.ln (256 * a)).getS b).toNat

/-- The row of a wave in a slot that still takes part in the step. -/
def Chip.liveRow (c : Chip) (wave slot : Nat) : Option Row := (c.rowAt wave slot).filter fun r => r.drop.isNone && !r.predOff

/-- Change one row of the step, named by its request, kind and offset. -/
def Chip.modRow (c : Chip) (r : Row) (f : Row → Row) : Chip :=
  c.mapRows (fun x => decide (x.req = r.req ∧ x.kind = r.kind ∧ x.offset = r.offset)) f

/-! ### The end of a proposal (R214, R225) -/

/-- A draft-proposal message. -/
def proposalBytes (req : ReqId) (offset : Nat) (pos : Word) (void : Bool) (token : Nat) : List Byte :=
  toLE 2 req.toNat ++ toLE 2 offset ++ toLE 4 pos.toNat ++ toLE 4 (b2n void * 2 ^ 24 + token) ++ toLE 4 0

/-- A draft-proposal message leaves on the request's fabric port: the one its draft input came in on. -/
def Chip.propose (c : Chip) (r : Row) (void : Bool) (token : Nat) : Chip :=
  match c.plan.cur.bind fun p => (p.rowPieces true).findSome? fun i => c.inputOf p r i with
  | none => c
  | some x => c.sendCtrl (c.portNow x.port) (proposalBytes r.req r.offset r.pos void token)

/-- A draft row has faulted: the proposal ends at its offset. -/
def Chip.draftEnds (c : Chip) (r : Row) : Chip :=
  let c := (((c.count 0x0B8 1).orReg 0x0A4 4#32).note .draftFault).propose r true 0
  c.mapRows (fun x => decide (x.req = r.req ∧ r.offset < x.offset)) fun x => { x with predOff := true }

/-- A row's outcome is decided. -/
def Chip.decided (c : Chip) (r : Row) (o : RowOutcome) : Chip :=
  let c := (c.modRow r fun x => { x with outcome := o }).countOutcome o
  if r.kind = .draft ∧ (o = .fault ∨ o = .noCandidate) then c.draftEnds r else c

/-! ### Selection (R123, R170 to R182) -/

/-- Does any lane of the row's class hold a fault flag for its slot (R310)? -/
def Chip.flagged (c : Chip) (wave slot : Nat) : Bool :=
  (classAtolls c.draftN (c.waveShape wave).2).any fun a => (atollLanes a).any fun g => tget c.scratch (padKey g (0x7B80 + slot)) ≠ 0#8

/-- The candidates that a row rescores: n of R182. -/
def Chip.rescoreN (c : Chip) (r : Row) : Nat := min (c.selParams r).rescore r.list.length

/-- Is a row's list in its final form? -/
def Chip.listDone (c : Chip) (r : Row) : Bool := r.outcome = .listed && (r.rescored || c.rescoreN r = 0)

/-- The provisional walk of a draft token: the bans of the later rows of the request (R159, R225). -/
def Chip.draftWalk (c : Chip) (r : Row) (tok : Nat) : Chip :=
  let q := r.req.toNat
  let later (x : Row) : Bool := decide (x.req = r.req ∧ r.offset < x.offset)
  match c.trieOf q with
  | none => c
  | some t =>
    match t.step r.node tok with
    | .ok (n, _) => c.mapRows later fun x => { x with node := n }
    | .error i => (c.trieFault q r.pos i).mapRows later fun x => { x with node := 0, trieDeg := true }

/-- A row has its token: a draw stands, or a greedy row's list is final. A draft token is proposed and walked (R213). -/
def Chip.drew (c : Chip) (r : Row) (i : Nat) : Chip :=
  let c := c.modRow r fun x => { x with drawn := some i }
  if r.kind = .draft then
    let tok := (r.list.getD i default).token.toNat
    (c.propose r false tok).draftWalk r tok
  else c

/-- A row's list is in its final form: a greedy row has its token (R171). -/
def Chip.settled (c : Chip) (r : Row) : Chip := if c.greedyRow r ∧ r.kind ≠ .target then c.drew r 0 else c

/-- A row's passes and gather. -/
def Chip.selectRow (c : Chip) (p : Plan) (r : Row) : Chip :=
  let blocks := c.rowCols p r.wave r.slot
  let v := c.rowPair p r.wave r.slot
  let s := c.selParams r
  let c := c.leaveBins (r.kind == .draft) 3 (passKey s.topP fun pass key => rowHist pass key v.1 blocks) v.1 blocks
  if blocks.flatten = [] then c.decided r .noCandidate
  else
    let n := s.listLen c.cap v.1 blocks
    let l := gather n.1 v.1 blocks.flatten
    let r := { r with m := v.1, s := v.2, outcome := .listed, list := if min s.rescore n.1 = 0 then withCum l else l }
    let c := c.modRow r fun x => { x with
      m := r.m, s := r.s, outcome := r.outcome, list := r.list, index := if r.kind = .draft then indexWords r.list else [] }
    let c := if min s.rescore n.1 = 0 then c.settled r else c
    if n.2 then c.truncRow fun x => decide (x.req = r.req ∧ x.kind = r.kind ∧ x.offset = r.offset) else c

/-- A row that every atoll of its class has handed over: its outcome (R123), then selection, or the exchanges of a merge group. -/
def Chip.takeRow (c : Chip) (p : Plan) (r : Row) (check : SelFault) : Chip :=
  match check with
  | .strait g => ((c.note .straitParity).strike g).faultDrop fun x => x.req = r.req ∧ x.kind = r.kind ∧ x.offset = r.offset
  | .straitLogic => (c.note .dupMismatch).faultDrop fun x => x.req = r.req ∧ x.kind = r.kind ∧ x.offset = r.offset
  | .histCheck => ((c.note .histCheck).orReg 0x080 4#32).decided r .fault
  | .ok =>
    if r.nonfinite ∨ c.flagged r.wave r.slot then c.decided r .fault
    else if (c.rq r.req.toNat).merge then c.mrgBegin p r else c.selectRow p r

/-- An atoll hands a row over: an indicator that the converter set is counted here, one that the atoll set has been (R84, R97). -/
def Chip.countRow (c : Chip) (a : Nat) (r : Row) : Chip :=
  let p := c.physOf a
  let conv := r.data.any fun d => d.nonfinite
  let c := if conv ∧ !r.nfAt.contains a then (c.setAtl p 0x20 (sat32 (c.atlReg p 0x20) 1)).orAtl p 0x0C 2#32 else c
  c.eventAtl p 0x121

/-- ROWDONE: an atoll hands a row slot over; with the last atoll of the class the row is taken. -/
def Chip.rowdone (c : Chip) (a wave : Nat) (f : LaneF) (check : SelFault) : Chip :=
  match c.liveRow wave (c.slotOf a f.a), c.plan.cur with
  | some r, some p =>
    let class_ := classAtolls c.draftN (c.waveShape wave).2
    if r.handed.contains a ∨ !class_.contains a ∨ r.outcome ≠ .pending then c
    else
      let c := (c.countRow a r).modRow r fun x => { x with handed := x.handed ++ [a] }
      if class_.all fun b => b = a ∨ r.handed.contains b then c.takeRow p r check else c
  | _, _ => c

/-- ROWDONE (R123). -/
def execRowdone (at_ : Atoll) (wave : Nat) (f : LaneF) (check : SelFault) (s : State) : Host.Outcome State Fault Refusal :=
  .next { s with unit := s.unit.laneStep at_ 0x5B f fun c => c.sharedStep at_ 0x5B f fun c => c.rowdone at_ wave f check }

/-! ### Rescore (R109, R110, R182) -/

/-- One lane's partial of a candidate: k-values in eight slots, then their tree. -/
def lanePartial (ws ys : List Half) (lo len : Nat) : Word :=
  let one (v : Nat) : Word := (List.range len).foldl (fun a i =>
    if i % 8 = v then
      ((((Fp.ofBf16 (ws.getD (lo + i) 0)).mul (Fp.ofBf16 (ys.getD (lo + i) 0))).add (Fp.ofF32 a))).toF32
    else a) 0#32
  treeJoin fadd 0#32 3 ((List.range 8).map one)

/-- The rescored raw logit of a candidate. -/
def rescoreLogit (ws ys : List Half) (h : Nat) : Word :=
  treeJoin fadd 0#32 8 ((List.range 256).map fun l => lanePartial ws ys (l * (h / 256)) (h / 256))

/-- The delta sum of a row in a column (R120, R134). -/
def Chip.deltaSum (c : Chip) (r : Row) (x : ColAt) : Word :=
  let ys := (r.data.headD default).bf16
  (c.deltaShare (c.rq r.req.toNat).delta.toNat x.block x.lane (x.q / x.plan.cpl) (x.q % x.plan.cpl)).foldl (fun d t =>
    if x.plan.h0 ≤ t.k.toNat then d else ffma t.v (Fp.ofBf16 (ys.getD t.k.toNat 0)).toF32 d) 0#32

/-- cond(x, c, r) of R120, with whether the column is faulty. -/
def Chip.cond (c : Chip) (r : Row) (at_ : ColAt) (x0 : Word) : Word × Bool :=
  let e := c.rq r.req.toNat
  let p := c.pm r.req.toNat
  let x := if e.adapterV then fadd x0 (c.biasCol r at_) else x0
  let x := if c.deltaBound r then fadd x (c.deltaSum r at_) else x
  let n := c.countOfCol r at_
  let nf := (Fp.ofInt (Int.ofNat n)).toF32
  let x := if 0 < n then
      let y := if flt 0#32 x then fmul x (fdiv 0x3F800000#32 p.rep) else fmul x p.rep
      fsub (fsub y p.presence) (fmul p.frequency nf)
    else x
  let masked := c.maskedCol r at_
  let x := if masked then negInf else if flt 0#32 p.temp then fmul x (fdiv 0x3F800000#32 p.temp) else x
  (x, faultyCol x x0 masked)

/-- An entry takes its rescored value. -/
def Cand.rescore (e : Cand) (v : Word) : Cand := { e with resc := true, key := keyOf v }

/-- An entry's mass relative to the new leader. -/
def Cand.reMass (m : Word) (e : Cand) : Cand := { e with mass := massOf m (keyVal e.key) }

/-- The list once every candidate has been rescored (R182). -/
def rescoreList (l : List Cand) (parts : SMap (Option Word)) : List Cand :=
  let l := sortBy candBefore (l.zipIdx.map fun e => match tget parts e.2 with
    | some v => e.1.rescore v
    | none => e.1)
  let m := keyVal ((l.map fun e => e.key).headD 0#32)
  withCum (l.map (Cand.reMass m))

/-- A candidate's rescored value has come; with the last one the list takes its final form. -/
def Chip.rescored (c : Chip) (r : Row) (i : Nat) (v : Word × Bool) : Chip :=
  if v.2 then c.decided r .fault
  else
    let parts := tset r.parts i (some v.1)
    let c := c.modRow r fun x => { x with parts := parts }
    if (List.range (c.rescoreN r)).all fun k => (tget parts k).isSome then
      let l := rescoreList r.list parts
      ((c.modRow r fun x => { x with rescored := true, list := l }).event 0x026).settled { r with rescored := true, list := l }
    else c

/-- RSCK: candidate A of row slot B, by the atoll that R109 names. -/
def Chip.rsck (c : Chip) (a wave : Nat) (f : LaneF) (weights : List Half) : Chip :=
  let i := c.slotOf a f.a
  match c.liveRow wave (c.slotOf a f.b), c.plan.cur with
  | some r, some p =>
    if r.outcome ≠ .listed ∨ r.rescored ∨ c.rescoreN r ≤ i ∨ i % 16 ≠ a ∨ (tget r.parts i).isSome then c
    else
      match p.colOf (r.list.getD i default).token.toNat with
      | none => c
      | some col =>
        let w := p.place col
        let at_ : ColAt := { plan := p, block := w.2.1, q := p.wide w.1 w.2.2.1, lane := w.2.2.2 }
        c.rescored r i (c.cond r at_ (rescoreLogit weights (r.data.headD default).bf16 p.h0))
  | _, _ => c

/-- RSCK (R109). -/
def execRsck (at_ : Atoll) (wave : Nat) (f : LaneF) (weights : List Half) (s : State) : Host.Outcome State Fault Refusal :=
  .next { s with unit := s.unit.laneStep at_ 0x68 f fun c => c.sharedStep at_ 0x68 f fun c => c.rsck at_ wave f weights }

end Sys2Proof.Machine
end

