-- ==== Sys2Proof/Machine/Draw.lean ====
section
/-!
DEFINITION. The duplicated draw and the duplicated resolution of a gambit (R159, R186, R187, R213, R216, R219 to R221, R225).
-/
namespace Sys2Proof.Machine

/-- The two atolls whose lanes compute a draw or a resolution of a class (R187, R227). -/
def drawAtolls (d : Nat) (draft : Bool) : Nat × Nat :=
  let as := classAtolls d draft
  (as.getD 0 0, as.getD (as.length / 2) 0)

/-- A second mismatch: the request's rows are fault-dropped, and both lanes have a strike (R380). -/
def Chip.drawFail (c : Chip) (r : Row) : Chip :=
  let as := drawAtolls c.draftN (c.waveShape r.wave).2
  let l := r.slot % 256
  let c := (c.note .drawFail).faultDrop fun x => decide (x.req = r.req)
  (c.strike (256 * as.1 + l)).strike (256 * as.2 + l)

/-- A mismatch is logged, counted and flagged; both lanes recompute (R187). -/
def Chip.drawRetry (c : Chip) (r : Row) : Chip :=
  ((c.count 0x088 1).orReg 0x080 2#32).note .drawRetry 0 r.req.toNat r.pos.toNat r.slot

/-! ### DRAW (R186, R187) -/

/-- What one computation of a draw gives: the entry and the bits of thr. `err` is xored into thr. -/
def Chip.drawOnce (c : Chip) (r : Row) (err : Word) : Nat × Word :=
  let e := c.rq r.req.toNat
  let thr := thrOf r.list (uniform e.seed r.pos (if r.kind = .draft then strDraft else strSample)) ^^^ err
  (pick r.list thr, thr)

/-- Both copies are there: they are compared, recomputed once where they differ, and compared again. -/
def Chip.drawCompare (c : Chip) (r : Row) (a b : Word) : Chip :=
  let low (w : Word) : Word := w &&& 0xFFFF#32
  let high (w : Word) : Word := w >>> 16
  let x := c.drawOnce r (low a)
  if x = c.drawOnce r (low b) then c.drew r x.1
  else
    let c := c.drawRetry r
    let y := c.drawOnce r (high a)
    if y = c.drawOnce r (high b) then c.drew r y.1 else c.drawFail r

/-- One copy of a row's draw. A greedy row has none (R171). -/
def Chip.draw (c : Chip) (a wave : Nat) (f : LaneF) (upset : Word) : Chip :=
  match c.liveRow wave (c.slotOf a f.a) with
  | none => c
  | some r =>
    let as := drawAtolls c.draftN (c.waveShape wave).2
    if r.kind = .target ∨ c.greedyRow r ∨ !c.listDone r ∨ r.list = [] ∨ r.drawn.isSome then c
    else if a = as.1 then
      let c := c.modRow r fun x => { x with drawA := some upset }
      match r.drawB with
      | some b => c.drawCompare r upset b
      | none => c
    else if a = as.2 then
      let c := c.modRow r fun x => { x with drawB := some upset }
      match r.drawA with
      | some b => c.drawCompare r b upset
      | none => c
    else c

/-- DRAW (R186). -/
def execDraw (at_ : Atoll) (wave : Nat) (f : LaneF) (upset : Word) (s : State) : Host.Outcome State Fault Refusal :=
  .next { s with unit := s.unit.laneStep at_ 0x69 f fun c => c.sharedStep at_ 0x69 f fun c => c.draw at_ wave f upset }

/-! ### Resolution (R219, R220) -/

/-- What a resolution reads: seed, greedy, draft rows and target rows of the request by offset. -/
structure Gambit where
  seed : DWord
  greedy : Bool
  drafts : List Row
  targets : List Row
  deriving DecidableEq, Repr, Inhabited

/-- The target row of an offset, unless it has faulted. -/
def Gambit.target (x : Gambit) (i : Nat) : Option Row := x.targets.find? fun r => decide (r.offset = i ∧ r.outcome = .listed)
/-- The draft list with its index words, and the draft token, of an offset. -/
def Gambit.draft (x : Gambit) (i : Nat) : (List Cand × List Word) × BitVec 24 :=
  match x.drafts.find? fun r => r.offset = i with
  | none => (([], []), 0)
  | some r => ((r.list, r.index), (r.list.getD (r.drawn.getD 0) default).token)

/-- A token of a target row's list. -/
def tokOf (r : Row) (e : Nat) (accept resample : Bool) : Tok :=
  { pos := r.pos, token := (r.list.getD e default).token, entry := e, offset := r.offset, accept := accept, resample := resample }

/-- The index of a token in a list. -/
def entryOf (l : List Cand) (tok : BitVec 24) : Nat := (l.findIdx? fun e => e.token = tok).getD 0

/-- The bonus token of a target row. -/
def Gambit.bonus (x : Gambit) (r : Row) : Tok :=
  tokOf r (if x.greedy then 0 else pick r.list (thrOf r.list (uniform x.seed r.pos strSample))) false false

/-- resolve(p, g) from offset i with n offsets left to test: the tokens, and whether a residual had no weight. -/
def Gambit.resolve (x : Gambit) : (n i : Nat) → List Tok × Bool
  | 0, i =>
    match x.target i with
    | none => ([], false)
    | some r => ([x.bonus r], false)
  | n + 1, i =>
    match x.target i with
    | none => ([], false)
    | some r =>
      let d := x.draft i
      let go : List Tok × Bool :=
        let t := x.resolve n (i + 1)
        (tokOf r (entryOf r.list d.2) true false :: t.1, t.2)
      if x.greedy then
        if d.2 = (r.list.getD 0 default).token then go else ([tokOf r 0 false true], false)
      else if accepts r.list d.1 d.2 (uniform x.seed r.pos strAccept) then go
      else
        let e := resample r.list d.1 (uniform x.seed r.pos strResidual)
        ([tokOf r e.1 false true], e.2)

/-- The rows of a request that its resolution reads. -/
def Chip.gambit (c : Chip) (req : ReqId) : Gambit :=
  let mine (k : RowKind) : List Row := c.stp.rows.filter fun r => decide (r.req = req ∧ r.kind = k) && r.drop.isNone
  { seed := (c.rq req.toNat).seed, greedy := (c.pm req.toNat).temp = 0#32, drafts := mine .draft, targets := mine .target }

/-- g of a resolution: the first offset whose draft row has faulted, else the request's length. -/
def Gambit.len (x : Gambit) (g : Nat) : Nat :=
  ((x.drafts.filter fun r => r.outcome = .fault ∨ r.outcome = .noCandidate).map fun r => r.offset).foldl min g

/-- Is everything that the resolution reads there? -/
def Chip.gambitReady (c : Chip) (x : Gambit) (g : Nat) : Bool :=
  (x.targets.all fun r => decide (g < r.offset) || r.outcome = .fault || r.outcome = .noCandidate || c.listDone r)
    && (x.drafts.all fun r => decide (g ≤ r.offset) || r.drawn.isSome)

/-- A resolution stands: its counters (R220). -/
def Chip.resolved (c : Chip) (req : ReqId) (v : List Tok × Bool) : Chip :=
  let acc := (v.1.filter fun t => t.accept).length
  let res := (v.1.filter fun t => t.resample).length
  let c := ((c.count 0x0A8 (acc + res)).count 0x0AC acc).count 0x0B0 res
  let c := (c.event 0x023 acc).event 0x024 res
  let c := if v.2 then (c.orReg 0x0A4 1#32).note .residFallback else c
  { c with stp := { c.stp with resolutions := c.stp.resolutions.map fun x => if x.req = req then { x with final := some v.1 } else x } }

/-- The copies of a resolution; neither has run where there is none. -/
def Chip.resolution (c : Chip) (req : ReqId) : Resolution :=
  (c.stp.resolutions.find? fun x => x.req = req).getD { req := req, copyA := none, copyB := none, final := none }

/-- A resolution's copies are kept. -/
def Chip.putResolution (c : Chip) (x : Resolution) : Chip :=
  { c with stp := { c.stp with resolutions := (c.stp.resolutions.filter fun y => y.req ≠ x.req) ++ [x] } }

/-- Both copies are there: compared, and recomputed once (R187, R221). -/
def Chip.resolveCompare (c : Chip) (r : Row) (v : List Tok × Bool) (a b : BitVec 2) : Chip :=
  if !a.getLsbD 0 ∧ !b.getLsbD 0 then c.resolved r.req v
  else
    let c := c.drawRetry r
    if !a.getLsbD 1 ∧ !b.getLsbD 1 then c.resolved r.req v else c.drawFail r

/-- One copy of the resolution of the request in a row slot. -/
def Chip.resolveCmd (c : Chip) (a wave : Nat) (f : LaneF) (upset : BitVec 2) : Chip :=
  match (c.rowAt wave (c.slotOf a f.a)).filter fun r => r.drop.isNone with
  | none => c
  | some r =>
    let as := drawAtolls c.draftN (c.waveShape wave).2
    let g := c.gambit r.req
    let n := g.len r.g
    let x := c.resolution r.req
    if r.kind ≠ .target ∨ !c.gambitReady g n ∨ x.final.isSome then c
    else
      let x := if a = as.1 then { x with copyA := some upset } else if a = as.2 then { x with copyB := some upset } else x
      let c := c.putResolution x
      match x.copyA, x.copyB with
      | some u, some v => c.resolveCompare r (g.resolve n 0) u v
      | _, _ => c

/-- RESOLVE (R219). -/
def execResolve (at_ : Atoll) (wave : Nat) (f : LaneF) (upset : BitVec 2) (s : State) : Host.Outcome State Fault Refusal :=
  .next { s with unit := s.unit.laneStep at_ 0x6A f fun c => c.sharedStep at_ 0x6A f fun c => c.resolveCmd at_ wave f upset }

end Sys2Proof.Machine
end

