-- ==== Sys2Proof/Machine/Commit.lean ====
section
/-!
DEFINITION. The commit point and the drain: end causes, frees, counts, records, budgets, meter beats, mirror records, the step's
end; stalls and abandonment (R55, R56, R138 to R141, R189, R190, R203, R223, R224, R245, R246, R250, R253 to R256, R264 to R271,
R355 to R357, R361, R362, R384, R404, R405, R409, R411).
-/
namespace Sys2Proof.Machine

/-! ### Tokens resolved for a request (R186, R202, R203, R219, R225, R246) -/

/-- The rows of a request in the step. -/
def Chip.rowsFor (c : Chip) (q : Nat) : List Row := c.stp.rows.filter fun r => r.req.toNat = q

/-- The owner's NOTICE for a request's row of the step. -/
def Chip.noticeFor (c : Chip) (q : Nat) : Option MrgMsg :=
  c.merge.notices.find? fun m => decide (m.req.toNat = q) && (c.rowsFor q).any fun r => r.pos = m.pos

/-- The token that a NOTICE names; none where it says DROP. -/
def MrgMsg.tok (m : MrgMsg) : List Tok :=
  if m.flags.getLsbD 1 then []
  else [{ pos := m.pos, token := BitVec.ofNat 24 (leAt m.body 0 3), entry := 0, offset := 0, accept := false, resample := false }]

/-- Tokens resolved for a request, in ascending position; none where a row of it has been dropped. -/
def Chip.tokensOf (c : Chip) (q : Nat) : List Tok :=
  let rows := c.rowsFor q
  if rows.any fun r => r.drop.isSome then []
  else if c.nonOwner q then match c.noticeFor q with
    | some m => m.tok
    | none => []
  else
    let plain : List Tok := (rows.find? fun r => r.kind = .plain).toList.flatMap fun r =>
      if r.mute then [] else r.drawn.toList.map fun i => tokOf r i false false
    if rows.any fun r => r.kind = .target then ((c.resolution (BitVec.ofNat 12 q)).final).getD [] else plain

/-- The hold that an outcome leads to (R123). -/
def RowOutcome.hold (o : RowOutcome) : Option Hold :=
  if o = .fault then some .rowFault else if o = .noCandidate then some .noCandidate else none

/-- The hold that the rows of a request lead to: a dropped row's cause, or the fault of its lowest faulted target row (R225);
target rows above a faulted draft row do not count. -/
def Chip.rowHold (c : Chip) (q : Nat) : Option Hold :=
  let rows := c.rowsFor q
  match rows.findSome? fun r => r.drop with
  | some h => some h
  | none =>
    let g := (rows.map fun r => r.g).foldl max 0
    let n := (c.gambit (BitVec.ofNat 12 q)).len g
    (List.range (n + 1)).findSome? fun i =>
      (rows.find? fun r => decide (r.kind ≠ .draft ∧ r.offset = i)).bind fun r => r.outcome.hold

/-! ### Pass 1 (R253, R254) -/

/-- End causes (R266). -/
def cStop : Byte := 1#8
def cStopToken : Byte := 2#8
def cMaxlen : Byte := 3#8
def cClosed : Byte := 4#8
def cCancelled : Byte := 5#8
def cExpired : Byte := 6#8

/-- What a commit point decides for a request; `ovf` and `clamped` are what its records carry of it. -/
structure Verdict where
  q : Nat
  toks : List Tok
  cause : Option Byte
  hold : Option Hold
  ovf : Bool
  clamped : Bool
  notice : Option MrgMsg
  deriving DecidableEq, Repr, Inhabited

/-- The committed cursor walks the tokens until one ends the request: the tokens that commit, and the cause. -/
def Chip.walkToks (q : Nat) : Chip → List Tok → Chip × List Tok × Option Byte
  | c, [] => (c, [], none)
  | c, t :: r =>
    let w := c.walkToken q t.pos t.token.toNat
    let p := w.2.pm q
    let cause : Option Byte :=
      if (p.stopTok.take p.nstop.toNat).contains t.token then some cStopToken
      else if w.1 then some cStop
      else if t.pos + 1 = (w.2.rq q).maxlen then some cMaxlen else none
    match cause with
    | some k => (w.2, [t], some k)
    | none =>
      let x := Chip.walkToks q w.2 r
      (x.1, t :: x.2.1, x.2.2)

/-- Do the records of the request carry CLAMPED (R134, R162)? -/
def Chip.recClamped (c : Chip) (q : Nat) : Bool :=
  (c.rq q).clamped || ((c.rq q).deltaV && (match c.plan.cur with
    | none => false
    | some p => p.scoreIn false))

/-- The verdict on one request. -/
def Chip.judge (c : Chip) (q : Nat) : Chip × Verdict :=
  let e := c.rq q
  let toks := c.tokensOf q
  let v : Verdict :=
    { q := q, toks := [], cause := none, hold := c.rowHold q, ovf := e.countOvf, clamped := c.recClamped q
      notice := if c.nonOwner q then c.noticeFor q else none }
  if e.cancel then (c, { v with cause := some cCancelled })
  else if (c.ax q).expiryDue then (c, { v with cause := some cExpired })
  else
    let w := Chip.walkToks q c toks
    let told : Option Byte := if v.notice.any fun m => m.flags.getLsbD 2 then some 0#8 else none
    let cause := (w.2.2.orElse fun _ => if e.close then some cClosed else none).orElse fun _ => told
    (w.1, { v with toks := w.2.1, cause := cause })

/-- The requests that a commit point processes, ascending: rows in the step, an end due, a NOTICE owed. A quarantined request is
left alone (R385), and one whose PARK or RESUME has not committed waits (R242). -/
def Chip.commitIds (c : Chip) : List Nat :=
  c.liveIds.filter fun q =>
    let e := c.rq q
    let a := c.ax q
    !a.quarantined && e.live && e.state ≠ .draining && e.state ≠ .parking && e.state ≠ .resuming
      && (e.cancel || e.close || a.expiryDue || a.notices ≠ [] || (c.rowsFor q) ≠ [])

/-- Pass 1: every verdict. -/
def Chip.judgeAll (c : Chip) (ids : List Nat) : Chip × List Verdict :=
  ids.foldl (fun a q => let r := a.1.judge q; (r.1, a.2 ++ [r.2])) (c, [])

/-! ### Passes 2 and 3 (R138 to R141, R151, R405) -/

/-- Frees of one request. -/
def Chip.freeFor (c : Chip) (v : Verdict) : Chip :=
  let c := c.freeGrammar v.q fun g => v.toks.any fun t => t.pos = g.pos
  if v.cause.isSome then c.releaseAll v.q else c

/-- Counts of one request. -/
def Chip.countFor (c : Chip) (v : Verdict) : Chip :=
  if v.cause.isSome then c else v.toks.foldl (fun c t => c.countToken v.q t.token.toNat) c

/-! ### Ring records (R189, R190, R264 to R271, R409) -/

/-- lp(x) of R189. -/
def logprob (m s x : Word) : Word := fmin (fsub (fsub x m) (flog s)) 0#32

/-- FLAGS of a record of a row (R264). -/
def Chip.recFlags (c : Chip) (v : Verdict) (r : Row) (t : Tok) : BitVec 9 :=
  BitVec.ofNat 9 (pack [(b2n c.stp.holdover, 8), (b2n v.clamped, 7), (b2n t.resample, 6), (b2n t.accept, 5), (b2n r.rescored, 4),
    (b2n r.trieDeg, 3), (b2n (v.ovf || (c.rq v.q).countOvf), 2), (b2n r.trunc, 1), (b2n r.accSat, 0)])

/-- The flags of END and NOTICE records. -/
def Chip.plainFlags (c : Chip) : BitVec 9 := if c.stp.holdover then 0x100#9 else 0#9

/-- The target row of a token. -/
def Chip.tokRow (c : Chip) (q : Nat) (t : Tok) : Row :=
  ((c.rowsFor q).find? fun r => decide (r.kind ≠ .draft ∧ r.offset = t.offset)).getD default

/-- A token's TOKEN record and its ALT records. -/
def Chip.tokRecs (c : Chip) (v : Verdict) (t : Tok) : List RingRec :=
  let r := c.tokRow v.q t
  let fl := c.recFlags v r t
  let rec_ (kind : BitVec 4) (e : Cand) : RingRec :=
    { kind := kind, token := e.token, position := t.pos, logprob := logprob r.m r.s (keyVal e.key), flags := fl }
  let alts := min (c.pm v.q).logprobs.toNat (r.list.length - 1)
  rec_ 0#4 (r.list.getD t.entry default) :: ((r.list.eraseIdx t.entry).take alts).map (rec_ 1#4)

/-- The unit is the follower of a lock-step pair, which writes no record and posts no beat (R408). -/
def Chip.follows (c : Chip) : Bool := c.lock.bound && c.lock.follower

/-- The records that a ring has taken in this step. -/
def Chip.advanceOf (c : Chip) (d : Nat) : Nat := tget c.stp.advance d

/-- The ring's history with one more record of this step (R271). -/
def RingDesc.wrote (seq : DWord) (first : Bool) (d : RingDesc) : RingDesc :=
  if first then { d with seq1 := d.seq0, count1 := d.count0, seq0 := seq, count0 := 1#8 } else { d with count0 := d.count0 + 1 }

/-- The step signature goes on over bytes 0 to 13 of a record with HOLDOVER taken as 0 (R409). -/
def Chip.signRec (c : Chip) (r : RingRec) : Chip :=
  let bs := (({ r with flags := r.flags &&& 0xFF#9 } : RingRec).bytes).take 14
  { c with stp := { c.stp with signature := BitVec.ofNat 64 (crc64 c.stp.signature.toNat bs) } }

/-- A record is written at its place in the ring and in the replay buffer, and its flit leaves (R261, R271, R460). -/
def Chip.storeRec (c : Chip) (d : Nat) (r : RingRec) : Chip :=
  let x := tget c.ring d
  let i := (x.prod + BitVec.ofNat 32 (c.advanceOf d)).toNat % 2 ^ x.log2size.toNat
  let addr := x.base.toNat + 16 * i
  let c := c.modRing d (RingDesc.wrote c.recseq (c.advanceOf d = 0))
  let c := { c with psram := wrBytes c.psram addr r.bytes, replay := tset c.replay (c.recseq.toNat % 65536) (some r), recseq := c.recseq + 1 }
  c.sendRing d addr r.bytes

/-- A record of a ring is committed; a lock-step follower only counts and signs it. -/
def Chip.putRec (c : Chip) (d : Nat) (r : RingRec) : Chip :=
  let c := if c.follows then c else c.storeRec d r
  let c := c.signRec r
  { c with stp := { c.stp with advance := tmod c.stp.advance d fun n => n + 1 } }

/-- The room that a ring has left beside the slot kept for END. -/
def Chip.roomLeft (c : Chip) (d : Nat) : Nat := c.ringRoom d - c.advanceOf d

/-- One NOTICE: written where room remains beside the `kept` records that are still to come, else counted as dropped (R266). -/
def Chip.putNotice (c : Chip) (q kept : Nat) (n : Byte × Half) : Chip :=
  let d := (c.rq q).ring.toNat
  if c.roomLeft d ≤ kept then (c.count 0x0D0 1).orReg 0x0C0 0x10#32
  else c.putRec d { kind := 3#4, token := n.1 ++ n.2, position := (c.rq q).position, logprob := 0#32, flags := c.plainFlags }

/-- The NOTICEs of some codes that are owed to a request are written, in the order in which they came to be owed; `kept` records of the
step's tokens are still to come. -/
def Chip.putNotices (c : Chip) (q kept : Nat) (pick : Byte → Bool) : Chip :=
  let owed := (c.ax q).notices.filter fun n => pick n.1
  let c := c.modAx q fun a => { a with notices := a.notices.filter fun n => !pick n.1 }
  if c.nonOwner q then c else owed.foldl (fun c n => c.putNotice q kept n) c

/-- The NOTICE code of ADOPTED, which comes before the tokens of its step (R270). -/
def nAdopted : Byte := 4#8

/-- END of a request. -/
def Chip.putEnd (c : Chip) (q : Nat) (cause : Byte) : Chip :=
  let e := c.rq q
  if c.nonOwner q then c
  else
    let c := c.putRec e.ring.toNat
      { kind := 2#4, token := cause.setWidth 24, position := e.position - 1, logprob := 0#32, flags := c.plainFlags }
    { c with stp := { c.stp with ended := c.stp.ended ++ [e.ring.toNat] } }

/-! ### Pass 4 (R245, R250, R253) -/

/-- A committed request's position, LASTTICK and deadline (R245). -/
def Chip.moveOn (c : Chip) (v : Verdict) : Chip :=
  let n := v.toks.length
  if n = 0 then c
  else
    let e := c.rq v.q
    let late := decide (0 < e.deadline.toNat ∧ e.deadline.toNat < c.waitOf e)
    let c := if late then (c.count 0x0CC n).orReg 0x0C0 4#32 else c
    c.modRq v.q fun e => { e with position := e.position + BitVec.ofNat 32 n, lasttick := c.tick32 }

/-- The charge of a request's tokens to its tenant (R250). -/
def Chip.charge (c : Chip) (v : Verdict) : Chip :=
  let n := v.toks.length
  if n = 0 ∨ c.nonOwner v.q then c
  else
    let c := c.modTnt (c.rq v.q).tenant.toNat fun t => { t with balance := satI32 (t.balance.toInt - n) }
    c.event 0x020 n

/-- The records of a request's tokens. -/
def Chip.putToks (c : Chip) (v : Verdict) : Chip :=
  if c.nonOwner v.q then c
  else
    let recs := v.toks.flatMap fun t => c.tokRecs v t
    (recs.foldl (fun c r => c.putRec (c.rq v.q).ring.toNat r) c).event 0x021 (recs.length - v.toks.length)

/-- The hold that a request takes at the commit point (R123, R140, R242): that of an escalation, that of a bad mask page until its reload
(R387), that of lost counts, else its row's. -/
def Chip.holdAtC (c : Chip) (v : Verdict) : Chip :=
  let lost := (c.ax v.q).lost
  let esc := (c.ax v.q).escalated
  let c := c.modAx v.q fun a => { a with lost := false, escalated := false, faultRun := if esc then 0 else a.faultRun }
  if v.cause.isSome ∨ (c.rq v.q).state ≠ .active then c
  else if esc then c.takeHold v.q .rowFault
  else if c.maskFault v.q then (c.takeHold v.q .rowFault).modAx v.q fun a => { a with maskHeld := true }
  else if lost ∧ (c.pm v.q).strict then c.takeHold v.q .countOvf
  else match v.hold with
    | none => c
    | some h => c.takeHold v.q h

/-- A request ends: DRAINING with its cause; CANCEL and CLOSE told of this step's window only (R235). -/
def Chip.endNow (c : Chip) (v : Verdict) : Chip :=
  match v.cause with
  | none => c
  | some k =>
    let c := (c.putEnd v.q k).modRq v.q fun e => { e with state := .draining, hold := .none, endcause := k, cancel := false, close := false }
    c.modAx v.q fun a => { a with expiryDue := false, prompt := 0#24, faultRun := 0 }

/-- The mirror record of a BOUND primary that commits a TOKEN or an END (R404). -/
def Chip.mirrorFor (c : Chip) (v : Verdict) (pos : Word) : Chip :=
  if (c.rq v.q).mirror ∧ !c.follows ∧ (v.toks ≠ [] ∨ v.cause.isSome) then
    let m := c.recordMsg v.q pos (v.toks.map fun t => t.token.toNat) v.cause
    { c with stp := { c.stp with
      mirrorDue := c.stp.mirrorDue ++ [((c.mr v.q).peer.toNat, m)], mirrorWait := c.stp.mirrorWait ++ [v.q] } }
  else c

/-- What a merge group learns of the row (R200, R203, R246): the owner tells it. -/
def Chip.tellGroup (c : Chip) (v : Verdict) : Chip :=
  match (c.rowsFor v.q).head? with
  | none => c
  | some r =>
    if !(c.rq v.q).merge then c
    else if c.mergeMe = 0 then
      let drop := v.toks = []
      c.sendDown kNotice (pack [(b2n v.cause.isSome, 2), (b2n drop, 1)]) r.req r.pos
        (toLE 4 ((v.toks.map fun t => t.token.toNat).headD 0) ++ List.replicate 12 0#8)
    else c

/-- Rows that the unit keeps no longer: their position is committed, or their request has ended (R466). One that has arrived in this very
cycle has arrived after the commit: ROW_STRAY (R479). -/
def Chip.dropInputs (c : Chip) (v : Verdict) : Chip :=
  let p := (c.rq v.q).position
  let gone (i : RowInput) : Bool := decide (i.req.toNat = v.q) && (v.cause.isSome || decide (i.pos.toNat < p.toNat))
  let stray := c.inputs.filter fun i => gone i && decide (i.came = c.clk.ucyc)
  stray.foldl (fun c i => c.dropInput i.port .rowStray) { c with inputs := c.inputs.filter fun i => !gone i }

/-- The outputs of one request. Its PROMPT has been posted with its tokens, or with the PARK that commits (R362). -/
def Chip.outputs (c : Chip) (v : Verdict) : Chip :=
  let pos := (c.rq v.q).position
  let parked := (c.ax v.q).notices.any fun n => n.1 = 2#8
  let c := ((c.tellGroup v).charge v).putNotices v.q (v.toks.flatMap fun t => c.tokRecs v t).length fun k => k = nAdopted
  let c := ((c.putToks v).moveOn v).holdAtC v
  let c := (c.putNotices v.q 0 fun k => k ≠ nAdopted).mirrorFor v pos
  let c := if v.toks ≠ [] ∨ parked then c.modAx v.q fun a => { a with prompt := 0#24 } else c
  (c.endNow v).dropInputs v

/-! ### Meter beats (R224, R355, R356, R361, R362) -/

/-- Has a row of a request been fault-dropped in the step? -/
def Chip.faultHit (c : Chip) (q : Nat) : Bool := (c.rowsFor q).any fun r => r.faultDrop

/-- Meter events of a tenant at a commit point. -/
structure Tally where
  emitted : Nat
  draft : Nat
  prompt : Nat
  deriving DecidableEq, Repr, Inhabited

/-- The PROMPT of a request that its commit posts. -/
def Chip.promptOf (c : Chip) (v : Verdict) : Nat :=
  if v.toks ≠ [] ∨ v.cause.isSome ∨ ((c.ax v.q).notices.any fun n => n.1 = 2#8) then (c.ax v.q).prompt.toNat else 0

/-- A draft row has been scored: it has its list, and its request has not been fault-dropped. A row that another row's missed fence or an
abandonment drops has been scored all the same (R123, R224, R361, R383). -/
def Chip.draftScored (c : Chip) (r : Row) : Bool := r.kind = .draft && r.outcome = .listed && !c.faultHit r.req.toNat

/-- The meter events of the commit point by tenant. -/
def Chip.tallies (c : Chip) (vs : List Verdict) : SMap Tally :=
  if c.follows then []
  else
    let add (m : SMap Tally) (t : Nat) (x : Tally) : SMap Tally :=
      tmod m t fun y => { emitted := y.emitted + x.emitted, draft := y.draft + x.draft, prompt := y.prompt + x.prompt }
    let tn (q : Nat) : Nat := (c.rq q).tenant.toNat
    let m := (vs.filter fun v => !c.nonOwner v.q).foldl (fun m v =>
      add m (tn v.q) { emitted := v.toks.length, draft := 0, prompt := c.promptOf v }) []
    (c.stp.rows.filter c.draftScored).foldl (fun m r => add m (tn r.req.toNat) { emitted := 0, draft := 1, prompt := 0 }) m

/-- A beat without LAST. -/
def beatOf (tenant : Nat) (x : Tally) (tick : DWord) : BitVec 128 :=
  BitVec.ofNat 128 (pack [(tenant, 112), (x.emitted, 101), (x.draft, 90), (x.prompt, 64), (tick.toNat, 0)])

/-- The beats of a tenant: more than one where its PROMPT sum does not fit. -/
def beatsOf (tick : DWord) (tenant : Nat) (x : Tally) : List (BitVec 128) :=
  let top := 2 ^ 26 - 1
  if x.emitted = 0 ∧ x.draft = 0 ∧ x.prompt = 0 then []
  else beatOf tenant { x with prompt := min x.prompt top } tick ::
    (List.range ((x.prompt - 1) / top)).map fun i =>
      beatOf tenant { emitted := 0, draft := 0, prompt := min top (x.prompt - (i + 1) * top) } tick

/-- LAST is set on the final beat. -/
def markLast : List (BitVec 128) → List (BitVec 128)
  | [] => []
  | [b] => [b ||| (1#128 <<< 127)]
  | b :: r => b :: markLast r

/-- The beats of the commit point. -/
def Chip.beatsFor (c : Chip) (vs : List Verdict) : List (BitVec 128) :=
  markLast ((c.tallies vs).flatMap fun e => beatsOf c.stp.num e.1 e.2)

/-! ### COMMIT_POINT (R253) -/

/-- The step latency of the rows that reach C (R432). -/
def Chip.sampleRows (c : Chip) : Chip :=
  match c.plan.cur with
  | none => c
  | some p => (c.stp.rows.filter fun r => r.admitted && r.drop.isNone).foldl (fun c r =>
      let ts := (p.rowPieces (r.kind == .draft)).filterMap fun i => (c.inputOf p r i).map fun x => x.arrived
      c.sample 1 (histBin (c.clk.ucyc - ts.foldl max 0))) c

/-- The eighth fault drop in consecutive steps: the request is to be HELD ROW_FAULT at C (R384). CANCEL governs a drop in its step
(R422). -/
def Chip.escalate (c : Chip) (q : Nat) : Chip :=
  if (c.ax q).faultRun < 7 ∨ !c.faultHit q ∨ (c.ax q).escalated ∨ (c.rq q).cancel then c
  else (c.modAx q fun a => { a with escalated := true }).note .faultEscalate

/-- The run of fault drops of every request: a step in which no row of it is fault-dropped ends the run (R384). -/
def Chip.faultRuns (c : Chip) : Chip :=
  c.liveIds.foldl (fun c q => (c.escalate q).modAx q fun a => { a with faultRun := if c.faultHit q then a.faultRun + 1 else 0 }) c

/-- C is kept until the step's end records it (R56, R61). -/
def Chip.markC (c : Chip) : Chip := { c with stp := { c.stp with committed := true, c := c.since } }

/-- The four passes, and what the drain will do. -/
def Chip.commit (c : Chip) : Chip :=
  let c := ((c.markC).sampleRows).faultRuns
  let j := c.judgeAll c.commitIds
  let c := (j.2.foldl Chip.freeFor j.1)
  let c := (j.2.foldl Chip.countFor c).applyRecords fun _ => true
  let beats := c.beatsFor j.2
  let c := (j.2.foldl Chip.outputs c).event 0x022 (c.stp.rows.filter c.draftScored).length
  let c := { c with stp := { c.stp with beats := beats }, merge := { c.merge with recv := [], rows := [], notices := [] } }
  let c := c.signStep c.stp.signature
  if c.lock.waiting then c else c.flushMirror

/-- Is the work of a row of the step done: dropped, faulted, or past its draw, its resolution, and at a member of a merge group its
NOTICE (R56, R203)? -/
def Chip.rowDone (c : Chip) (r : Row) : Bool :=
  r.drop.isSome || r.predOff || (match r.outcome with
    | .pending => false
    | .fault | .noCandidate => true
    | .listed =>
      if c.nonOwner r.req.toNat then c.noticed r
      else if r.kind = .target then (c.resolution r.req).final.isSome
      else c.listDone r && (r.drawn.isSome || r.list = []))

/-- Does a stall under R55 last? -/
def Chip.stalled (c : Chip) : Bool := c.stp.stalls.any fun x => decide (c.since < x.2.2)

/-- May this cycle be C: the cycle after an abandonment, P0 of a step without rows, else the cycle after the last work of its rows, and P0 at
the earliest. The phases of rows that have been dropped run on, so C may then be later (R54, R56) (log entry 103). -/
def Chip.commitDue (c : Chip) : Bool :=
  if c.stp.abandoned then c.since = c.stp.abandonAt + 1
  else if c.stp.rows = [] then c.since = c.p0
  else match c.stp.doneAt with
    | none => false
    | some d =>
      let first := max (d + 1) c.p0
      !c.stalled && (if c.stp.rows.any fun r => r.drop.isSome || r.predOff then decide (first ≤ c.since) else c.since = first)

/-- What a stage of the step does once its reads of the tables have met bad words (R381); a fail-stop that they lead to ends the step. -/
def Chip.afterReads (c : Chip) (ecc : List ReadFind) (f : Chip → Chip) : Chip :=
  let d := c.reads ecc
  if d.runs then f d else d

/-- C of the step in progress. -/
def Chip.commitPoint (c : Chip) : Chip :=
  if !c.runs ∨ !c.stp.planned ∨ c.stp.committed ∨ !c.commitDue then c else c.afterReads c.stp.atC Chip.commit

/-- COMMIT_POINT (R253). -/
def execCommitPoint (s : State) : Host.Outcome State Fault Refusal :=
  .next { s with unit := s.unit.commitPoint }

/-! ### FAULT_ESCALATE (R384) -/

/-- FAULT_ESCALATE (R384): at the drop, before C. One that has not come by then takes place at C. -/
def execFaultEscalate (req : ReqId) (s : State) : Host.Outcome State Fault Refusal :=
  .next { s with unit := if s.unit.runs ∧ !s.unit.stp.committed then s.unit.escalate req.toNat else s.unit }

/-! ### The drain (R268, R357, R404) -/

/-- The acknowledgement of a mirror record returns. -/
def Chip.mirrorAck (c : Chip) (q : Nat) (pos : Word) (late : Nat) : Chip :=
  if c.clk.held ∨ !c.stp.active ∨ !c.stp.mirrorWait.contains q ∨ c.stp.mirrorDue ≠ [] then c
  else
    let c := (c.emitStall late).roundTrip (c.since - c.stp.sentAt)
    let c := { c with stp := { c.stp with mirrorWait := c.stp.mirrorWait.erase q } }
    c.modMir q fun m => { m with lastPos := pos }

/-- MIRROR_ACK (R268). -/
def execMirrorAck (req : ReqId) (pos : Word) (late : Nat) (s : State) : Host.Outcome State Fault Refusal :=
  .next { s with unit := s.unit.mirrorAck req.toNat pos late }

/-- The acknowledgement is absent 50 µs after its planned cycle, which is that of the sending at the earliest; one that comes in that very
cycle has come in time (R57) (log entry 59). -/
def Chip.mirrorLost (c : Chip) (q : Nat) : Chip :=
  if !c.stp.active ∨ !c.stp.mirrorWait.contains q ∨ c.stp.mirrorDue ≠ [] ∨ c.since ≤ c.stp.sentAt + 52500 then c
  else
    let c := { c with stp := { c.stp with mirrorWait := c.stp.mirrorWait.erase q } }
    let c := (c.modMir q fun m => { m with mstate := .lost }).modRq q fun e => { e with mirror := false }
    c.note .mirrorLost 27

/-- MIRROR_LOST (R404). -/
def execMirrorLost (req : ReqId) (s : State) : Host.Outcome State Fault Refusal := .next { s with unit := s.unit.mirrorLost req.toNat }

/-! ### STEP_END (R56, R268) -/

/-- Is a notification due for a ring that took n records (R268)? -/
def RingDesc.notifies (d : RingDesc) (n : Nat) (ended : Bool) : Bool :=
  ended || (d.notify = 0#16 && decide (0 < n)) || (d.notify ≠ 0#16 && decide (d.notify.toNat ≤ d.since + n))

/-- A ring's PROD advances, with its notification. -/
def Chip.advanceRing (c : Chip) (d n : Nat) : Chip :=
  let x := tget c.ring d
  let hit := x.notifies n (c.stp.ended.contains d)
  let c := c.modRing d fun y => { y with prod := y.prod + BitVec.ofNat 32 n, since := if hit then 0 else y.since + n }
  let c := c.sample 3 (histBin (c.since - c.stp.c))
  if hit ∧ !c.follows then c.irq (4 + d % 8) else c

/-- E: beats, PROD, notifications, and the end of the step. A tick of the same cycle starts the next one (R57). -/
def Chip.endStep (c : Chip) (stall : Nat) : Chip :=
  let c := c.emitStall stall
  let c : Chip := c.stp.advance.foldl (fun (c : Chip) e => c.advanceRing e.1 e.2) c
  let c := (c.setReg 0x044 (BitVec.ofNat 32 c.since)).setReg 0x048 (BitVec.ofNat 32 c.stp.c)
  let c : Chip := { c with stp := { c.stp with active := false, afterE := true } }
  let c := if c.dbg.stepping ∧ !c.dbg.reached then { c with dbg := { c.dbg with reached := true, haltAt := c.clk.ucyc } } else c
  let c := if c.ready ∧ !c.run then c.markDue else c
  match c.tick.missDue with
  | none => c
  | some h => ({ c with tick := { c.tick with missDue := none }, stp := { c.stp with afterE := false } }).freeTick h

/-- The step's beats are written to the meter once every mirror acknowledgement is in, and before any PROD advances (R357). -/
def Chip.postBeats (c : Chip) : Chip :=
  if !c.runs ∨ !c.stp.committed ∨ c.stp.beats = [] ∨ c.stp.mirrorWait ≠ [] ∨ c.lock.waiting then c
  else
    { c with posted := c.posted ++ c.stp.beats, out := c.out ++ c.stp.beats.map OutMsg.beat
             stp := { c.stp with beats := [], beaten := true } }

/-- Has everything of the drain that comes before PROD been written: mirror records and beats, the signature of a contained pair, and the
flits of the ring records, acknowledged (R268, R357, R404, R410, R464)? -/
def Chip.drained (c : Chip) : Bool :=
  c.stp.mirrorWait = [] && !c.lock.waiting && c.stp.beats = [] && c.posted = [] && !c.ringOut

/-- Has the drain nothing to write, no ring record, no beat and no mirror record, and no signature to wait for, so that E is the cycle after C (R56)? -/
def Chip.emptyDrain (c : Chip) : Bool :=
  c.stp.advance = [] && !c.stp.beaten && c.stp.sentAt = 0 && c.stp.mirrorWait = [] && !(c.lock.bound && c.lock.contain && !c.lock.follower)

/-- STEP_END (R56): in a cycle after C, in the very next one where the drain has nothing to write, once all that comes before the advance of
PROD has been written. A mismatch of the emit stage's copies is a fail-stop, and the step does not end (R380, R386). -/
def execStepEnd (drain : DrainEnd) (s : State) : Host.Outcome State Fault Refusal :=
  let c := s.unit
  .next { s with unit :=
    if drain.mismatch ∧ c.runs then c.failStop 2
    else if !c.runs ∨ !c.stp.committed ∨ c.since ≤ c.stp.c ∨ !c.drained then c
    else if c.emptyDrain then (if c.since = c.stp.c + 1 then c.afterReads drain.ecc fun c => c.endStep 0 else c)
    else c.afterReads drain.ecc fun c => c.endStep drain.stall }

/-! ### Stalls and abandonment (R55, R411) -/

/-- Weight or merge data misses its release cycle, which is this one, and arrives `stall` cycles later (log entry 67): `src` is a logical
atoll, or 16 for the merge endpoint. -/
def Chip.lateArrival (c : Chip) (src stall : Nat) (item : Word) : Chip :=
  if !c.runs ∨ c.stp.committed ∨ stall = 0 then c
  else
    let c := (c.orReg 0x024 4#32).note .lateArrival (if src = 16 then 27 else c.physOf src + 1) src (min stall 0xFFFFFFFF) item.toNat
    { c with stp := { c.stp with stalls := c.stp.stalls ++ [(src, c.since, c.since + stall)] } }

/-- LATE_ARRIVAL (R55). -/
def execLateArrival (src : Fin 17) (stall : Nat) (item : Word) (s : State) : Host.Outcome State Fault Refusal :=
  .next { s with unit := s.unit.lateArrival src stall item }

/-- No stream runs on. -/
def AtollSt.halted (e : Nat × AtollSt) : Nat × AtollSt := (e.1, { e.2 with tileRuns := false, laneRuns := false })

/-- Has a stall that still lasts gone on for PERIOD_US × 1,050 UCLK (R411)? -/
def Chip.stallLong (c : Chip) : Bool := c.stp.stalls.any fun x => decide (x.2.1 + 1050 * c.periodUs ≤ c.since ∧ c.since ≤ x.2.2)

/-- A stall has lasted a whole tick period: every row is dropped, and the step will commit with no rows. -/
def Chip.stepAbandon (c : Chip) : Chip :=
  if !c.runs ∨ !c.stp.planned ∨ c.stp.committed ∨ c.stp.abandoned ∨ !c.stallLong then c
  else
    let c := c.mapRows (fun _ => true) fun r => { r with drop := some (r.drop.getD .deferred), predOff := true }
    ({ c with stp := { c.stp with abandoned := true, abandonAt := c.since, stalls := [] }, atoll := c.atoll.map AtollSt.halted }).note .stepAbandon

/-- STEP_ABANDON (R411). -/
def execStepAbandon (s : State) : Host.Outcome State Fault Refusal := .next { s with unit := s.unit.stepAbandon }

end Sys2Proof.Machine
end

