-- ==== Sys2Proof/Machine/Clock.lean ====
section
/-!
DEFINITION. What one UCLK of waiting does: the cycle that ends is settled, and the model's clock moves (DESIGN CHOICE, log entry 2).
Everything the unit does at a planned cycle is a command.
-/
namespace Sys2Proof.Machine

/-- FCLK edges up to the first one at or after the UCLK edge that ends a number of undivided cycles: 32 FCLK in 21 UCLK (02, alignment
frame). A capture takes FCLK counters at that edge (R428). -/
def fclk (cycles : Nat) : Nat := cdiv (cycles * 32) 21

/-- Counters that count FCLK cycles: ports, the spare port only while it is in service, and the merge endpoint (R423, R424). -/
def Chip.fclkEvents (c : Chip) (n : Nat) : Chip :=
  let p := c.pmcEvent 168 (if c.rbit 0x168 31 then 204 else 200) 0x200 n
  let q := p.1.pmcEvent 204 208 0x300 n
  Chip.logAll 512 q.1 (p.2 ++ q.2)

/-- A stall under R55 lasts in this cycle, from a source of these. -/
def Chip.stalledBy (c : Chip) (pick : Nat → Bool) : Bool :=
  c.stp.stalls.any fun x => pick x.1 && decide (x.2.1 ≤ c.since ∧ c.since < x.2.2)

/-- The cycle events of an atoll: issue held for late weights, castling waits, and WAITC, WAITF and WAITM (R424). -/
def Chip.atollEvents (c : Chip) (a : Nat) : Chip :=
  let x := tget c.atoll a
  let one (b : Bool) (code : Nat) (c : Chip) : Chip := if b then c.eventAtl (c.physOf a) code else c
  one (c.stalledBy fun s => s = a) 0x102
    (one (x.tileRuns && x.tileWait = .castling) 0x103 (one (x.laneRuns && !x.laneWait.over c.clk.ucyc) 0x112 c))

/-- The unit's cycle events of a UCLK cycle: every cycle, from P0 to C, from C to E, from E to the next tick, stalls and waits (R424). -/
def Chip.uclkEvents (c : Chip) : Chip :=
  let c := c.event 0x001
  if c.halts then c
  else if c.stp.active then
    let c := if c.stp.committed then c.event 0x006 else if c.p0 ≤ c.since then c.event 0x005 else c
    let c := if c.stalledBy fun _ => true then c.event 0x033 else c
    (List.range 16).foldl Chip.atollEvents c
  else if c.stp.afterE then c.event 0x007 else c

/-- The cycle in which the last work of a step's rows was done, which C follows (R56). -/
def Chip.markDone (c : Chip) : Chip :=
  if c.runs ∧ c.stp.planned ∧ c.stp.doneAt = none ∧ c.stp.rows.all c.rowDone then { c with stp := { c.stp with doneAt := some c.since } } else c

/-- A UCLK-domain cycle ends: the planner reads what has arrived in it, merge messages that have waited for the end of a halt are taken,
streams at the end of their bank end, beats are written to the meter, its events are counted, and it is settled (R57, R67). -/
def Chip.beat (c : Chip) : Chip := ((((((c.planNow).mergeWake).rangeEnds).markDone).postBeats).uclkEvents).endCycle

/-- One undivided UCLK passes in the unit. While UCLK is halved, every second one is a UCLK-domain cycle (R67, R476); there is none
before UCLK is released (R64). The holdover generator and FCLK are not halved. While the unit is held in reset no time since reset
release passes. -/
def Chip.clock (c : Chip) : Chip :=
  if c.clk.held then c
  else
    let beat := (!c.pwr.halved || c.clk.phase) && decide (c.clk.uclk0 ≤ c.clk.now)
    let now := c.clk.now
    let c := (c.fclkEvents (fclk (now + 1 - c.clk.fclk0) - fclk (now - c.clk.fclk0))).holdoverTick.bootRun
    let c := if beat then c.beat else c
    { c with clk := { c.clk with
      now := now + 1
      ucyc := c.clk.ucyc + (if beat then 1 else 0)
      phase := c.pwr.halved && !c.clk.phase } }

/-- One undivided UCLK passes in the meter section: MCLK at its nominal 1 in 21 (R351, R367). -/
def Meter.clock (m : Meter) : Meter :=
  if !m.powered then m
  else if m.frac + 1 < 21 then { m with frac := m.frac + 1 }
  else { m with frac := 0, mtime := m.mtime + 1, raised := 0 }

/-- What the block does when no command waits. -/
def idle (s : State) : State := { s with unit := s.unit.clock, meter := s.meter.clock }

end Sys2Proof.Machine
end

