-- ==== Sys2Proof/Machine/Debug.lean ====
section
/-!
DEFINITION. Debug mode: unlock, freeze, single-tile stepping, release (R444 to R449).
-/
namespace Sys2Proof.Machine

/-- A debug command other than DEBUG_UNLOCK: fuse, target and lock come first, and it clears HALF (R444, R445). -/
def Chip.debugCmd (c : Chip) (m : Mbx) (b : Mailbox) (f : Chip → Chip) : Chip :=
  let c := { c with dbg := { c.dbg with half := none } }
  if Config.debugFuseBlown then c.finish m 0x0082
  else if b.target ≠ 0 then c.finish m 0x0015
  else if !c.dbg.unlocked then c.finish m 0x0085
  else f c

/-- DEBUG_UNLOCK (R445). -/
def Chip.debugUnlock (c : Chip) (m : Mbx) (b : Mailbox) : Chip :=
  let v := b.pay 0 4
  if Config.debugFuseBlown then c.finish m 0x0082
  else if b.target ≠ 0 then c.finish m 0x0015
  else if 2 ^ 17 ≤ v then c.finish m 0x0012
  else if c.dbg.fails = 3#2 then c.finish m 0x0084
  else if !v.testBit 16 then
    ({ c with dbg := { c.dbg with half := some (m.val, BitVec.ofNat 16 v, 0) } }).finish m 0x0000
  else
    let ok : Bool := match c.dbg.half with
      | some (n, hi, age) => n = m.val ∧ age ≤ 4 ∧ Config.debugKey = hi ++ BitVec.ofNat 16 v
      | none => false
    let c := { c with dbg := { c.dbg with half := none } }
    if ok then (({ c with dbg := { c.dbg with unlocked := true } }).note .debugUnlocked).finish m 0x0000
    else (({ c with dbg := { c.dbg with fails := c.dbg.fails + 1 } }).note .debugKeyfail).finish m 0x0083

/-- DEBUG_UNLOCK (R445). -/
def execDebugUnlock (m : Mbx) (s : State) : Host.Outcome State Fault Refusal :=
  .next { s with unit := s.unit.applyCmd m 0x0F00 fun c b => c.debugUnlock m b }

/-- HALF_EXPIRY (R445): more than 4 ticks have passed since the first half. -/
def execHalfExpiry (s : State) : Host.Outcome State Fault Refusal :=
  .next { s with unit := match s.unit.dbg.half with
    | some (_, _, age) => if 4 < age then { s.unit with dbg := { s.unit.dbg with half := none } } else s.unit
    | none => s.unit }

/-- DEBUG_FREEZE (R446). -/
def execDebugFreeze (m : Mbx) (s : State) : Host.Outcome State Fault Refusal :=
  .next { s with unit := s.unit.applyCmd m 0x0F01 fun c b => c.debugCmd m b fun c =>
    if c.dbg.frozen ∨ c.dbg.freezePending then c.finish m 0x0087
    else ({ c with dbg := { c.dbg with freezePending := true } }).finish m 0x0000 }

/-- A wait for a cycle of a step whose T+0 moves by n. -/
def Wait.shift (w : Wait) (n : Nat) : Wait :=
  match w with
  | .untilUclk t => .untilUclk (t + n)
  | .none => .none
  | .castling => .castling

/-- The waits of an atoll's streams move with the step. -/
def AtollSt.shift (n : Nat) (e : Nat × AtollSt) : Nat × AtollSt :=
  (e.1, { e.2 with tileWait := e.2.tileWait.shift n, laneWait := e.2.laneWait.shift n })

/-- The held step runs on, without the row slots that a debug read has found bad (R451): halted cycles do not count as step cycles (R447). -/
def Chip.unhalt (c : Chip) : Chip :=
  if !c.halts then c
  else
    let n := c.clk.ucyc - c.dbg.haltAt
    ({ c with stp := { c.stp with t0 := c.stp.t0 + n }, atoll := c.atoll.map (AtollSt.shift n)
              dbg := { c.dbg with halted := false, reached := false } }).accDrops

/-- A running DEBUG_STEP ends with ATL_TILEPOS of its atoll and DBG_HALT (R449). -/
def Chip.endStepping (c : Chip) (at_ : Word) : Chip :=
  match c.dbg.stepMbx with
  | none => c
  | some m => ({ c with dbg := { c.dbg with stepMbx := none } }).finish m 0x0000
      (toLE 4 (c.atlReg (c.physOf c.dbg.stepAtoll) 0x10).toNat ++ toLE 4 at_.toNat)

/-- DEBUG_STEP of a frozen unit: the held step runs on until the atoll has issued n more tiles (R447). One that still runs ends first. -/
def Chip.debugStep (c : Chip) (m : Mbx) (b : Mailbox) : Chip :=
  let v := b.pay 0 4
  let n := fld v 28 16
  if !c.dbg.frozen then c.finish m 0x0086
  else if fld v 15 4 ≠ 0 ∨ fld v 31 29 ≠ 0 then c.finish m 0x0012
  else if n = 0 ∨ 4096 < n then c.finish m 0x0020
  else
    let c := (c.endStepping c.dbg.halt).unhalt
    let c := { c with dbg := { c.dbg with stepping := true, reached := false, atEnd := false, stepAtoll := fld v 3 0, stepGoal := n
                                          stepMbx := some m.val } }
    c.modMbx m fun b => { b with due := false, apply := false }

/-- DEBUG_STEP (R447): the command ends when the foreground halts. -/
def execDebugStep (m : Mbx) (s : State) : Host.Outcome State Fault Refusal :=
  .next { s with unit := s.unit.applyCmd m 0x0F02 fun c b => c.debugCmd m b fun c => c.debugStep m b }

/-- Is the halt of a running DEBUG_STEP due: its last tile was issued in an earlier cycle, or the step has reached E? A fail-stop, which
ends the step too, leaves nothing to wait for (R447). -/
def Chip.haltDue (c : Chip) : Bool := c.dbg.stepping && (c.halts || c.stopped)

/-- The cycle of a due halt, from the step's T+0. -/
def Chip.haltCycle (c : Chip) : Word := BitVec.ofNat 32 ((if c.dbg.reached then c.dbg.haltAt else c.clk.ucyc) - c.stp.t0)

/-- DEBUG_HALT (R71, R447): every foreground path halts, which is logged; the stepping command ends with ATL_TILEPOS and DBG_HALT. -/
def Chip.debugHaltNow (c : Chip) (atEnd : Bool) : Chip :=
  if !c.haltDue ∨ atEnd = c.stp.active then c
  else
    let at_ := c.haltCycle
    let c := { c with dbg := { c.dbg with stepping := false, reached := false, halted := true, atEnd := atEnd, halt := at_
                                          haltAt := if c.dbg.reached then c.dbg.haltAt else c.clk.ucyc } }
    (c.note .debugFreeze).endStepping at_

/-- DEBUG_HALT (R447). -/
def execDebugHalt (atEnd : Bool) (s : State) : Host.Outcome State Fault Refusal :=
  .next { s with unit := s.unit.debugHaltNow atEnd }

/-- DEBUG_RELEASE of an unlocked unit (R448). A DEBUG_STEP that still runs ends first. -/
def Chip.debugRelease (c : Chip) (m : Mbx) (b : Mailbox) : Chip :=
  let v := b.pay 0 4
  if 2 ≤ v then c.finish m 0x0012
  else
    let c := (c.endStepping c.dbg.halt).unhalt
    let c := { c with dbg := { c.dbg with frozen := false, freezePending := false, stepping := false, reached := false, halted := false
                                          atEnd := false, unlocked := v.testBit 0 } }
    (c.note .debugReleased).finish m 0x0000

/-- DEBUG_RELEASE (R448). -/
def execDebugRelease (m : Mbx) (s : State) : Host.Outcome State Fault Refusal :=
  .next { s with unit := s.unit.applyCmd m 0x0F03 fun c b => c.debugCmd m b fun c => c.debugRelease m b }

end Sys2Proof.Machine
end

