-- ==== Sys2Proof/Machine/I3c.lean ====
section
/-!
DEFINITION. The meter's I3C target and pins: commands, CCCs and pin faults (R373 to R378).
-/
namespace Sys2Proof.Machine

/-- The target acknowledges: powered, booted, and no line stuck, open or shorted (R374, R375). -/
def Meter.targetUp (m : Meter) : Bool :=
  m.powered && m.booted && decide (m.pin &&& 0x2F#7 = 0#7)

/-- A response: status, 2-byte length, data (R373). -/
def Meter.answer (m : Meter) (status : Byte) (data : List Byte) : Meter :=
  { m with resp := some (status :: toLE 2 data.length ++ data), acked := true }

/-- A private write of a command acts when the target acknowledges; otherwise the transfer is not acknowledged. -/
def Meter.command (m : Meter) (f : Meter → Meter) : Meter := if m.targetUp then f m else { m with acked := false }

/-- Commands that loader-only mode does not accept answer LOADERONLY (R366, R373). -/
def Meter.fullMode (m : Meter) (f : Meter → Meter) : Meter := if m.loaderOnly then m.answer 0x08 [] else f m

/-- STATEMENT (R367, R369). -/
def Meter.cmdStatement (args : List Byte) (m : Meter) : Meter :=
  let first := leAt args 0 2
  let count := leAt args 2 1
  if args.length ≠ 11 ∨ 4096 < first + count ∨ count = 0 ∨ 64 < count then m.answer 0x03 []
  else
    let r := m.takeStatement 1 first count (args.drop 3)
    r.2.answer 0x00 r.1

/-- READREG (R370, R373). -/
def Meter.cmdReadreg (args : List Byte) (m : Meter) : Meter :=
  let off := leAt args 0 2
  let n := leAt args 2 1
  if args.length ≠ 3 ∨ off % 4 ≠ 0 ∨ n = 0 ∨ 64 < n ∨ 0x10000 < off + 4 * n then m.answer 0x03 []
  else
    let r := Meter.readWords n m off
    r.2.answer 0x00 r.1

/-- CLRALERT (R372, R373): a bit whose cause has come in the running cycle stays 1 (R379). -/
def Meter.cmdClralert (args : List Byte) (m : Meter) : Meter :=
  if args.length ≠ 2 then m.answer 0x03 []
  else ({ m with alert := m.alert &&& ~~~ (BitVec.ofNat 7 (leNat args) &&& ~~~ m.raised) }).answer 0x00 []

/-- LOADBEGIN (R366): the slot that is not running is opened for writing. -/
def Meter.cmdLoadbegin (args : List Byte) (m : Meter) : Meter :=
  let n := leNat args
  if args.length ≠ 1 ∨ 1 < n then m.answer 0x03 []
  else if !m.loaderOnly ∧ m.slot = (n == 1) then m.answer 0x07 []
  else
    let e : MtrSlot := { bytes := [], verified := false }
    let m' := { m with loading := some (n == 1), slot0 := if n = 0 then e else m.slot0, slot1 := if n = 1 then e else m.slot1 }
    m'.answer 0x00 []

/-- LOADDATA (R366, R373). -/
def Meter.cmdLoaddata (args : List Byte) (m : Meter) : Meter :=
  let off := leAt args 0 4
  let d := args.drop 4
  match m.loading with
  | none => m.answer 0x03 []
  | some one =>
    if d.length = 0 ∨ 240 < d.length ∨ 256 + 32768 < off + d.length then m.answer 0x03 []
    else
      let x := m.slotOf one
      let y := { x with bytes := wrBytes x.bytes off d }
      (if one then { m with slot1 := y } else { m with slot0 := y }).answer 0x00 []

/-- LOADEND (R363, R366): the loaded slot is verified; a seal event whether or not it verifies. -/
def Meter.cmdLoadend (args : List Byte) (m : Meter) : Meter :=
  match m.loading with
  | none => m.answer 0x03 []
  | some one =>
    if args ≠ [] then m.answer 0x03 []
    else if m.sealSat then m.answer 0x06 []
    else
      let r := m.checkSlot one
      let x := m.slotOf one
      let y := { x with verified := decide (r = 0x00) }
      let m' := if one then { m with slot1 := y } else { m with slot0 := y }
      let m' := ({ m' with loading := none }).sealEvent 3 r (if one then 1 else 0) (sha384 x.body)
      m'.answer r [r]

/-- ACTIVATE (R366): a verified slot is named, then a warm reset. -/
def Meter.cmdActivate (args : List Byte) (m : Meter) : Meter :=
  let n := leNat args
  if args.length ≠ 1 ∨ 1 < n then m.answer 0x03 []
  else if !(m.slotOf (n == 1)).verified then m.answer 0x04 []
  else (m.warmReset (some (n == 1))).answer 0x00 []

/-- SETCFG (R377): the block is checked and written; a seal event. -/
def Meter.cmdSetcfg (args : List Byte) (m : Meter) : Meter :=
  let hi := leAt args 4 2
  if args.length ≠ 16 ∨ 0x80 ≤ leAt args 0 1 ∨ 0x80 ≤ leAt args 2 2 ∨ hi = 0 ∨ 8192 < hi ∨ leAt args 6 10 ≠ 0 then
    m.answer 0x03 []
  else if m.sealSat then m.answer 0x06 []
  else
    let g : MtrCfg := { staticAddr := BitVec.ofNat 7 (leAt args 0 1), stmtInt := BitVec.ofNat 8 (leAt args 1 1)
                        alertMask := BitVec.ofNat 7 (leAt args 2 2), fifoHi := BitVec.ofNat 16 hi }
    (({ m with cfg := g }).sealEvent 4 0 0 (sha384 args)).answer 0x00 []

/-- A CCC that returns data. -/
def Meter.cccRead (m : Meter) (d : List Byte) : Meter :=
  if m.targetUp then { m with rdata := d, acked := true } else { m with acked := false }

/-- A CCC that sets state. -/
def Meter.ccc (m : Meter) (f : Meter → Meter) : Meter :=
  if m.targetUp then f { m with acked := true } else { m with acked := false }

/-- A pin fault bit found or gone; a fault found sets ALERTSTAT.PIN (R375). -/
def Meter.pinFault (m : Meter) (bit : Nat) (present : Bool) : Meter :=
  if !m.powered then m
  else if present then ({ m with pin := m.pin ||| (1#7 <<< bit) }).raise 5
  else { m with pin := m.pin &&& ~~~ (1#7 <<< bit) }

/-- STATEMENT (R367). -/
def execStatement (args : List Byte) (s : State) : Host.Outcome State Fault Refusal :=
  .next (s.withMeter (s.meter.command fun m => m.fullMode (Meter.cmdStatement args)))

/-- READREG (R373). -/
def execReadreg (args : List Byte) (s : State) : Host.Outcome State Fault Refusal :=
  .next (s.withMeter (s.meter.command (Meter.cmdReadreg args)))

/-- CLRALERT (R373). -/
def execClralert (args : List Byte) (s : State) : Host.Outcome State Fault Refusal :=
  .next (s.withMeter (s.meter.command (Meter.cmdClralert args)))

/-- LOADBEGIN (R366, R373). -/
def execLoadbegin (args : List Byte) (s : State) : Host.Outcome State Fault Refusal :=
  .next (s.withMeter (s.meter.command (Meter.cmdLoadbegin args)))

/-- LOADDATA (R366, R373). -/
def execLoaddata (args : List Byte) (s : State) : Host.Outcome State Fault Refusal :=
  .next (s.withMeter (s.meter.command (Meter.cmdLoaddata args)))

/-- LOADEND (R363, R366). -/
def execLoadend (args : List Byte) (s : State) : Host.Outcome State Fault Refusal :=
  .next (s.withMeter (s.meter.command (Meter.cmdLoadend args)))

/-- ACTIVATE (R366). -/
def execActivate (args : List Byte) (s : State) : Host.Outcome State Fault Refusal :=
  .next (s.withMeter (s.meter.command (Meter.cmdActivate args)))

/-- SETCFG (R363, R377). -/
def execSetcfg (args : List Byte) (s : State) : Host.Outcome State Fault Refusal :=
  .next (s.withMeter (s.meter.command fun m => m.fullMode (Meter.cmdSetcfg args)))

/-- BADCMD (R373): an undefined command code. -/
def execBadcmd (code : Byte) (s : State) : Host.Outcome State Fault Refusal :=
  let _ := code
  .next (s.withMeter (s.meter.command fun m => m.answer 0x02 []))

/-- PRIVATE_READ (R373): the response, or BUSY with length 0 until it is ready. -/
def execPrivateRead (s : State) : Host.Outcome State Fault Refusal :=
  .next (s.withMeter (s.meter.cccRead (s.meter.resp.getD [0x01#8, 0#8, 0#8])))

/-- ENTDAA (R373): a target without a dynamic address takes the one assigned. -/
def execEntdaa (addr : BitVec 7) (s : State) : Host.Outcome State Fault Refusal :=
  .next (s.withMeter (s.meter.ccc fun m => { m with dynAddr := some (m.dynAddr.getD addr) }))

/-- SETDASA (R373): a target without a dynamic address takes the one sent to its static address. -/
def execSetdasa (addr : BitVec 7) (s : State) : Host.Outcome State Fault Refusal :=
  .next (s.withMeter (s.meter.ccc fun m => { m with dynAddr := some (m.dynAddr.getD addr) }))

/-- SETNEWDA (R373): the dynamic address of an addressed target changes. -/
def execSetnewda (addr : BitVec 7) (s : State) : Host.Outcome State Fault Refusal :=
  .next (s.withMeter (s.meter.ccc fun m => { m with dynAddr := m.dynAddr.map fun _ => addr }))

/-- RSTDAA (R373). -/
def execRstdaa (s : State) : Host.Outcome State Fault Refusal :=
  .next (s.withMeter (s.meter.ccc fun m => { m with dynAddr := none }))

/-- ENEC (R373). -/
def execEnec (mask : Byte) (s : State) : Host.Outcome State Fault Refusal :=
  .next (s.withMeter (s.meter.ccc fun m => { m with events := m.events ||| mask }))

/-- DISEC (R373). -/
def execDisec (mask : Byte) (s : State) : Host.Outcome State Fault Refusal :=
  .next (s.withMeter (s.meter.ccc fun m => { m with events := m.events &&& ~~~ mask }))

/-- GETPID (R373). -/
def execGetpid (s : State) : Host.Outcome State Fault Refusal :=
  .next (s.withMeter (s.meter.cccRead ((List.range 6).map Config.i3cPid)))

/-- GETBCR (R373). -/
def execGetbcr (s : State) : Host.Outcome State Fault Refusal := .next (s.withMeter (s.meter.cccRead [Config.i3cBcr]))

/-- GETDCR (R373). -/
def execGetdcr (s : State) : Host.Outcome State Fault Refusal := .next (s.withMeter (s.meter.cccRead [Config.i3cDcr]))

/-- GETSTATUS (R373): the status word is a free value. -/
def execGetstatus (s : State) : Host.Outcome State Fault Refusal :=
  let t := s.withMeter (s.meter.cccRead (toBE 2 (Config.i3cStatus s.unit.fresh).toNat))
  .next { t with unit := { t.unit with fresh := t.unit.fresh + 1 } }

/-- GETMRL (R373): 2,048, most significant byte first. -/
def execGetmrl (s : State) : Host.Outcome State Fault Refusal := .next (s.withMeter (s.meter.cccRead (toBE 2 2048)))

/-- GETMWL (R373): 256, most significant byte first. -/
def execGetmwl (s : State) : Host.Outcome State Fault Refusal := .next (s.withMeter (s.meter.cccRead (toBE 2 256)))

/-- UNSUPPORTED_CCC (R373): not acknowledged. -/
def execUnsupportedCcc (code : Byte) (s : State) : Host.Outcome State Fault Refusal :=
  let _ := code
  .next (s.withMeter { s.meter with acked := false })

/-- STUCK_LOW (R375). -/
def execStuckLow (sda : Bool) (s : State) : Host.Outcome State Fault Refusal :=
  .next (s.withMeter (s.meter.pinFault (if sda then 1 else 0) true))

/-- LINE_RECOVERY (R375). -/
def execLineRecovery (sda : Bool) (s : State) : Host.Outcome State Fault Refusal :=
  .next (s.withMeter (s.meter.pinFault (if sda then 1 else 0) false))

/-- OPEN_PROBE (R375). -/
def execOpenProbe (sclOpen sdaOpen : Bool) (s : State) : Host.Outcome State Fault Refusal :=
  .next (s.withMeter ((s.meter.pinFault 2 sclOpen).pinFault 3 sdaOpen))

/-- SWAPPED (R375). -/
def execSwapped (inUse : Bool) (s : State) : Host.Outcome State Fault Refusal :=
  .next (s.withMeter (s.meter.pinFault 4 inUse))

/-- SHORTED (R375). -/
def execShorted (s : State) : Host.Outcome State Fault Refusal := .next (s.withMeter (s.meter.pinFault 5 true))

/-- LINES_DIFFER (R375). -/
def execLinesDiffer (s : State) : Host.Outcome State Fault Refusal := .next (s.withMeter (s.meter.pinFault 5 false))

/-- ALERT_STUCK (R375). -/
def execAlertStuck (stuck : Bool) (s : State) : Host.Outcome State Fault Refusal :=
  .next (s.withMeter (s.meter.pinFault 6 stuck))

end Sys2Proof.Machine
end

