-- ==== Sys2Proof/Machine/Vectors.lean ====
section
/-!
DEFINITION. Vector instructions of the lanes that work on their operands alone (R297, R298).
-/
namespace Sys2Proof.Machine

/-- An elementwise word of two FP32 operands. -/
def Chip.fpBin (c : Chip) (a op : Nat) (f : LaneF) (h : Word → Word → Word) : Chip :=
  c.fpStep a op f fun g i => h (c.readFp g (opnd f.a) i) (c.readFp g (opnd f.b) i)

/-- An elementwise word of one FP32 operand. -/
def Chip.fpUn (c : Chip) (a op : Nat) (f : LaneF) (h : Word → Word) : Chip :=
  c.fpStep a op f fun g i => h (c.readFp g (opnd f.a) i)

/-- D ← fma(A, B, D) with one rounding. -/
def Chip.vfma (c : Chip) (a : Nat) (f : LaneF) : Chip :=
  c.fpStep a 0x44 f fun g i => ffma (c.readFp g (opnd f.a) i) (c.readFp g (opnd f.b) i) (c.readFp g (opnd f.d) i)

/-- VFMA (R297). -/
def execVfma (at_ : Atoll) (f : LaneF) (s : State) : Host.Outcome State Fault Refusal :=
  .next { s with unit := s.unit.laneStep at_ 0x44 f fun c => c.vfma at_ f }

/-- VADD (R297). -/
def execVadd (at_ : Atoll) (f : LaneF) (s : State) : Host.Outcome State Fault Refusal :=
  .next { s with unit := s.unit.laneStep at_ 0x41 f fun c => c.fpBin at_ 0x41 f fadd }

/-- VSUB (R297). -/
def execVsub (at_ : Atoll) (f : LaneF) (s : State) : Host.Outcome State Fault Refusal :=
  .next { s with unit := s.unit.laneStep at_ 0x42 f fun c => c.fpBin at_ 0x42 f fsub }

/-- VMUL (R297). -/
def execVmul (at_ : Atoll) (f : LaneF) (s : State) : Host.Outcome State Fault Refusal :=
  .next { s with unit := s.unit.laneStep at_ 0x43 f fun c => c.fpBin at_ 0x43 f fmul }

/-- VMAX: a NaN operand gives NaN, −0 is below +0 (R297). -/
def execVmax (at_ : Atoll) (f : LaneF) (s : State) : Host.Outcome State Fault Refusal :=
  .next { s with unit := s.unit.laneStep at_ 0x45 f fun c => c.fpBin at_ 0x45 f fmax }

/-- VMIN (R297). -/
def execVmin (at_ : Atoll) (f : LaneF) (s : State) : Host.Outcome State Fault Refusal :=
  .next { s with unit := s.unit.laneStep at_ 0x46 f fun c => c.fpBin at_ 0x46 f fmin }

/-- VDIV (R297). -/
def execVdiv (at_ : Atoll) (f : LaneF) (s : State) : Host.Outcome State Fault Refusal :=
  .next { s with unit := s.unit.laneStep at_ 0x47 f fun c => c.fpBin at_ 0x47 f fdiv }

/-- VEXP (R297). -/
def execVexp (at_ : Atoll) (f : LaneF) (s : State) : Host.Outcome State Fault Refusal :=
  .next { s with unit := s.unit.laneStep at_ 0x48 f fun c => c.fpUn at_ 0x48 f fexp }

/-- VLOG (R297). -/
def execVlog (at_ : Atoll) (f : LaneF) (s : State) : Host.Outcome State Fault Refusal :=
  .next { s with unit := s.unit.laneStep at_ 0x49 f fun c => c.fpUn at_ 0x49 f flog }

/-- Is an operand a scalar register? -/
def Opnd.isScal : Opnd → Bool
  | .scal _ => true
  | _ => false

/-- ETYPE of a destination. -/
def Chip.dstType (c : Chip) (g : Nat) (f : LaneF) : Nat := (c.etypeOf g (opnd f.d)).getD 0

/-- VMOV: moved with conversion; a scalar source is FP32 (R298). -/
def Chip.vmov (c : Chip) (a : Nat) (f : LaneF) : Chip :=
  let A := opnd f.a
  c.vecStep a 0x40 f (fun g => c.countOf g (opnd f.d))
    (fun g => [c.movDest g f (if A.isScal then [0, 1, 2, 3, 4, 5, 6] else List.range 8),
               ⟨A, convertible (c.dstType g f), false, true⟩])
    fun g i => (convert ((c.etypeOf g A).getD 0) (c.dstType g f) (c.readEl g A i)).getD 0

/-- VMOV (R298). -/
def execVmov (at_ : Atoll) (f : LaneF) (s : State) : Host.Outcome State Fault Refusal :=
  .next { s with unit := s.unit.laneStep at_ 0x40 f fun c => c.vmov at_ f }

/-- The element type that a VCMP compares in: A's, else B's, else FP32. -/
def Chip.cmpType (c : Chip) (g : Nat) (f : LaneF) : Nat := ((c.etypeOf g (opnd f.a)).orElse fun _ => c.etypeOf g (opnd f.b)).getD 0

/-- VCMP: FP32 in the ordered sense, integers as unsigned (R298). -/
def Chip.vcmp (c : Chip) (a : Nat) (f : LaneF) : Chip :=
  let A := opnd f.a
  let B := opnd f.b
  let code := fld f.mod.toNat 2 0
  c.vecStep a 0x4A f (fun g => c.countOf g (opnd f.d))
    (fun g => [⟨opnd f.d, [4], true, false⟩, ⟨A, [0, 4, 5, 6], false, true⟩,
               ⟨B, if A.isScal then [0, 4, 5, 6] else [c.cmpType g f], false, true⟩])
    fun g i => b2n (if c.cmpType g f = 0 then cmpFp code (c.readFp g A i) (c.readFp g B i)
                    else cmpInt code (c.readEl g A i) (c.readEl g B i))

/-- VCMP (R298). -/
def execVcmp (at_ : Atoll) (f : LaneF) (s : State) : Host.Outcome State Fault Refusal :=
  .next { s with unit := s.unit.laneStep at_ 0x4A f fun c => c.vcmp at_ f }

/-- The mask descriptor that MOD[5:0] names. -/
def maskOpnd (f : LaneF) : Opnd := .desc (fld f.mod.toNat 5 0)

/-- VSEL: A where the mask element is non-zero, else B; all of one ETYPE (R298). -/
def Chip.vsel (c : Chip) (a : Nat) (f : LaneF) : Chip :=
  let A := opnd f.a
  let B := opnd f.b
  c.vecStep a 0x4B f (fun g => c.countOf g (opnd f.d))
    (fun g => [⟨opnd f.d, if A.isScal || B.isScal then [0, 6] else List.range 8, true, false⟩,
               ⟨A, [c.dstType g f], false, true⟩, ⟨B, [c.dstType g f], false, true⟩, ⟨maskOpnd f, [4], false, true⟩])
    fun g i => c.readEl g (if c.readEl g (maskOpnd f) i ≠ 0 then A else B) i

/-- VSEL (R297). -/
def execVsel (at_ : Atoll) (f : LaneF) (s : State) : Host.Outcome State Fault Refusal :=
  .next { s with unit := s.unit.laneStep at_ 0x4B f fun c => c.vsel at_ f }

/-- VFILL: every element ← bits of A, or A[7:0] for U8. -/
def Chip.vfill (c : Chip) (a : Nat) (f : LaneF) : Chip :=
  c.vecStep a 0x4C f (fun g => c.countOf g (opnd f.d)) (fun _ => [⟨opnd f.d, [0, 4, 6], true, false⟩])
    fun g _ => c.readEl g (opnd f.a) 0

/-- VFILL (R297). -/
def execVfill (at_ : Atoll) (f : LaneF) (s : State) : Host.Outcome State Fault Refusal :=
  .next { s with unit := s.unit.laneStep at_ 0x4C f fun c => c.vfill at_ f }

/-- VBIT: bitwise on U8 or W32 elements. -/
def Chip.vbit (c : Chip) (a : Nat) (f : LaneF) : Chip :=
  let el (g : Nat) (b : Byte) (i : Nat) : DWord := BitVec.ofNat 64 (c.readEl g (opnd b) i)
  c.vecStep a 0x4D f (fun g => c.countOf g (opnd f.d))
    (fun g => [⟨opnd f.d, [4, 6], true, false⟩, ⟨opnd f.a, [c.dstType g f], false, true⟩, ⟨opnd f.b, [c.dstType g f], false, true⟩])
    fun g i => (logicBits (fld f.mod.toNat 1 0) (el g f.a i) (el g f.b i)).toNat

/-- VBIT (R297). -/
def execVbit (at_ : Atoll) (f : LaneF) (s : State) : Host.Outcome State Fault Refusal :=
  .next { s with unit := s.unit.laneStep at_ 0x4D f fun c => c.vbit at_ f }

end Sys2Proof.Machine
end

