-- ==== Sys2Proof/Machine/Dispatch.lean ====
section
/-!
DEFINITION. One arm per command: the call of its meaning.
-/
namespace Sys2Proof.Machine
open Sys2Proof

def exec (i : Instr) (s : State) : Host.Outcome State Fault Refusal :=
  match i with
  | .stepTick width low => Sys2Proof.Machine.execStepTick width low s
  | .holdoverTick => Sys2Proof.Machine.execHoldoverTick s
  | .fwLate missing => Sys2Proof.Machine.execFwLate missing s
  | .fwRestart => Sys2Proof.Machine.execFwRestart s
  | .refill => Sys2Proof.Machine.execRefill s
  | .expiry req => Sys2Proof.Machine.execExpiry req s
  | .plannerRun desc waves finds => Sys2Proof.Machine.execPlannerRun desc waves finds s
  | .backgroundSlot found => Sys2Proof.Machine.execBackgroundSlot found s
  | .inputFence fence => Sys2Proof.Machine.execInputFence fence s
  | .maskFence phase => Sys2Proof.Machine.execMaskFence phase s
  | .lateArrival src stall item => Sys2Proof.Machine.execLateArrival src stall item s
  | .stepAbandon => Sys2Proof.Machine.execStepAbandon s
  | .commitPoint => Sys2Proof.Machine.execCommitPoint s
  | .faultEscalate req => Sys2Proof.Machine.execFaultEscalate req s
  | .stepEnd drain => Sys2Proof.Machine.execStepEnd drain s
  | .mirrorAck req pos late => Sys2Proof.Machine.execMirrorAck req pos late s
  | .mirrorLost req => Sys2Proof.Machine.execMirrorLost req s
  | .score at_ wave word tiles finds => Sys2Proof.Machine.execScore at_ wave word tiles finds s
  | .tileWaitf at_ word => Sys2Proof.Machine.execTileWaitf at_ word s
  | .tileNop at_ word => Sys2Proof.Machine.execTileNop at_ word s
  | .tileEnd at_ word => Sys2Proof.Machine.execTileEnd at_ word s
  | .tcmdBad at_ word => Sys2Proof.Machine.execTcmdBad at_ word s
  | .insnUndef at_ op f => Sys2Proof.Machine.execInsnUndef at_ op f s
  | .laneNop at_ f => Sys2Proof.Machine.execLaneNop at_ f s
  | .halt at_ f => Sys2Proof.Machine.execHalt at_ f s
  | .loop at_ f => Sys2Proof.Machine.execLoop at_ f s
  | .waitc at_ f => Sys2Proof.Machine.execWaitc at_ f s
  | .waitf at_ f => Sys2Proof.Machine.execWaitf at_ f s
  | .waitm at_ f => Sys2Proof.Machine.execWaitm at_ f s
  | .sli at_ f => Sys2Proof.Machine.execSli at_ f s
  | .smov at_ f => Sys2Proof.Machine.execSmov at_ f s
  | .sadd at_ f => Sys2Proof.Machine.execSadd at_ f s
  | .ssub at_ f => Sys2Proof.Machine.execSsub at_ f s
  | .smul at_ f => Sys2Proof.Machine.execSmul at_ f s
  | .sand at_ f => Sys2Proof.Machine.execSand at_ f s
  | .sor at_ f => Sys2Proof.Machine.execSor at_ f s
  | .sxor at_ f => Sys2Proof.Machine.execSxor at_ f s
  | .sshl at_ f => Sys2Proof.Machine.execSshl at_ f s
  | .sshr at_ f => Sys2Proof.Machine.execSshr at_ f s
  | .sfadd at_ f => Sys2Proof.Machine.execSfadd at_ f s
  | .sfmul at_ f => Sys2Proof.Machine.execSfmul at_ f s
  | .sfdiv at_ f => Sys2Proof.Machine.execSfdiv at_ f s
  | .sld at_ f => Sys2Proof.Machine.execSld at_ f s
  | .sst at_ f => Sys2Proof.Machine.execSst at_ f s
  | .dld at_ f => Sys2Proof.Machine.execDld at_ f s
  | .dadd at_ f => Sys2Proof.Machine.execDadd at_ f s
  | .pcmp at_ f => Sys2Proof.Machine.execPcmp at_ f s
  | .prow at_ wave f => Sys2Proof.Machine.execProw at_ wave f s
  | .plog at_ f => Sys2Proof.Machine.execPlog at_ f s
  | .vmov at_ f => Sys2Proof.Machine.execVmov at_ f s
  | .vadd at_ f => Sys2Proof.Machine.execVadd at_ f s
  | .vsub at_ f => Sys2Proof.Machine.execVsub at_ f s
  | .vmul at_ f => Sys2Proof.Machine.execVmul at_ f s
  | .vfma at_ f => Sys2Proof.Machine.execVfma at_ f s
  | .vmax at_ f => Sys2Proof.Machine.execVmax at_ f s
  | .vmin at_ f => Sys2Proof.Machine.execVmin at_ f s
  | .vdiv at_ f => Sys2Proof.Machine.execVdiv at_ f s
  | .vexp at_ f => Sys2Proof.Machine.execVexp at_ f s
  | .vlog at_ f => Sys2Proof.Machine.execVlog at_ f s
  | .vcmp at_ f => Sys2Proof.Machine.execVcmp at_ f s
  | .vsel at_ f => Sys2Proof.Machine.execVsel at_ f s
  | .vfill at_ f => Sys2Proof.Machine.execVfill at_ f s
  | .vbit at_ f => Sys2Proof.Machine.execVbit at_ f s
  | .final at_ wave f faults => Sys2Proof.Machine.execFinal at_ wave f faults s
  | .norm at_ wave f => Sys2Proof.Machine.execNorm at_ wave f s
  | .chk at_ wave f => Sys2Proof.Machine.execChk at_ wave f s
  | .rowdone at_ wave f check => Sys2Proof.Machine.execRowdone at_ wave f check s
  | .cntld at_ wave f => Sys2Proof.Machine.execCntld at_ wave f s
  | .mskld at_ wave f => Sys2Proof.Machine.execMskld at_ wave f s
  | .biasld at_ wave f => Sys2Proof.Machine.execBiasld at_ wave f s
  | .prmld at_ wave f => Sys2Proof.Machine.execPrmld at_ wave f s
  | .delld at_ wave f => Sys2Proof.Machine.execDelld at_ wave f s
  | .rsck at_ wave f weights => Sys2Proof.Machine.execRsck at_ wave f weights s
  | .draw at_ wave f upset => Sys2Proof.Machine.execDraw at_ wave f upset s
  | .resolve at_ wave f upset => Sys2Proof.Machine.execResolve at_ wave f upset s
  | .row port msg => Sys2Proof.Machine.execRow port msg s
  | .grammarMask port msg => Sys2Proof.Machine.execGrammarMask port msg s
  | .data port flit => Sys2Proof.Machine.execData port flit s
  | .credit port cls total => Sys2Proof.Machine.execCredit port cls total s
  | .linkAck port seq => Sys2Proof.Machine.execLinkAck port seq s
  | .nak port seq => Sys2Proof.Machine.execNak port seq s
  | .linkRetry port => Sys2Proof.Machine.execLinkRetry port s
  | .creditTimeout port => Sys2Proof.Machine.execCreditTimeout port s
  | .mchCredit sub => Sys2Proof.Machine.execMchCredit sub s
  | .mergeNorm msg => Sys2Proof.Machine.execMergeNorm msg s
  | .pass1 msg => Sys2Proof.Machine.execPass1 msg s
  | .pass2 msg => Sys2Proof.Machine.execPass2 msg s
  | .pass3 msg => Sys2Proof.Machine.execPass3 msg s
  | .decision msg => Sys2Proof.Machine.execDecision msg s
  | .list msg => Sys2Proof.Machine.execList msg s
  | .notice msg => Sys2Proof.Machine.execNotice msg s
  | .mergeTimeout peer missing => Sys2Proof.Machine.execMergeTimeout peer missing s
  | .record peer msg => Sys2Proof.Machine.execRecord peer msg s
  | .bind peer msg => Sys2Proof.Machine.execBind peer msg s
  | .accept peer msg => Sys2Proof.Machine.execAccept peer msg s
  | .refuse peer msg => Sys2Proof.Machine.execRefuse peer msg s
  | .bindNoAnswer req => Sys2Proof.Machine.execBindNoAnswer req s
  | .heartbeat peer msg => Sys2Proof.Machine.execHeartbeat peer msg s
  | .signature peer arrival => Sys2Proof.Machine.execSignature peer arrival s
  | .signatureTimeout => Sys2Proof.Machine.execSignatureTimeout s
  | .ring m => Sys2Proof.Machine.execRing m s
  | .ack m => Sys2Proof.Machine.execAck m s
  | .verdictApply m finds => Sys2Proof.Machine.execVerdictApply m finds s
  | .verdictRefuse m status => Sys2Proof.Machine.execVerdictRefuse m status s
  | .mbxNop m => Sys2Proof.Machine.execMbxNop m s
  | .getVersion m => Sys2Proof.Machine.execGetVersion m s
  | .getCaps m => Sys2Proof.Machine.execGetCaps m s
  | .openReq m => Sys2Proof.Machine.execOpenReq m s
  | .setParams m => Sys2Proof.Machine.execSetParams m s
  | .closeReq m => Sys2Proof.Machine.execCloseReq m s
  | .cancel m => Sys2Proof.Machine.execCancel m s
  | .park m => Sys2Proof.Machine.execPark m s
  | .parkCommit m => Sys2Proof.Machine.execParkCommit m s
  | .resume m => Sys2Proof.Machine.execResume m s
  | .resumeCommit m => Sys2Proof.Machine.execResumeCommit m s
  | .adopt m => Sys2Proof.Machine.execAdopt m s
  | .adoptCommit m => Sys2Proof.Machine.execAdoptCommit m s
  | .loadCounts m => Sys2Proof.Machine.execLoadCounts m s
  | .loadCountsCommit m => Sys2Proof.Machine.execLoadCountsCommit m s
  | .resetCounts m => Sys2Proof.Machine.execResetCounts m s
  | .setTenant m => Sys2Proof.Machine.execSetTenant m s
  | .setBudget m => Sys2Proof.Machine.execSetBudget m s
  | .loadAdapter m => Sys2Proof.Machine.execLoadAdapter m s
  | .loadAdapterCommit m => Sys2Proof.Machine.execLoadAdapterCommit m s
  | .loadDelta m => Sys2Proof.Machine.execLoadDelta m s
  | .loadDeltaCommit m => Sys2Proof.Machine.execLoadDeltaCommit m s
  | .loadTrie m => Sys2Proof.Machine.execLoadTrie m s
  | .loadTrieCommit m => Sys2Proof.Machine.execLoadTrieCommit m s
  | .loadDenylist m => Sys2Proof.Machine.execLoadDenylist m s
  | .loadDenylistCommit m => Sys2Proof.Machine.execLoadDenylistCommit m s
  | .bindMask m => Sys2Proof.Machine.execBindMask m s
  | .bindMaskCommit m => Sys2Proof.Machine.execBindMaskCommit m s
  | .queryAdapter m => Sys2Proof.Machine.execQueryAdapter m s
  | .setPlan m => Sys2Proof.Machine.execSetPlan m s
  | .planSwitch => Sys2Proof.Machine.execPlanSwitch s
  | .setPart m => Sys2Proof.Machine.execSetPart m s
  | .setTick m => Sys2Proof.Machine.execSetTick m s
  | .setLimits m => Sys2Proof.Machine.execSetLimits m s
  | .loadFw m => Sys2Proof.Machine.execLoadFw m s
  | .loadFwCommit m => Sys2Proof.Machine.execLoadFwCommit m s
  | .activateFw m => Sys2Proof.Machine.execActivateFw m s
  | .activateFwCommit m => Sys2Proof.Machine.execActivateFwCommit m s
  | .fwRevert => Sys2Proof.Machine.execFwRevert s
  | .routineFault m => Sys2Proof.Machine.execRoutineFault m s
  | .repairStatus m => Sys2Proof.Machine.execRepairStatus m s
  | .retireLane m => Sys2Proof.Machine.execRetireLane m s
  | .mirrorBind m => Sys2Proof.Machine.execMirrorBind m s
  | .lockstep m => Sys2Proof.Machine.execLockstep m s
  | .pmcSelect m => Sys2Proof.Machine.execPmcSelect m s
  | .pmcFreeze m => Sys2Proof.Machine.execPmcFreeze m s
  | .pmcThaw m => Sys2Proof.Machine.execPmcThaw m s
  | .histSelect m => Sys2Proof.Machine.execHistSelect m s
  | .histClear m => Sys2Proof.Machine.execHistClear m s
  | .replay m => Sys2Proof.Machine.execReplay m s
  | .debugUnlock m => Sys2Proof.Machine.execDebugUnlock m s
  | .halfExpiry => Sys2Proof.Machine.execHalfExpiry s
  | .debugFreeze m => Sys2Proof.Machine.execDebugFreeze m s
  | .debugStep m => Sys2Proof.Machine.execDebugStep m s
  | .debugHalt atEnd => Sys2Proof.Machine.execDebugHalt atEnd s
  | .debugRelease m => Sys2Proof.Machine.execDebugRelease m s
  | .repair => Sys2Proof.Machine.execRepair s
  | .imageRestore imageOk => Sys2Proof.Machine.execImageRestore imageOk s
  | .registerWrite off data => Sys2Proof.Machine.execRegisterWrite off data s
  | .refusedAccess write off width data path => Sys2Proof.Machine.execRefusedAccess write off width data path s
  | .readLo at_ => Sys2Proof.Machine.execReadLo at_ s
  | .entryLatchRead at_ => Sys2Proof.Machine.execEntryLatchRead at_ s
  | .run val => Sys2Proof.Machine.execRun val s
  | .reset val => Sys2Proof.Machine.execReset val s
  | .mergecfgWrite val => Sys2Proof.Machine.execMergecfgWrite val s
  | .parkConfigWrite off val => Sys2Proof.Machine.execParkConfigWrite off val s
  | .consWrite desc val => Sys2Proof.Machine.execConsWrite desc val s
  | .irqUnmask val => Sys2Proof.Machine.execIrqUnmask val s
  | .limitWrite off val => Sys2Proof.Machine.execLimitWrite off val s
  | .dbgAcc entry bad => Sys2Proof.Machine.execDbgAcc entry bad s
  | .dbgPeek addr ecc => Sys2Proof.Machine.execDbgPeek addr ecc s
  | .snapshotPublish => Sys2Proof.Machine.execSnapshotPublish s
  | .pmcOverflow counter by_ => Sys2Proof.Machine.execPmcOverflow counter by_ s
  | .histSat engine bin by_ => Sys2Proof.Machine.execHistSat engine bin by_ s
  | .resetRelease => Sys2Proof.Machine.execResetRelease s
  | .alignment training => Sys2Proof.Machine.execAlignment training s
  | .bootVerify imageA imageB => Sys2Proof.Machine.execBootVerify imageA imageB s
  | .ready => Sys2Proof.Machine.execReady s
  | .railLoss standby => Sys2Proof.Machine.execRailLoss standby s
  | .powerWindow milliwatt tj => Sys2Proof.Machine.execPowerWindow milliwatt tj s
  | .clkHalved thermal power tj => Sys2Proof.Machine.execClkHalved thermal power tj s
  | .thermWarn tj => Sys2Proof.Machine.execThermWarn tj s
  | .thermalTrip tj => Sys2Proof.Machine.execThermalTrip tj s
  | .coldBoot => Sys2Proof.Machine.execColdBoot s
  | .meterWatchdog => Sys2Proof.Machine.execMeterWatchdog s
  | .meterBoot => Sys2Proof.Machine.execMeterBoot s
  | .beat beat parityOk => Sys2Proof.Machine.execBeat beat parityOk s
  | .beatTake upset => Sys2Proof.Machine.execBeatTake upset s
  | .scheduledStatement => Sys2Proof.Machine.execScheduledStatement s
  | .meterScrub upsets => Sys2Proof.Machine.execMeterScrub upsets s
  | .statement args => Sys2Proof.Machine.execStatement args s
  | .readreg args => Sys2Proof.Machine.execReadreg args s
  | .clralert args => Sys2Proof.Machine.execClralert args s
  | .loadbegin args => Sys2Proof.Machine.execLoadbegin args s
  | .loaddata args => Sys2Proof.Machine.execLoaddata args s
  | .loadend args => Sys2Proof.Machine.execLoadend args s
  | .activate args => Sys2Proof.Machine.execActivate args s
  | .setcfg args => Sys2Proof.Machine.execSetcfg args s
  | .privateRead => Sys2Proof.Machine.execPrivateRead s
  | .entdaa addr => Sys2Proof.Machine.execEntdaa addr s
  | .setdasa addr => Sys2Proof.Machine.execSetdasa addr s
  | .setnewda addr => Sys2Proof.Machine.execSetnewda addr s
  | .rstdaa => Sys2Proof.Machine.execRstdaa s
  | .enec mask => Sys2Proof.Machine.execEnec mask s
  | .disec mask => Sys2Proof.Machine.execDisec mask s
  | .getpid => Sys2Proof.Machine.execGetpid s
  | .getbcr => Sys2Proof.Machine.execGetbcr s
  | .getdcr => Sys2Proof.Machine.execGetdcr s
  | .getstatus => Sys2Proof.Machine.execGetstatus s
  | .getmrl => Sys2Proof.Machine.execGetmrl s
  | .getmwl => Sys2Proof.Machine.execGetmwl s
  | .stuckLow sda => Sys2Proof.Machine.execStuckLow sda s
  | .lineRecovery sda => Sys2Proof.Machine.execLineRecovery sda s
  | .openProbe sclOpen sdaOpen => Sys2Proof.Machine.execOpenProbe sclOpen sdaOpen s
  | .swapped inUse => Sys2Proof.Machine.execSwapped inUse s
  | .shorted => Sys2Proof.Machine.execShorted s
  | .alertStuck stuck => Sys2Proof.Machine.execAlertStuck stuck s
  | .invalidPulse width low => Sys2Proof.Machine.execInvalidPulse width low s
  | .linkTraining port trained => Sys2Proof.Machine.execLinkTraining port trained s
  | .channelUnavailable => Sys2Proof.Machine.execChannelUnavailable s
  | .ackInterval port => Sys2Proof.Machine.execAckInterval port s
  | .fwImageVerified m => Sys2Proof.Machine.execFwImageVerified m s
  | .unsupportedCcc code => Sys2Proof.Machine.execUnsupportedCcc code s
  | .badcmd code => Sys2Proof.Machine.execBadcmd code s
  | .linesDiffer => Sys2Proof.Machine.execLinesDiffer s

end Sys2Proof.Machine
end

