-- ==== Sys2Proof/Safety.lean ====
section
/-!
DEFINITION. What counts as a safe step and a well-kept state, and the frames of the statements: the unit with the parts that a
kind of command may touch blanked out. Two units with the same frame differ in those parts at most.
-/
namespace Sys2Proof.Machine

/-- The command completes: it answers a next state. -/
def Completes (c : Instr) (s : State) : Prop := ∃ t, exec c s = .next t

/-- The byte memories of the unit are in canonical form. -/
def Chip.memWf (c : Chip) : Bool :=
  canonical c.psram && canonical c.lagoon && canonical c.scratch && canonical c.adpMem

/-- The registers that logging an event can change: UNIT_LATECNT, UNIT_IRQSTAT, UNIT_LOGOVW, UNIT_LOGLOST. -/
def eventReg (o : Nat) : Bool := o = 0x040 || o = 0x128 || o = 0x190 || o = 0x194

/-- A table written out in the rising order of its keys: two tables that read alike at every key come out the same. -/
def tidy (m : SMap Word) : SMap Word := m.foldr (fun e a => tset a e.1 e.2) []

/-- The registers of the unit control page without those. -/
def quiet (m : SMap Word) : SMap Word := tidy (m.filter fun e => !eventReg e.1)

/-- An interrupt message. -/
def OutMsg.isMsix : OutMsg → Bool
  | .msix _ => true
  | _ => false

/-- Everything but what logging an event and raising an interrupt can change: four registers, the counters, the event log, the
interrupt messages that have left, and what hardware has set in this cycle. -/
def Chip.calm (c : Chip) : Chip :=
  { c with ureg := quiet c.ureg, pmc := default, log := default, cyc := default, out := c.out.filter fun m => !m.isMsix }

/-- Everything but what a lane or tile word may change beside a memory: the lane registers, the sequencers and the registers of
the atolls, and what events change. -/
def Chip.noStreams (c : Chip) : Chip := { c.calm with lane := [], atoll := [], areg := [] }

/-- Everything but what a lane word may change. -/
def Chip.noLanes (c : Chip) : Chip := { c.noStreams with scratch := [], lagoon := [] }

/-- Everything but what the end of the command of mailbox m may change. -/
def Chip.offMbx (c : Chip) (m : Nat) : Chip := { c.calm with mbx := tdel c.mbx m, staging := tdel c.staging m }

/-- The scratchpad bytes, or the lagoon bytes, that element i of a destination operand of a lane takes (R292). -/
def Chip.elemAt (c : Chip) (g : Nat) (o : Opnd) (i : Nat) (lagoon : Bool) (k : Nat) : Prop :=
  match o with
  | .desc n =>
    let d := c.dsc g n
    let base := if lagoon then lagKey (g / 256) (d.addr i).toNat else padKey g (d.addr i).toNat
    (lagoon = true ↔ d.space ≠ 0) ∧ base ≤ k ∧ k < base + elemBytes d.etype
  | _ => False

/-- The unit as the window takes a command up: the step's duties are done (R249, R260, R335, R339), and what the command's reads meet is
settled (R381). -/
def Chip.windowOf (c : Chip) (m : Mbx) : Chip := ((c.takeUp).clearHalf m).reads (c.mb m).ecc

/-- The command in mailbox m has this code, and the window applies it now: its APPLY verdict is there, no earlier doorbell waits, the
unit serves it, and no routine holds it back (R50, R326, R328, R334, R385, R386). -/
def Chip.cmdRuns (c : Chip) (m : Mbx) (code : Nat) : Prop :=
  c.passed m = true ∧ (c.mb m).code = code ∧ c.ahead m = false ∧ (c.mb m).refuse = none ∧ (c.stopped = false ∨ worksStopped code = true)
    ∧ (code = 0x0100 ∨ ∀ q, namedRequest code (c.mb m).target = some q → ((c.windowOf m).ax q).quarantined = false)
    ∧ (c.windowOf m).blocked m code (c.mb m).target = false

/-- The load or routine that mailbox m holds has this code and commits now: in the command window and before its commands, its copy done,
and no fault found in what it staged (R331, R333, R335). -/
def Chip.commits (c : Chip) (m : Mbx) (code : Nat) (r : Routine) : Prop :=
  (c.mb m).routine = some r ∧ r.code.toNat = code ∧ c.tick.cnt ≠ r.tick ∧ r.left = 0 ∧ c.runs = true
    ∧ c.inWindow = true ∧ c.stp.applied = false ∧ r.failed ≠ some 0x0050

/-- The unit as a command finds it: the step's duties are done (R249, R260), and the command is counted (R424). -/
def Chip.entered (c : Chip) (m : Mbx) : Chip :=
  ((c.windowOf m).modMbx m fun b => { b with queued := false, ecc := [] }).event 0x040

/-- A mailbox has ended its command `b` with a status, a CLAMPED flag and data; statuses below 0x0010 end in DONE (R322, R326, R330). -/
def Chip.ended (c : Chip) (m : Nat) (b : Mailbox) (status : Half) (clamped : Bool) (data : List Byte) : Prop :=
  (c.mb m).state = (if status.toNat < 16 then .done else .error) ∧ (c.mb m).routine = none ∧ (c.mb m).due = false
    ∧ (c.mb m).resp = wrBytes [] 0 (respBytes b status (b2n clamped) data) ∧ (c.mb m).stored = (c.mb m).resp

/-- What the meter keeps at all times: its FIFO and high-water mark (R358, R371), a legal FIFOHI (R377), no counting before boot has
completed (R359), no slot open for writing while it runs (R366). -/
def Meter.inv (m : Meter) : Prop :=
  m.fifo.length ≤ m.high ∧ m.high ≤ 8192 ∧ 1 ≤ m.cfg.fifoHi.toNat ∧ m.cfg.fifoHi.toNat ≤ 8192
  ∧ (m.powered = false → m.booted = false) ∧ (m.booted = false → m.counting = false ∧ m.loading = none)
  ∧ ∀ one, m.loading = some one → m.loaderOnly = true ∨ m.slot ≠ one

/-- Each audit entry, in either copy, stands in the place of its seal number, which is no later than the counter (R364). -/
def Meter.auditWf (m : Meter) : Prop :=
  ∀ x ∈ [m.audit, m.restB.audit], ∀ k,
    tget x k = default ∨ ((tget x k).sealNo.toNat % 256 = k ∧ (tget x k).sealNo.toNat ≤ m.sealcnt.toNat)

end Sys2Proof.Machine

namespace Sys2Proof

/-- A lane word whose reads meet no bad word and whose strait transfers arrive sound (R380, R381). -/
abbrev LaneF.sound (f : LaneF) : Prop := f.ecc = [] ∧ f.strait = []

/-- A command that acts on the meter section: the standby rail, the watchdog, its boot, beats, what its engine does by itself, its
target and its pins. -/
def Instr.meterOwn : Instr → Bool
  | .coldBoot | .railLoss _ | .meterWatchdog | .meterBoot | .beat _ _ | .beatTake _ | .scheduledStatement | .meterScrub _
  | .statement _ | .readreg _ | .clralert _ | .loadbegin _ | .loaddata _ | .loadend _ | .activate _ | .setcfg _ | .badcmd _
  | .privateRead | .entdaa _ | .setdasa _ | .setnewda _ | .rstdaa | .enec _ | .disec _ | .getpid | .getbcr | .getdcr | .getstatus
  | .getmrl | .getmwl | .unsupportedCcc _ | .stuckLow _ | .lineRecovery _ | .openProbe _ _ | .swapped _ | .shorted | .linesDiffer
  | .alertStuck _ => true
  | _ => false

/-- A command that carries errors met in the meter's SRAM (R354). -/
def Instr.upsets : Instr → Bool
  | .meterScrub us => !us.isEmpty
  | .beatTake u => u != .clean
  | _ => false

end Sys2Proof
end

