-- ==== Sys2Proof/Certificates/Slice0/Obligations.lean ====
section
/-!
DEFINITION. The statements for the provers.
-/

open Sys2Proof Sys2Proof.Machine

namespace Sys2Proof.Machine

/-! ### Forms that several statements share -/

/-- A lane word of opcode `op` whose turn has come and whose reserved fields are 0 completes: from what its turn leaves (`laneTurn`: what
it and its reads of bad words change, see LaneTurnPart), in the lanes of its atoll in which its predicate outcome is 1 the registers
become `h`, every other lane register of the unit stays, the stream goes on to its next word, and nothing else changes but sequencers,
atoll registers and what events change. -/
def LaneWord (op : Nat) (i : Atoll → LaneF → Instr) (h : Lane → LaneF → Lane) : Prop :=
  ∀ (a : Atoll) (f : LaneF) (s : State), s.unit.laneReady a = true → laneReserved op f = false →
    let v := s.unit.laneTurn a f
    ∃ u : Chip, exec (i a f) s = .next { s with unit := u.laneNext a }
      ∧ u = { v with lane := u.lane }
      ∧ (∀ g, u.ln g = if g / 256 = a.val ∧ (v.ln g).outcome f = true then h (v.ln g) f else v.ln g)
      ∧ (u.laneNext a).noStreams = v.noStreams

/-- The same for a word without a predicate: every lane of the atoll. -/
def LaneWordAll (op : Nat) (i : Atoll → LaneF → Instr) (h : Chip → Lane → LaneF → Atoll → Lane) : Prop :=
  ∀ (a : Atoll) (f : LaneF) (s : State), s.unit.laneReady a = true → laneReserved op f = false →
    let v := s.unit.laneTurn a f
    ∃ u : Chip, exec (i a f) s = .next { s with unit := u.laneNext a }
      ∧ u = { v with lane := u.lane }
      ∧ (∀ g, u.ln g = if g / 256 = a.val then h v (v.ln g) f a else v.ln g)
      ∧ (u.laneNext a).noStreams = v.noStreams

/-- D ← op(A, B) on the scalar registers of a lane. -/
def onScalars (op : Word → Word → Word) (x : Lane) (f : LaneF) : Lane := x.setS f.d (op (x.getS f.a) (x.getS f.b))

/-- Predicate D ← a bit; P0 is never written (R299). -/
def onPred (bit : Lane → LaneF → Bool) (x : Lane) (f : LaneF) : Lane := x.setPred (opndNum (opnd f.d)) (bit x f)

/-- A vector word of opcode `op` (R293 to R298): where each use `us` of an operand is consistent in every lane, each element of the
destination becomes `val` in the lanes in which the word writes, and the stream goes on; nothing else changes but sequencers, lane
registers, scratchpads, lagoons, atoll registers and what events change. Else the word is skipped with cause 2. -/
def VecWord (op : Nat) (i : Atoll → LaneF → Instr) (us : Chip → LaneF → Nat → List Use) (val : Chip → LaneF → Nat → Nat → Nat) : Prop :=
  ∀ (a : Atoll) (f : LaneF) (s : State), s.unit.laneReady a = true → laneReserved op f = false →
    let v := s.unit.laneTurn a f
    let n := fun g => v.countOf g (opnd f.d)
    (v.firstBad a n (us v f) = none →
      ∃ u : Chip, exec (i a f) s = .next { s with unit := u } ∧ u.noLanes = v.noLanes
        ∧ u = (v.writeAll a f (opnd f.d) n (val v f)).laneNext a)
    ∧ ∀ d, v.firstBad a n (us v f) = some d →
      exec (i a f) s = .next { s with unit := (v.skipped a false 2 d (laneWord op f)).laneNext a }

/-- Uses of an FP32 vector word: D written, A and B read, one element broadcast. -/
def fpUses (_ : Chip) (f : LaneF) (_ : Nat) : List Use :=
  [⟨opnd f.d, [0], true, false⟩, ⟨opnd f.a, [0], false, true⟩, ⟨opnd f.b, [0], false, true⟩]

/-- Uses of VMOV, VCMP, VSEL, VFILL, VBIT and CHK (R293 to R297). Which types a scalar source admits: log entry 46. That VMOV may write the
piece-spill region: log entry 104. -/
def movUses (c : Chip) (f : LaneF) (g : Nat) : List Use :=
  [c.movDest g f (if (opnd f.a).isScal then [0, 1, 2, 3, 4, 5, 6] else List.range 8),
   ⟨opnd f.a, convertible (c.dstType g f), false, true⟩]
def cmpUses (c : Chip) (f : LaneF) (g : Nat) : List Use :=
  [⟨opnd f.d, [4], true, false⟩, ⟨opnd f.a, [0, 4, 5, 6], false, true⟩,
   ⟨opnd f.b, if (opnd f.a).isScal then [0, 4, 5, 6] else [c.cmpType g f], false, true⟩]
def selUses (c : Chip) (f : LaneF) (g : Nat) : List Use :=
  [⟨opnd f.d, if (opnd f.a).isScal || (opnd f.b).isScal then [0, 6] else List.range 8, true, false⟩,
   ⟨opnd f.a, [c.dstType g f], false, true⟩, ⟨opnd f.b, [c.dstType g f], false, true⟩,
   ⟨.desc (fld f.mod.toNat 5 0), [4], false, true⟩]
def fillUses (_ : Chip) (f : LaneF) (_ : Nat) : List Use := [⟨opnd f.d, [0, 4, 6], true, false⟩]
def bitUses (c : Chip) (f : LaneF) (g : Nat) : List Use :=
  [⟨opnd f.d, [4, 6], true, false⟩, ⟨opnd f.a, [c.dstType g f], false, true⟩, ⟨opnd f.b, [c.dstType g f], false, true⟩]
def chkUses (_ : Chip) (f : LaneF) (_ : Nat) : List Use :=
  [⟨opnd f.d, [4], true, false⟩, ⟨opnd f.a, [0], false, true⟩, ⟨opnd f.b, [0], false, true⟩,
   ⟨.desc (fld f.mod.toNat 5 0), [4], false, true⟩]

/-- op(A, B), and op(A), on FP32 elements. -/
def fpTwo (op : Word → Word → Word) (c : Chip) (f : LaneF) (g i : Nat) : Nat :=
  (op (c.readFp g (opnd f.a) i) (c.readFp g (opnd f.b) i)).toNat
def fpOne (op : Word → Word) (c : Chip) (f : LaneF) (g i : Nat) : Nat := (op (c.readFp g (opnd f.a) i)).toNat

/-- One entry after `n` tiles of a SCORE, of which `from_` have been issued before: before each tile a spill where one is due, then the tile sum is added (R91 to
R95): the exact dot product of the row's input with the column's weights, read with the upsets that are left after the tile's compare
(R88, R89). -/
def scoreCell (c : Chip) (p : Plan) (f : ScoreF) (a wave r l from_ done : Nat) (tiles : List TileData) (us : List TileUpset) (x : AccCell) :
    Nat → AccCell
  | 0 => x
  | n + 1 =>
    let y := scoreCell c p f a wave r l from_ done tiles us x n
    let w := p.cfg f.draft
    let k := done + n
    let i := from_ + n
    let y := if 0 < cfgSpill w ∧ 0 < k ∧ k % cfgSpill w = 0 then y.spill (intFmt f.wfmt) else y
    let t := tiles.getD i default
    let pad := decide (p.n ≤ p.column f.block (p.wide f.piece f.group) l)
    let left := (c.compare p a wave f (f.start + i) t (us.filter fun u => u.tile = i)).2
    y.addTile (intFmt f.wfmt) (if f.round then some (dither p.seed (p.tileIndex f (f.start + i)) l) else none)
      (readSum (intFmt f.wfmt) left r (some l)
        (tileSum f.wfmt (cfgAfmt w) (p.hdim f.draft) ((f.start + i) * ktOf f.wfmt) (c.slotData wave r)
          (if pad then [] else t.codes.getD l []) (if pad then [] else t.scales.getD l [])))

/-- A lane word that writes one element for every row slot of a wave, from the row in the slot and the column that the lane conditions
(R128, R137, R145, R297); a slot without a row gives 0 (log entry 50). `pages`: the pages of another atoll that it reads, one event each
(log entry 72). -/
def RowWord (op : Nat) (etype : LaneF → Nat) (i : Atoll → Nat → LaneF → Instr) (val : Chip → LaneF → Row → ColAt → Nat)
    (pages : Chip → Row → ColAt → Nat := fun _ _ _ => 0) : Prop :=
  ∀ (a : Atoll) (wave : Nat) (f : LaneF) (s : State) (p : Plan),
    s.unit.laneReady a = true → laneReserved op f = false → (s.unit.laneTurn a f).plan.cur = some p →
    let v := let c := s.unit.laneTurn a f; c.peerReads a wave f (pages c)
    let n := fun (_ : Nat) => (v.waveShape wave).1
    let us := fun (_ : Nat) => [(⟨opnd f.d, [etype f], true, false⟩ : Use)]
    (v.firstBad a n us = none →
      ∃ u : Chip, exec (i a wave f) s = .next { s with unit := u } ∧ u.noLanes = v.noLanes
        ∧ u = (v.writeAll a f (opnd f.d) n fun g r => match v.rowAt wave r with
            | none => 0
            | some x => val v f x ⟨p, v.blockNow p a wave, ((v.ln g).getS f.a).toNat, g % 256⟩).laneNext a)
    ∧ ∀ d, v.firstBad a n us = some d →
      exec (i a wave f) s = .next { s with unit := (v.skipped a false 2 d (laneWord op f)).laneNext a }

/-- Two entries of the step's row table are the same row. -/
def sameRow (r x : Row) : Bool := decide (x.req = r.req ∧ x.kind = r.kind ∧ x.offset = r.offset)

/-- A word that acts on shared hardware runs: its turn has come, its fields are in order, and every lane agrees (R300). -/
def Chip.sharedRuns (c : Chip) (a op : Nat) (f : LaneF) : Prop :=
  c.laneReady a = true ∧ laneReserved op f = false ∧ ((c.laneTurn a f).writers a f).length = 256

/-- A command that ends where it is applied: where `on` holds it answers, and the rest of the unit is what `eff` makes of it. -/
def Ends (i : Mbx → Instr) (code : Nat) (on : Chip → Mbx → Mailbox → Prop) (status : Half)
    (data : Chip → Mbx → Mailbox → List Byte) (eff : Chip → Mbx → Mailbox → Chip) : Prop :=
  ∀ (m : Mbx) (s : State), s.unit.cmdRuns m code →
    let c := s.unit.entered m
    on c m (c.mb m) → ∃ t, exec (i m) s = .next t ∧ t.unit.ended m (c.mb m) status false (data c m (c.mb m))
      ∧ t.unit.offMbx m = (eff c m (c.mb m)).offMbx m ∧ t.meter = s.meter ∧ t.pending = s.pending

/-- A command that becomes a load or routine: its mailbox stays ACCEPTED and holds it (R318, R333). -/
def Begins (i : Mbx → Instr) (code : Nat) (on : Chip → Mbx → Mailbox → Prop) (r : Chip → Mailbox → Routine)
    (staged : Chip → Mbx → Mailbox → List Byte) (eff : Chip → Mbx → Mailbox → Chip) : Prop :=
  ∀ (m : Mbx) (s : State), s.unit.cmdRuns m code →
    let c := s.unit.entered m
    on c m (c.mb m) → ∃ t, exec (i m) s = .next t
      ∧ t.unit.mb m = { c.mb m with routine := some (r c (c.mb m)), due := false, apply := false, refuse := none, ecc := [] }
      ∧ tget t.unit.staging m.val = staged c m (c.mb m)
      ∧ t.unit.offMbx m = (eff c m (c.mb m)).offMbx m ∧ t.meter = s.meter ∧ t.pending = s.pending

/-- A load or routine that commits, after the duties of the step (R260), and ends. -/
def Commits (i : Mbx → Instr) (code : Nat) (on : Chip → Mbx → Mailbox → Routine → Prop) (status : Half)
    (data : Chip → Mbx → Mailbox → Routine → List Byte) (eff : Chip → Mbx → Mailbox → Routine → Chip) : Prop :=
  ∀ (m : Mbx) (r : Routine) (s : State), s.unit.commits m code r →
    let c := s.unit.duties
    let b := s.unit.mb m
    on c m b r → ∃ t, exec (i m) s = .next t ∧ t.unit.ended m (c.mb m) status false (data c m b r)
      ∧ t.unit.offMbx m = (eff c m b r).offMbx m ∧ t.meter = s.meter ∧ t.pending = s.pending

/-- What a command that allocates the pages of a count list finds: the pages or none, and the unit after the attempt (R141). -/
def Chip.countAlloc (c : Chip) (b : Mailbox) : Option (List (Nat × Nat × Nat)) × Chip :=
  let d := c.liftHold b.target [.rowFault, .noCandidate, .countOvf]
  match c.plan.cur with
  | none => (none, d)
  | some p => Chip.allocAll .count (d.missingPages p b.target (d.countList (b.pay 0 8) (b.pay 8 4))) d []

/-- What the commit of a count list finds once its pages are entered: the pages that it still needs or none, and the unit after the
attempt (R141). -/
def Chip.countMore (c : Chip) (p : Plan) (b : Mailbox) (r : Routine) : Option (List (Nat × Nat × Nat)) × Chip :=
  let held := r.pages.foldl (Chip.enterPage b.target) c
  Chip.allocAll .count (held.missingPages p b.target (c.countList (b.pay 0 8) (b.pay 8 4))) held []

/-- The mailbox commands with their codes. -/
def mbxCommands : List (Nat × (Mbx → Instr)) :=
  [(0x0000, .mbxNop), (0x0001, .getVersion), (0x0002, .getCaps), (0x0100, .openReq), (0x0101, .setParams), (0x0102, .closeReq),
   (0x0103, .cancel), (0x0104, .park), (0x0105, .resume), (0x0106, .adopt), (0x0107, .loadCounts), (0x0108, .resetCounts),
   (0x0200, .setTenant), (0x0201, .setBudget), (0x0300, .loadAdapter), (0x0301, .loadDelta), (0x0302, .loadTrie),
   (0x0303, .loadDenylist), (0x0304, .bindMask), (0x0305, .queryAdapter)] ++
  [(0x0400, .setPlan), (0x0401, .setPart), (0x0402, .setTick), (0x0403, .setLimits), (0x0500, .loadFw), (0x0501, .activateFw),
   (0x0600, .repairStatus), (0x0601, .retireLane), (0x0602, .mirrorBind), (0x0603, .lockstep), (0x0700, .pmcSelect),
   (0x0701, .pmcFreeze), (0x0702, .pmcThaw), (0x0703, .histSelect), (0x0704, .histClear), (0x0800, .replay), (0x0F00, .debugUnlock),
   (0x0F01, .debugFreeze), (0x0F02, .debugStep), (0x0F03, .debugRelease)]

end Sys2Proof.Machine

/-! ### The block -/

/-- A step runs the command at the front of the queue on the state with the rest of the queue. The model's choices: log entry 1. -/
def Obligations.StepRunsFront : Prop :=
  ∀ (c : Instr) (rest : List Instr) (s : State), step { s with pending := c :: rest } = exec c { s with pending := rest }

/-! ### Lane words (R290 to R308) -/

/-- Scalar words (R297). -/
def Sys2Proof.Machine.LaneScalarPart : Prop :=
  LaneWord 0x11 .smov (fun x f => x.setS f.d (x.getS f.a))
  ∧ LaneWord 0x12 .sadd (onScalars fun a b => a + b) ∧ LaneWord 0x13 .ssub (onScalars fun a b => a - b)
  ∧ LaneWord 0x14 .smul (onScalars fun a b => a * b) ∧ LaneWord 0x15 .sand (onScalars fun a b => a &&& b)
  ∧ LaneWord 0x16 .sor (onScalars fun a b => a ||| b) ∧ LaneWord 0x17 .sxor (onScalars fun a b => a ^^^ b)
  ∧ LaneWord 0x18 .sshl (onScalars fun a b => a <<< (b.toNat % 32)) ∧ LaneWord 0x19 .sshr (onScalars fun a b => a >>> (b.toNat % 32))
  ∧ LaneWord 0x1A .sfadd (onScalars fadd) ∧ LaneWord 0x1B .sfmul (onScalars fmul) ∧ LaneWord 0x1C .sfdiv (onScalars fdiv)

/-- Predicate words (R297 to R299). -/
def Sys2Proof.Machine.LanePredicatePart : Prop :=
  LaneWord 0x28 .pcmp (onPred fun x f =>
    if f.mod.getLsbD 3 then cmpFp (fld f.mod.toNat 2 0) (x.getS f.a) (x.getS f.b)
    else cmpInt (fld f.mod.toNat 2 0) (x.getS f.a).toInt (x.getS f.b).toInt)
  ∧ LaneWord 0x2A .plog (onPred fun x f =>
    logicBool (fld f.mod.toNat 1 0) (x.pred (opndNum (opnd f.a))) (x.pred (opndNum (opnd f.b))))
  ∧ ∀ (a : Atoll) (wave : Nat) (f : LaneF) (s : State), s.unit.laneReady a = true → laneReserved 0x29 f = false →
    let v := s.unit.laneTurn a f
    ∃ u : Chip, exec (.prow a wave f) s = .next { s with unit := u.laneNext a }
      ∧ u = { v with lane := u.lane }
      ∧ (∀ g, u.ln g = if g / 256 = a.val ∧ (v.ln g).outcome f = true
          then (v.ln g).setPred (opndNum (opnd f.d)) (v.rowLive wave ((v.ln g).getS f.a).toNat) else v.ln g)
      ∧ (u.laneNext a).noStreams = v.noStreams

/-- SLI and DLD have no predicate: every lane of the atoll is written (R297, R299). -/
def Sys2Proof.Machine.LaneImmediatePart : Prop :=
  LaneWordAll 0x10 .sli (fun _ x f _ => x.setS f.d f.mod)
  ∧ LaneWordAll 0x20 .dld (fun c x f a =>
    x.setD (opndNum (opnd f.d)) (tget c.bank (bankKey a c.bankSel (256 + fld f.mod.toNat 7 0))))

/-- DADD adds in every lane in which it writes; where the result leaves the 23 bits of BASE in any lane the word is skipped with
cause 2 and no lane register changes but a loop index (R293, R302). -/
def Sys2Proof.Machine.LaneDescriptorPart : Prop :=
  ∀ (a : Atoll) (f : LaneF) (s : State), s.unit.laneReady a = true → laneReserved 0x21 f = false →
    let v := s.unit.laneTurn a f
    ((∀ g, g / 256 = a.val → 0 ≤ (v.ln g).newBase f ∧ (v.ln g).newBase f < 8388608) →
      ∃ u : Chip, exec (.dadd a f) s = .next { s with unit := u.laneNext a }
        ∧ u = { v with lane := u.lane }
        ∧ (∀ g, u.ln g = if g / 256 = a.val ∧ (v.ln g).outcome f = true
            then (v.ln g).setD (opndNum (opnd f.d)) (BitVec.ofNat 64
              ((tget (v.ln g).d (opndNum (opnd f.d))).toNat / 2 ^ 23 * 2 ^ 23 + ((v.ln g).newBase f).toNat))
            else v.ln g)
        ∧ (u.laneNext a).noStreams = v.noStreams)
    ∧ ((∃ g, g / 256 = a.val ∧ ((v.ln g).newBase f < 0 ∨ 8388608 ≤ (v.ln g).newBase f)) →
      exec (.dadd a f) s = .next { s with
        unit := (v.skipped a false 2 (opndNum (opnd f.d)) (laneWord 0x21 f)).laneNext a })

/-- A lane word's turn (R297, R380, R381): its wait is over and it is counted; where it meets no bad word and no bad transfer nothing else
changes; bad words that are corrected are counted; the rows that a bad strait transfer carried are dropped. -/
def Sys2Proof.Machine.LaneTurnPart : Prop :=
  ∀ (c : Chip) (a : Nat) (f : LaneF),
    (f.sound → (c.laneTurn a f).noStreams = c.noStreams ∧ (c.laneTurn a f).lane = c.lane
      ∧ (c.laneTurn a f).atl a = { c.atl a with laneWait := .none } ∧ ∀ b, b ≠ a → (c.laneTurn a f).atl b = c.atl b)
    ∧ c.laneTurn a f = ((c.laneTurn a { f with ecc := [], strait := [] }).reads f.ecc).straits f.strait
    ∧ (f.strait = [] → f.ecc ≠ [] → (∀ x ∈ f.ecc, x.bad = false) → (c.laneTurn a f).calm =
        ((c.laneTurn a { f with ecc := [] }).setReg 0x16C (sat32 (c.reg 0x16C) f.ecc.length)).calm)
    ∧ ∀ x : StraitFind, let d := c.straitFound x
      d.stp.active = true → d.stp.committed = false → ∀ r ∈ d.stp.rows, (r.wave, r.slot) ∈ x.rows → r.faultDrop = true

/-- Where a lane stream goes after a word: to the next word; at the end of the innermost loop with trips left, back to its first
word with the trip counted and its index register set in every lane of the atoll; at the end of a loop without trips left, as if
that loop were not there; at the end of the bank, whatever loops are open and once its wait is over, the stream ends its phase and cause
4 is recorded (R285, R286, R301). -/
def Sys2Proof.Machine.LaneStreamNextPart : Prop :=
  ∀ (c : Chip) (a : Nat),
    ((∀ x ∈ (c.atl a).loops.head?, (c.atl a).lanePc + 1 ≠ x.start + x.len) → (c.atl a).lanePc + 1 < 8192 →
      c.laneNext a = c.modAtl a fun x => { x with lanePc := x.lanePc + 1 })
    ∧ (∀ x r, (c.atl a).loops = x :: r → (c.atl a).lanePc + 1 = x.start + x.len → x.left ≠ 0 → x.start < 8192 →
      (∀ s, x.idx = some s → ∀ g, (c.laneNext a).ln g =
        if g / 256 = a then { c.ln g with s := tset (c.ln g).s s (BitVec.ofNat 32 (x.iter + 1)) } else c.ln g)
      ∧ (x.idx = none → (c.laneNext a).lane = c.lane)
      ∧ (c.laneNext a).atl a = { c.atl a with
          lanePc := x.start, loops := { x with left := x.left - 1, iter := x.iter + 1 } :: r })
    ∧ (∀ x r, (c.atl a).loops = x :: r → (c.atl a).lanePc + 1 = x.start + x.len → x.left = 0 →
      c.laneNext a = (c.modAtl a fun y => { y with loops := r }).laneNext a)
    ∧ ((∀ x ∈ (c.atl a).loops.head?, (c.atl a).lanePc + 1 ≠ x.start + x.len) → 8192 ≤ (c.atl a).lanePc + 1 →
      c.laneNext a = (c.modAtl a fun x => { x with lanePc := x.lanePc + 1 }).laneRange a)
    ∧ ((c.atl a).laneRuns = true → 8192 ≤ (c.atl a).lanePc → (c.atl a).laneWait.over c.clk.ucyc = true →
      c.laneRange a = (c.skipped a false 4 0 0).endLane a)
    ∧ ((c.atl a).laneRuns = false ∨ (c.atl a).lanePc < 8192 ∨ (c.atl a).laneWait.over c.clk.ucyc = false → c.laneRange a = c)

/-- The tile stream goes to the next word; at the end of the bank, once its wait is over, it ends its phase and cause 4 is recorded (R286). -/
def Sys2Proof.Machine.TileStreamNextPart : Prop :=
  ∀ (c : Chip) (a : Nat),
    ((c.atl a).tilePc + 1 < 8192 → c.tileNext a = c.modAtl a fun x => { x with tilePc := x.tilePc + 1, scoreAt := 0 })
    ∧ (8192 ≤ (c.atl a).tilePc + 1 →
      c.tileNext a = (c.modAtl a fun x => { x with tilePc := x.tilePc + 1, scoreAt := 0 }).tileRange a)
    ∧ ((c.atl a).tileRuns = true → 8192 ≤ (c.atl a).tilePc → (c.atl a).tileWait.over c.clk.ucyc = true →
      c.tileRange a = (c.skipped a true 4 0 0).endTile a)
    ∧ ((c.atl a).tileRuns = false ∨ (c.atl a).tilePc < 8192 ∨ (c.atl a).tileWait.over c.clk.ucyc = false → c.tileRange a = c)
    ∧ (c.tileNext a).noStreams = c.noStreams ∧ (c.tileNext a).lane = c.lane

/-- Where the two streams of an atoll go after a word, and what ends them at the end of their bank (R286): PC_RANGE is recorded, and
the stream ends as if it had met END or HALT. What the record of PC_RANGE holds, and that a wait comes first: log entry 74. -/
def Obligations.StreamsGoOn : Prop := LaneStreamNextPart ∧ TileStreamNextPart

/-- Lane words that steer their stream (R297, R301, R312). -/
def Sys2Proof.Machine.LaneControlPart : Prop :=
  ∀ (a : Atoll) (f : LaneF) (s : State), s.unit.laneReady a = true →
    let v := s.unit.laneTurn a f
    (laneReserved 0x00 f = false → exec (.laneNop a f) s = .next { s with unit := v.laneNext a })
    ∧ (laneReserved 0x01 f = false → ∃ t, exec (.halt a f) s = .next t ∧ t.unit.noStreams = v.noStreams
      ∧ t.unit.lane = v.lane ∧ (t.unit.atl a).loops = []
      ∧ (v.stp.fenced ≤ (v.atl a).lanePhase → (t.unit.atl a).laneRuns = false))
    ∧ (laneReserved 0x03 f = false → exec (.waitc a f) s = .next { s with
        unit := (v.modAtl a fun x => { x with laneWait := .castling, left := true }).laneNext a })
    ∧ (laneReserved 0x04 f = false → exec (.waitf a f) s = .next { s with
        unit := (v.modAtl a fun x =>
          if v.fenceAt (fld f.mod.toNat 3 0) false ≤ v.clk.ucyc then x
          else { x with laneWait := .untilUclk (v.fenceAt (fld f.mod.toNat 3 0) false) }).laneNext a })
    ∧ (laneReserved 0x05 f = false → exec (.waitm a f) s = .next { s with
        unit := (v.modAtl a fun x =>
          if v.fenceAt (fld f.mod.toNat 3 0) true ≤ v.clk.ucyc then x
          else { x with laneWait := .untilUclk (v.fenceAt (fld f.mod.toNat 3 0) true) }).laneNext a })

/-- LOOP pushes a frame of its LEN words and COUNT further trips and clears its index register; a fifth level, or a body that
passes the end of the body around it, is skipped with cause 6 (R301, R302). -/
def Sys2Proof.Machine.LaneLoopPart : Prop :=
  ∀ (a : Atoll) (f : LaneF) (s : State), s.unit.laneReady a = true → laneReserved 0x02 f = false →
    let v := s.unit.laneTurn a f
    ((v.atl a).loops.length < 4 →
      (∀ x ∈ (v.atl a).loops.head?, (v.atl a).lanePc + 1 + fld f.mod.toNat 27 16 ≤ x.start + x.len) →
      ∃ u : Chip, exec (.loop a f) s = .next { s with unit := u.laneRange a } ∧ u.noStreams = v.noStreams
        ∧ (u.atl a).lanePc = (v.atl a).lanePc + 1
        ∧ (∃ i, (u.atl a).loops =
              (⟨(v.atl a).lanePc + 1, fld f.mod.toNat 27 16, fld f.mod.toNat 15 0, i, 0⟩ : LoopFrame) :: (v.atl a).loops
            ∧ (∀ n, opnd f.d = .scal n → i = some n ∧ ∀ g, u.ln g =
                if g / 256 = a.val then { v.ln g with s := tset (v.ln g).s n 0 } else v.ln g)
            ∧ (opnd f.d = .none → i = none ∧ u.lane = v.lane)))
    ∧ ((4 ≤ (v.atl a).loops.length
        ∨ ∃ x ∈ (v.atl a).loops.head?, x.start + x.len < (v.atl a).lanePc + 1 + fld f.mod.toNat 27 16) →
      exec (.loop a f) s = .next { s with unit := (v.skipped a false 6 0 (laneWord 0x02 f)).laneNext a })

/-- LOOP nests to a depth of 4; one that would be the fifth, or whose body passes the end of the body around it, is skipped with cause
LOOP, and its body runs once as straight-line code (R301). -/
def Obligations.LoopRules : Prop := LaneLoopPart

/-- The scalar, predicate and immediate words of a lane, DADD, and the words that steer the lane stream (R283 to R301). -/
def Obligations.LaneWordResults : Prop := LaneTurnPart ∧ LaneScalarPart ∧ LanePredicatePart ∧ LaneImmediatePart ∧ LaneDescriptorPart ∧ LaneControlPart

/-- A lane word with a reserved field that is not 0 is skipped in every lane with cause 1, whatever its opcode; a word with an
undefined opcode is skipped with cause 0 (R290, R302). -/
def Obligations.LaneSkipsReserved : Prop :=
  (∀ p ∈ ([(0x00, .laneNop), (0x01, .halt), (0x02, .loop), (0x03, .waitc), (0x04, .waitf), (0x05, .waitm), (0x10, .sli), (0x11, .smov),
      (0x12, .sadd), (0x13, .ssub), (0x14, .smul), (0x15, .sand), (0x16, .sor), (0x17, .sxor), (0x18, .sshl), (0x19, .sshr),
      (0x1A, .sfadd), (0x1B, .sfmul), (0x1C, .sfdiv), (0x1D, .sld), (0x1E, .sst), (0x20, .dld), (0x21, .dadd), (0x28, .pcmp),
      (0x2A, .plog)] ++ [(0x40, .vmov), (0x41, .vadd), (0x42, .vsub), (0x43, .vmul), (0x44, .vfma), (0x45, .vmax), (0x46, .vmin),
      (0x47, .vdiv), (0x48, .vexp), (0x49, .vlog), (0x4A, .vcmp), (0x4B, .vsel), (0x4C, .vfill), (0x4D, .vbit)] :
      List (Nat × (Atoll → LaneF → Instr))),
    ∀ (a : Atoll) (f : LaneF) (s : State), s.unit.laneReady a = true → laneReserved p.1 f = true →
      exec (p.2 a f) s = .next { s with unit := ((s.unit.laneTurn a f).skipped a false 1 0 (laneWord p.1 f)).laneNext a })
  ∧ (∀ (fs : List ArrayFault) (k : SelFault) (ws : List Half) (u : Word) (v : BitVec 2),
    ∀ p ∈ ([(0x29, .prow), (0x58, fun a w f => .final a w f fs), (0x59, .norm), (0x5A, .chk), (0x5B, fun a w f => .rowdone a w f k),
      (0x60, .cntld), (0x61, .mskld), (0x62, .biasld), (0x63, .prmld), (0x64, .delld), (0x68, fun a w f => .rsck a w f ws),
      (0x69, fun a w f => .draw a w f u), (0x6A, fun a w f => .resolve a w f v)] : List (Nat × (Atoll → Nat → LaneF → Instr))),
    ∀ (a : Atoll) (wave : Nat) (f : LaneF) (s : State), s.unit.laneReady a = true → laneReserved p.1 f = true →
      exec (p.2 a wave f) s = .next { s with unit := ((s.unit.laneTurn a f).skipped a false 1 0 (laneWord p.1 f)).laneNext a })
  ∧ ∀ (a : Atoll) (op : Byte) (f : LaneF) (s : State), s.unit.laneReady a = true → opDefined op.toNat = false →
      exec (.insnUndef a op f) s = .next { s with
        unit := ((s.unit.laneTurn a f).skipped a false 0 0 (laneWord op.toNat f)).laneNext a }

/-- What a skip records: ATL_ILLCNT counts it with saturation, ATL_IBANK.ILLEGAL is set, ATL_ILLINFO and ATL_ILLWORD describe it, and
the word counts as recorded for the step; nothing else of the atoll changes, no other atoll's registers or sequencers, no lane register
and no memory (R302, R304). -/
def Obligations.SkipRecorded : Prop :=
  ∀ (c : Chip) (a : Nat) (tile : Bool) (cause desc : Nat) (w : DWord),
    (c.skipped a tile cause desc w).atlReg (c.physOf a) 0x6C = sat32 (c.atlReg (c.physOf a) 0x6C) 1
    ∧ (c.skipped a tile cause desc w).atlReg (c.physOf a) 0x64 = c.atlReg (c.physOf a) 0x64 ||| 1#32
    ∧ (c.skipped a tile cause desc w).atlReg (c.physOf a) 0x70 = BitVec.ofNat 32 (b2n tile * 2 ^ 31 + b2n c.bankSel * 2 ^ 30
        + cause * 2 ^ 27 + desc * 2 ^ 21 + (if tile then (c.atl a).tilePc else (c.atl a).lanePc) % 8192)
    ∧ (c.skipped a tile cause desc w).atlReg (c.physOf a) 0x74 = w.setWidth 32
    ∧ (c.skipped a tile cause desc w).atlReg (c.physOf a) 0x78 = (w >>> 32).setWidth 32
    ∧ (∀ p o, p ≠ c.physOf a ∨ o ∉ [0x64, 0x6C, 0x70, 0x74, 0x78] → p < 17 → o < 0x10000 →
      (c.skipped a tile cause desc w).atlReg p o = c.atlReg p o)
    ∧ (∃ k, (c.skipped a tile cause desc w).atl a = { c.atl a with skipLogged := k })
    ∧ (∀ b, b ≠ a → (c.skipped a tile cause desc w).atl b = c.atl b)
    ∧ (c.skipped a tile cause desc w).lane = c.lane
    ∧ (c.skipped a tile cause desc w).noStreams = c.noStreams

/-- SLD reads element MOD[10:0] of A in every lane in which it writes, the upper word of a W64 element with HI (HI on an element of another
type is inconsistent: log entry 46); an inconsistent operand or an index at or above COUNT in any lane skips the word with cause 2 (R297, R302). -/
def Sys2Proof.Machine.LaneLoadPart : Prop :=
  ∀ (a : Atoll) (f : LaneF) (s : State), s.unit.laneReady a = true → laneReserved 0x1D f = false →
    let v := s.unit.laneTurn a f
    let i := fld f.mod.toNat 10 0
    let use : Use := ⟨opnd f.a, if f.mod.toNat.testBit 11 then [7] else List.range 8, false, true⟩
    (v.firstBad a (fun g => v.countOf g (opnd f.a)) (fun _ => [use]) = none → v.indexBad a (opnd f.a) i = false →
      ∃ u : Chip, exec (.sld a f) s = .next { s with unit := u.laneNext a }
        ∧ u = { v with lane := u.lane }
        ∧ (∀ g, u.ln g = if g / 256 = a.val ∧ (v.ln g).outcome f = true
            then (v.ln g).setS f.d (BitVec.ofNat 32 (if f.mod.toNat.testBit 11 then v.readEl g (opnd f.a) i / 2 ^ 32
              else v.readEl g (opnd f.a) i)) else v.ln g)
        ∧ (u.laneNext a).noStreams = v.noStreams)
    ∧ (∀ d, v.firstBad a (fun g => v.countOf g (opnd f.a)) (fun _ => [use]) = some d →
      exec (.sld a f) s = .next { s with unit := (v.skipped a false 2 d (laneWord 0x1D f)).laneNext a })
    ∧ (v.firstBad a (fun g => v.countOf g (opnd f.a)) (fun _ => [use]) = none → v.indexBad a (opnd f.a) i = true →
      exec (.sld a f) s = .next { s with
        unit := (v.skipped a false 2 (descIdx (opnd f.a)) (laneWord 0x1D f)).laneNext a })

/-- SST stores scalar A to element MOD[10:0] of D, an FP32 or W32 element, in every lane in which it writes: a byte outside those
elements stays, whether in a scratchpad or in a lagoon; an inconsistent D or an index at or above COUNT in any lane skips the word with
cause 2 (R294, R297, R302). -/
def Sys2Proof.Machine.LaneStorePart : Prop :=
  ∀ (a : Atoll) (f : LaneF) (s : State), s.unit.laneReady a = true → laneReserved 0x1E f = false →
    let v := s.unit.laneTurn a f
    let i := fld f.mod.toNat 10 0
    let use : Use := ⟨opnd f.d, [0, 6], true, true⟩
    (v.firstBad a (fun g => v.countOf g (opnd f.d)) (fun _ => [use]) = none → v.indexBad a (opnd f.d) i = false →
      exec (.sst a f) s = .next { s with unit := ((v.writers a f).foldl
          (fun x g => x.writeEl g (opnd f.d) i ((v.ln g).getS f.a).toNat) v).laneNext a }
      ∧ ∀ t, exec (.sst a f) s = .next t →
        (∀ k, (∀ g ∈ v.writers a f, ¬ v.elemAt g (opnd f.d) i false k) → tget t.unit.scratch k = tget v.scratch k)
        ∧ (∀ k, (∀ g ∈ v.writers a f, ¬ v.elemAt g (opnd f.d) i true k) → tget t.unit.lagoon k = tget v.lagoon k)
        ∧ t.unit.psram = v.psram ∧ t.unit.acc = v.acc ∧ t.unit.req = v.req ∧ t.meter = s.meter)
    ∧ (∀ d, v.firstBad a (fun g => v.countOf g (opnd f.d)) (fun _ => [use]) = some d →
      exec (.sst a f) s = .next { s with unit := (v.skipped a false 2 d (laneWord 0x1E f)).laneNext a })
    ∧ (v.firstBad a (fun g => v.countOf g (opnd f.d)) (fun _ => [use]) = none → v.indexBad a (opnd f.d) i = true →
      exec (.sst a f) s = .next { s with
        unit := (v.skipped a false 2 (descIdx (opnd f.d)) (laneWord 0x1E f)).laneNext a })

/-- SLD and SST. -/
def Obligations.LaneMemoryResults : Prop := LaneLoadPart ∧ LaneStorePart

/-- Writing a destination in every lane of an atoll in which a word writes (R294): elements of a vector register take their values
exactly; a byte outside every written element stays; an element that no later write overlaps reads back: lanes land in ascending
order, so the value of the highest lane remains. -/
def Obligations.ElementWrites : Prop :=
  ∀ (c : Chip) (a : Nat) (f : LaneF) (n : Nat → Nat) (val : Nat → Nat → Nat),
    (∀ v, (∀ g, n g = 8) → ∀ g i, i < 8 → tget ((c.writeAll a f (.vec v) n val).ln g).v (8 * v + i) =
      if g / 256 = a ∧ (c.ln g).outcome f = true then BitVec.ofNat 32 (val g i) else tget (c.ln g).v (8 * v + i))
    ∧ ∀ o, (∀ k, (∀ g ∈ c.writers a f, ∀ i, i < n g → ¬ c.elemAt g o i false k) →
        tget (c.writeAll a f o n val).scratch k = tget c.scratch k)
      ∧ (∀ k, (∀ g ∈ c.writers a f, ∀ i, i < n g → ¬ c.elemAt g o i true k) →
        tget (c.writeAll a f o n val).lagoon k = tget c.lagoon k)
      ∧ (∀ d g i, o = .desc d → g ∈ c.writers a f → i < n g → (c.dsc g d).space = 0 →
        (∀ g' ∈ c.writers a f, ∀ j, j < n g' → (g < g' ∨ g' = g ∧ i < j) → ∀ k, c.elemAt g o i false k → ¬ c.elemAt g' o j false k) →
        rdLE (c.writeAll a f o n val).scratch (padKey g ((c.dsc g d).addr i).toNat) (elemBytes (c.dsc g d).etype)
          = val g i % 256 ^ elemBytes (c.dsc g d).etype)
      ∧ (∀ d g i, o = .desc d → g ∈ c.writers a f → i < n g → (c.dsc g d).space ≠ 0 →
        (∀ g' ∈ c.writers a f, ∀ j, j < n g' → (g < g' ∨ g' = g ∧ i < j) → ∀ k, c.elemAt g o i true k → ¬ c.elemAt g' o j true k) →
        rdLE (c.writeAll a f o n val).lagoon (lagKey (g / 256) ((c.dsc g d).addr i).toNat) (elemBytes (c.dsc g d).etype)
          = val g i % 256 ^ elemBytes (c.dsc g d).etype)

/-- Vector words (R297, R298): arithmetic on FP32, VMOV with conversion, VCMP to 1 or 0, VSEL by a mask element that is not 0, VFILL
with scalar A, VBIT on the bits of U8 or W32 elements. Which element types a scalar source admits, and the skip of the others: log entry
46. -/
def Obligations.VectorResults : Prop :=
  VecWord 0x41 .vadd fpUses (fpTwo fadd) ∧ VecWord 0x42 .vsub fpUses (fpTwo fsub) ∧ VecWord 0x43 .vmul fpUses (fpTwo fmul)
  ∧ VecWord 0x45 .vmax fpUses (fpTwo fmax) ∧ VecWord 0x46 .vmin fpUses (fpTwo fmin) ∧ VecWord 0x47 .vdiv fpUses (fpTwo fdiv)
  ∧ VecWord 0x48 .vexp fpUses (fpOne fexp) ∧ VecWord 0x49 .vlog fpUses (fpOne flog)
  ∧ VecWord 0x44 .vfma fpUses (fun c f g i =>
      (ffma (c.readFp g (opnd f.a) i) (c.readFp g (opnd f.b) i) (c.readFp g (opnd f.d) i)).toNat)
  ∧ VecWord 0x40 .vmov
      movUses
      (fun c f g i => (convert ((c.etypeOf g (opnd f.a)).getD 0) (c.dstType g f) (c.readEl g (opnd f.a) i)).getD 0)
  ∧ VecWord 0x4A .vcmp
      cmpUses
      (fun c f g i => b2n (if c.cmpType g f = 0
        then cmpFp (fld f.mod.toNat 2 0) (c.readFp g (opnd f.a) i) (c.readFp g (opnd f.b) i)
        else cmpInt (fld f.mod.toNat 2 0) (c.readEl g (opnd f.a) i) (c.readEl g (opnd f.b) i)))
  ∧ VecWord 0x4B .vsel
      selUses
      (fun c f g i => c.readEl g (if c.readEl g (.desc (fld f.mod.toNat 5 0)) i ≠ 0 then opnd f.a else opnd f.b) i)
  ∧ VecWord 0x4C .vfill fillUses (fun c f g _ => c.readEl g (opnd f.a) 0)
  ∧ VecWord 0x4D .vbit
      bitUses
      (fun c f g i => (logicBits (fld f.mod.toNat 1 0) (BitVec.ofNat 64 (c.readEl g (opnd f.a) i))
        (BitVec.ofNat 64 (c.readEl g (opnd f.b) i))).toNat)

/-! ### Tile commands (R285 to R289, R303) -/

/-- Tile words that steer their stream: NOP goes on, END ends the phase, WAITF waits for the input fence of a phase unless it has
come; a word with a reserved field or an undefined TOP is skipped, with cause 1 or 0 (R285, R288, R303). -/
def Sys2Proof.Machine.TileControlPart : Prop :=
  ∀ (a : Atoll) (w : TileWord) (s : State), s.unit.tileReady a = true →
    let c := s.unit.tileTurn a w.ecc
    let n := w.word.toNat
    let top := fld n 63 60
    (top = 0xE → tileReserved n = false → exec (.tileNop a w) s = .next { s with unit := c.tileNext a })
    ∧ (top = 0xF → tileReserved n = false → ∃ t, exec (.tileEnd a w) s = .next t ∧ t.unit.noStreams = c.noStreams
      ∧ t.unit.lane = c.lane ∧ (c.stp.fenced ≤ (c.atl a).tilePhase → (t.unit.atl a).tileRuns = false))
    ∧ (top = 0x2 → tileReserved n = false → exec (.tileWaitf a w) s = .next { s with
        unit := (c.modAtl a fun x =>
          if c.fenceAt (fld n 3 0) false ≤ c.clk.ucyc then x
          else { x with tileWait := .untilUclk (c.fenceAt (fld n 3 0) false) }).tileNext a })
    ∧ (∀ p ∈ ([(0xE, .tileNop), (0xF, .tileEnd), (0x2, .tileWaitf)] : List (Nat × (Atoll → TileWord → Instr))), top = p.1 →
      tileReserved n = true → exec (p.2 a w) s = .next { s with unit := (c.skipped a true 1 0 w.word).tileNext a })
    ∧ (top ∉ [1, 2, 14, 15] → exec (.tcmdBad a w) s = .next { s with unit := (c.skipped a true 0 0 w.word).tileNext a })
    ∧ (w.ecc = [] → c = s.unit.modAtl a fun x => { x with tileWait := .none })

/-- The words of a tile stream that compute nothing: NOP, END, WAITF, and the words that are skipped. -/
def Obligations.TileWordResults : Prop := TileControlPart

/-- SCORE (R288, R289, R303, R447). A consistent command completes: of its tiles those that have not been issued before a halt are, in
ascending chunk order and no more than a running DEBUG_STEP still asks for; every entry of the atoll's active set below the wave's W then
holds what these make of it; the first tile of a column group starts from 0. Entries of other atolls and of the other set stay. Where
DEBUG_STEP has left tiles, the stream stays at the word (log entry 27). A command with a reserved field is skipped with cause 1 and an
inconsistent one with cause 3; either castles if it carries CASTLE. -/
def Sys2Proof.Machine.ScorePart : Prop :=
  ∀ (a : Atoll) (wave : Nat) (w : DWord) (tiles : List TileData) (fd : ScoreFinds) (s : State),
    s.unit.tileReady a = true → fld w.toNat 63 60 = 1 →
    let c := s.unit.tileTurn a fd.ecc
    let f := scoreF w.toNat
    let x := c.atl a
    let skip := fun (cause : Nat) => let d := c.skipped a true cause 0 w; ((if f.castle then d.castlePoint a else d).tileNext a : Chip)
    let rest := f.count - x.scoreAt
    let m := if c.dbg.stepping = true ∧ c.dbg.stepAtoll = a.val then min (max 1 c.dbg.stepGoal) rest else rest
    (s.unit.stepDone a = true → exec (.score a wave w tiles fd) s = .next s)
    ∧ (s.unit.stepDone a = false → tileReserved w.toNat = true → exec (.score a wave w tiles fd) s = .next { s with unit := skip 1 })
    ∧ (s.unit.stepDone a = false → tileReserved w.toNat = false → (∀ p, c.plan.cur = some p → c.scoreBad p a f = true) →
      exec (.score a wave w tiles fd) s = .next { s with unit := skip 3 })
    ∧ ∀ p, s.unit.stepDone a = false → c.stepDone a = false → tileReserved w.toNat = false → c.plan.cur = some p → c.scoreBad p a f = false →
      (p.shape f.shape).1 ≤ 128 →
      let again := x.active.tiles ≠ 0 ∧ x.active.wave = wave ∧ x.active.draft = f.draft ∧ x.active.piece = f.piece
        ∧ x.active.block = f.block ∧ x.active.group = f.group
      ∃ t, exec (.score a wave w tiles fd) s = .next t
        ∧ (∀ l r, l < 256 → r < (p.shape f.shape).1 → t.unit.cell (256 * a.val + l) x.activeSet r =
            { scoreCell c p f a wave r l x.scoreAt (if again then x.active.tiles else 0) tiles fd.upsets
                (if again then c.cell (256 * a.val + l) x.activeSet r else default) m with nf := false, sat := false })
        ∧ (∀ g set r, r < 128 → g / 256 ≠ a.val ∨ set ≠ x.activeSet → t.unit.cell g set r = c.cell g set r)
        ∧ (m < rest → (t.unit.atl a).tilePc = x.tilePc ∧ (t.unit.atl a).scoreAt = x.scoreAt + m)
        ∧ t.unit.scratch = c.scratch ∧ t.unit.lagoon = c.lagoon ∧ t.unit.psram = c.psram ∧ t.unit.lane = c.lane
        ∧ (fd.faults = [] → t.unit.req = c.req) ∧ t.meter = s.meter

/-- The compare of a tile (R88, R89): where no slot's checksum differs nothing is logged; where one does, the mismatch is counted and the
tile is computed again; where it differs again the repeat is counted too, the atoll is suspect, and the wave's rows are
fault-dropped. A slot without an upset never differs, and one with a sum that is not finite is not compared. -/
def Sys2Proof.Machine.ComparePart : Prop :=
  ∀ (c : Chip) (p : Plan) (a wave : Nat) (f : ScoreF) (chunk : Nat) (t : TileData) (us : List TileUpset),
    let d := c.compare p a wave f chunk t us
    let ph := c.physOf a
    (us = [] → d = (c, []))
    ∧ (∀ r, c.tileFails p wave f chunk t us = some r → (∃ u ∈ us, u.slot = r) ∧ r < (p.shape f.shape).1
      ∧ (∀ l, l < 256 → (c.sumRead p wave r f chunk t us l).finite = true))
    ∧ (c.tileFails p wave f chunk t us = none → d = (c, us))
    ∧ (∀ r, c.tileFails p wave f chunk t us = some r → d.2 = us.filter (fun u => u.again)
      ∧ d.1.atlReg ph 0x0C &&& 4#32 = 4#32
      ∧ (c.tileFails p wave f chunk t (us.filter fun u => u.again) = none →
        d.1.atlReg ph 0x14 = sat32 (c.atlReg ph 0x14) 1 ∧ d.1.atlReg ph 0x18 = c.atlReg ph 0x18 ∧ d.1.stp = c.stp ∧ d.1.rpr = c.rpr)
      ∧ (c.tileFails p wave f chunk t (us.filter fun u => u.again) ≠ none →
        d.1.atlReg ph 0x18 = sat32 (c.atlReg ph 0x18) 1 ∧ d.1.atlReg ph 0x0C &&& 8#32 = 8#32 ∧ ph ∈ d.1.rpr.suspect
        ∧ (c.stp.active = true → c.stp.committed = false → ∀ x ∈ d.1.stp.rows, x.wave = wave → x.faultDrop = true)))
    ∧ d.1.req = c.req ∧ d.1.acc = c.acc ∧ d.1.wide = c.wide ∧ d.1.scratch = c.scratch ∧ d.1.lagoon = c.lagoon

/-- SCORE, and the compare of its tiles. The model's choices: log entries 10 and 89. -/
def Obligations.ScoreResult : Prop := ScorePart ∧ ComparePart

/-! ### Lane words that work on the rows of a wave (R104, R109, R120 to R123, R128, R137, R145, R186, R219, R300) -/

/-- CNTLD, MSKLD, BIASLD and PRMLD deliver what a row is conditioned with: the count of the column with the drafts below the row, at
most 255; whether it is masked; the adapter's bias; a parameter field of the row. -/
def Sys2Proof.Machine.RowLoadPart : Prop :=
  RowWord 0x60 (fun _ => 4) .cntld (fun c _ r x => if x.pad then 0
    else min 255 (c.countAt x.block r.req.toNat x.q x.lane + ((c.draftsBelow r).filter fun t => t = x.token).length))
    (fun c r x => b2n (c.countPage x.block r.req.toNat x.q).isSome)
  ∧ RowWord 0x61 (fun _ => 4) .mskld (fun c _ r x => b2n (c.maskedCol r x)) Chip.maskPages
  ∧ RowWord 0x62 (fun _ => 0) .biasld (fun c _ r x =>
    if (c.rq r.req.toNat).adapterV = true ∧ x.pad = false then (c.biasOf (c.rq r.req.toNat).adapter.toNat x.token).toNat else 0)
  ∧ RowWord 0x63 (fun f => if fld f.mod.toNat 2 0 < 4 then 0 else 4) .prmld
      (fun c f r _ => [(c.pm r.req.toNat).temp.toNat, (c.pm r.req.toNat).rep.toNat, (c.pm r.req.toNat).presence.toNat,
        (c.pm r.req.toNat).frequency.toNat, b2n (c.rq r.req.toNat).adapterV, b2n (c.deltaBound r),
        b2n (flt 0#32 (c.pm r.req.toNat).temp)].getD (fld f.mod.toNat 2 0) 0)

/-- DELLD delivers the triplets of each row's delta set, DMAX slots of a group in chunks of 2,048; a set with a triplet whose K is not
below H logs DELTA_RANGE once per plan; a chunk that DMAX does not reach is skipped with cause 2 (R130, R133, R134). -/
def Sys2Proof.Machine.DeltaLoadPart : Prop :=
  ∀ (a : Atoll) (wave : Nat) (f : LaneF) (s : State) (p : Plan),
    s.unit.laneReady a = true → laneReserved 0x64 f = false → (s.unit.laneTurn a f).plan.cur = some p →
    let v := s.unit.laneTurn a f
    let n := min (p.dmax - 2048 * fld f.mod.toNat 0 0) 2048
    let us := fun (_ : Nat) => [(⟨opnd f.d, [7], true, false⟩ : Use)]
    (n ≠ 0 → v.firstBad a (fun _ => n) us = none →
      ∃ u : Chip, exec (.delld a wave f) s = .next { s with unit := (v.deltaOvers p a wave f).foldl Chip.deltaRange u }
        ∧ u.noLanes = v.noLanes
        ∧ u = (v.writeAll a f (opnd f.d) (fun _ => n) fun g i =>
          match v.deltaOf wave ((v.ln g).getS f.b).toNat with
          | none => 0
          | some d => v.deltaSlot p d (v.blockNow p a wave) ((v.ln g).getS f.a).toNat (g % 256)
              (2048 * fld f.mod.toNat 0 0 + i)).laneNext a)
    ∧ (n ≠ 0 → ∀ d, v.firstBad a (fun _ => n) us = some d →
      exec (.delld a wave f) s = .next { s with unit := (v.skipped a false 2 d (laneWord 0x64 f)).laneNext a })
    ∧ (n = 0 → exec (.delld a wave f) s = .next { s with
        unit := (v.skipped a false 2 (descIdx (opnd f.d)) (laneWord 0x64 f)).laneNext a })

/-- The words that load per-row and delta data. The model's choices: log entries 50 (0 for a slot without a row) and 72 (one peer page
read counted per page that exists). -/
def Obligations.RowLoadWords : Prop := RowLoadPart ∧ DeltaLoadPart

/-- NORM joins each row slot's value into the lane's running pair, and CHK ORs in whether it is faulty (R104, R121); in a bound
lock-step pair NORM first carries the wave signature on over the values (R409); one that is inconsistent is skipped with cause 2. -/
def Sys2Proof.Machine.PairAndFaultPart : Prop :=
  (∀ (a : Atoll) (wave : Nat) (f : LaneF) (s : State), s.unit.laneReady a = true → laneReserved 0x59 f = false →
    let v := s.unit.laneTurn a f
    let n := fun (_ : Nat) => (v.waveShape wave).1
    let us := fun (_ : Nat) => [(⟨opnd f.d, [7], true, false⟩ : Use), ⟨opnd f.a, [0], false, true⟩]
    (v.firstBad a n us = none →
      let c := v.signWave a wave f
      ∃ u : Chip, exec (.norm a wave f) s = .next { s with unit := u } ∧ u.noLanes = v.noLanes
        ∧ u = (c.writeAll a f (opnd f.d) n fun g r =>
            pairNat (pairStep (pairOf (v.readEl g (opnd f.d) r)) (v.readFp g (opnd f.a) r))).laneNext a
        ∧ (v.lock.bound = false → c = v))
    ∧ ∀ d, v.firstBad a n us = some d →
      exec (.norm a wave f) s = .next { s with unit := (v.skipped a false 2 d (laneWord 0x59 f)).laneNext a })
  ∧ ∀ wave, VecWord 0x5A (fun a f => .chk a wave f)
      chkUses
      (fun c f g r => Nat.lor (c.readEl g (opnd f.d) r) (b2n (faultyCol (c.readFp g (opnd f.a) r) (c.readFp g (opnd f.b) r)
        (c.readEl g (.desc (fld f.mod.toNat 5 0)) r ≠ 0))))

/-- FINAL writes, in the lanes in which it writes and for every row slot, the logit of the column from the atoll's shadow set, or the
value delivered for a head scored elsewhere (R106); −inf in a pad column and in an atoll that is no first member of its split; one that is
inconsistent is skipped with cause 2. Of a head that is scored on the unit the set that has been read counts as drained, unless a castling
point waited for that, and its wide buffers are 0: the first member's own at once, another member's once both FINALs have run (R90, R91,
R100, R101, R103). The model's choices: log entries 49 (when a member's set is drained), 50 (−inf in members that are not first) and 51
(a castling point that waits). -/
def Sys2Proof.Machine.FinalPart : Prop :=
  ∀ (a : Atoll) (wave : Nat) (f : LaneF) (fs : List ArrayFault) (s : State),
    s.unit.laneReady a = true → laneReserved 0x58 f = false →
    let v := s.unit.laneTurn a f
    let w := (v.waveShape wave).1
    let us := fun (_ : Nat) => [(⟨opnd f.d, [0], true, false⟩ : Use)]
    (∀ d, v.firstBad a (fun _ => w) us = some d →
      exec (.final a wave f fs) s = .next { s with unit := (v.skipped a false 2 d (laneWord 0x58 f)).laneNext a })
    ∧ ∀ p, v.firstBad a (fun _ => w) us = none → v.plan.cur = some p →
      let q := ((v.ln (256 * a.val)).getS f.a).toNat
      let draft := (v.waveShape wave).2
      let first := 16 / cfgKsplit (p.cfg draft)
      let e := if p.scoreIn draft then v.epiGroup a wave q else v.modAtl a fun x => { x with left := true }
      let block := e.blockNow p a wave
      let d := e.beginUnit a w (wave, q / p.cpl, block)
      let val := fun (g r : Nat) =>
        if p.pad block ((v.ln g).getS f.a).toNat (g % 256) = true ∨ (p.scoreIn draft = false ∧ first ≤ a.val) then negInf
        else if p.scoreIn draft then v.scoreInAt p wave r (p.column block ((v.ln g).getS f.a).toNat (g % 256))
        else (v.finalAt p a (g % 256) wave r draft).1
      let x := d.writeAll a f (opnd f.d) (fun _ => w) fun g r => (val g r).toNat
      let done := fun (c : Chip) => ((v.atl a).tileWait ≠ .castling → (c.atl a).shadowFull = false)
        ∧ ∀ l r, l < 256 → r < 128 → (c.cell (256 * a.val + l) (!(v.atl a).activeSet) r).hi = 0#32
          ∧ (c.cell (256 * a.val + l) (!(v.atl a).activeSet) r).lo = 0#32
      ∃ u : Chip, exec (.final a wave f fs) s = .next { s with unit := u.laneNext a }
        ∧ u.lane = x.lane ∧ u.scratch = x.scratch ∧ u.lagoon = x.lagoon
        ∧ (u.atl a).spillUnit = some (wave, q / p.cpl, block)
        ∧ (p.scoreIn draft = true → u.acc = v.acc ∧ u.wide = v.wide ∧ (u.atl a).shadowFull = (v.atl a).shadowFull ∧ u.req = v.req)
        ∧ (p.scoreIn draft = false → block = (v.atl a).shadow.block
          ∧ (a.val < first ∨ (v.atl a).taken = true → done u)
          ∧ (first ≤ a.val → (v.atl a).taken = false → (u.atl a).given = true ∧ (u.atl a).shadowFull = (v.atl a).shadowFull)
          ∧ (fs = [] → u.req = v.req))
        ∧ u.psram = v.psram

/-- FINAL, and the words that keep a row's pair and fault flags. -/
def Obligations.FinalWords : Prop := PairAndFaultPart ∧ FinalPart

/-- Words that act on hardware shared by the lanes, where no lane writes or lanes disagree (R300). -/
def Obligations.SharedWordsAgree : Prop :=
  ∀ (check : SelFault) (weights : List Half) (upset : Word) (upset2 : BitVec 2),
    ∀ p ∈ ([(0x5B, fun a w f => .rowdone a w f check), (0x68, fun a w f => .rsck a w f weights),
      (0x69, fun a w f => .draw a w f upset), (0x6A, fun a w f => .resolve a w f upset2)] :
      List (Nat × (Atoll → Nat → LaneF → Instr))), ∀ (a : Atoll) (wave : Nat) (f : LaneF) (s : State), s.unit.laneReady a = true → laneReserved p.1 f = false →
      let v := s.unit.laneTurn a f
      ((v.writers a f).length = 0 → exec (p.2 a wave f) s = .next { s with unit := v.laneNext a })
      ∧ (0 < (v.writers a f).length → (v.writers a f).length < 256 → exec (p.2 a wave f) s = .next { s with
          unit := (v.skipped a false 5 0 (laneWord p.1 f)).laneNext a })

/-- The order of a list, its running masses and what a threshold chooses from it: the live columns by falling key, equal keys by
rising token (R167); CUM starts with the first mass and adds each next one, and the draw total is the last CUM (R180); the draw is the
first entry whose CUM exceeds the threshold, else the last one with a mass above 0 (R186). -/
def Obligations.SelectionAndDraw : Prop :=
  (∀ cols : List Col, (sortBy colBefore cols).Perm cols
    ∧ (sortBy colBefore cols).Pairwise fun a b => (keyOf b.x).toNat < (keyOf a.x).toNat ∨ keyOf a.x = keyOf b.x ∧ a.token ≤ b.token)
  ∧ (∀ l : List Cand, (withCum l).length = l.length
    ∧ (∀ i, i < l.length → { (withCum l).getD i default with cum := 0#32 } = { l.getD i default with cum := 0#32 })
    ∧ (l ≠ [] → ((withCum l).getD 0 default).cum = (l.getD 0 default).mass
      ∧ totalOf (withCum l) = ((withCum l).getD (l.length - 1) default).cum)
    ∧ ∀ i, i + 1 < l.length → ((withCum l).getD (i + 1) default).cum =
        fadd ((withCum l).getD i default).cum (l.getD (i + 1) default).mass)
  ∧ (∀ (l : List Cand) (parts : SMap (Option Word)), ∃ k : List Cand, k.length = l.length ∧ rescoreList l parts = withCum k)
  ∧ ∀ (l : List Cand) (thr : Word) (i : Nat), i < l.length →
    (flt thr (l.getD i default).cum = true → (∀ j, j < i → flt thr (l.getD j default).cum = false) → pick l thr = i)
    ∧ ((∀ j, j < l.length → flt thr (l.getD j default).cum = false) → flt 0#32 (l.getD i default).mass = true →
      (∀ j, i < j → j < l.length → flt 0#32 (l.getD j default).mass = false) → pick l thr = i)

/-- ROWDONE: an atoll hands its row over; with the last atoll of the class the row ends in ROW_FAULT where a value was non-finite or
a lane found a fault, in NO_CANDIDATE where no column is live, and else with its list: the first L columns of the selection order
(R123, R170, R178). -/
def Obligations.RowdoneResult : Prop :=
  ∀ (a : Atoll) (wave : Nat) (f : LaneF) (s : State) (p : Plan) (r : Row), s.unit.sharedRuns a 0x5B f →
    let v := s.unit.laneTurn a f
    v.liveRow wave (v.slotOf a f.a) = some r → v.plan.cur = some p → r.outcome = .pending → ¬ a.val ∈ r.handed →
    a.val ∈ classAtolls v.draftN (v.waveShape wave).2 →
    ∃ t, exec (.rowdone a wave f .ok) s = .next t
      ∧ ((∃ b ∈ classAtolls v.draftN (v.waveShape wave).2, b ≠ a.val ∧ ¬ b ∈ r.handed) →
        t.unit.stp.rows = v.stp.rows.map fun x => if sameRow r x then { x with handed := x.handed ++ [a.val] } else x)
      ∧ ((∀ b ∈ classAtolls v.draftN (v.waveShape wave).2, b = a.val ∨ b ∈ r.handed) →
        (v.rq r.req.toNat).merge = false →
        t.unit.scratch = v.scratch ∧ t.unit.lagoon = v.lagoon ∧ t.unit.req = v.req ∧
        ∀ x ∈ t.unit.stp.rows, sameRow r x = true →
          if r.nonfinite = true ∨ v.flagged r.wave r.slot = true then x.outcome = .fault
          else if (v.rowCols p r.wave r.slot).flatten = [] then x.outcome = .noCandidate
          else
            let m := (v.rowPair p r.wave r.slot).1
            let n := ((v.selParams r).listLen v.cap m (v.rowCols p r.wave r.slot)).1
            let l := gather n m (v.rowCols p r.wave r.slot).flatten
            x.outcome = .listed ∧ x.m = m ∧ (x.list = if min (v.selParams r).rescore n = 0 then withCum l else l)
              ∧ (r.kind = .draft → x.index = indexWords (if min (v.selParams r).rescore n = 0 then withCum l else l)))

/-- DRAW: with its second copy a row's draw stands where both computations agree, at once or after one recomputation: the entry that
the threshold chooses; where they differ twice the request's rows are fault-dropped (R186, R187). A greedy row has no draw: the word
does nothing for it (R171). -/
def Sys2Proof.Machine.DrawPart : Prop :=
  ∀ (a : Atoll) (wave : Nat) (f : LaneF) (mine other : Word) (s : State) (r : Row), s.unit.sharedRuns a 0x69 f →
    let v := s.unit.laneTurn a f
    v.liveRow wave (v.slotOf a f.a) = some r → r.kind ≠ .target → v.listDone r = true → r.list ≠ [] → r.drawn = none →
    let as := drawAtolls v.draftN (v.waveShape wave).2
    let u := uniform (v.rq r.req.toNat).seed r.pos (if r.kind = .draft then strDraft else strSample)
    let second := (a.val = as.1 ∧ r.drawB = some other) ∨ (a.val = as.2 ∧ a.val ≠ as.1 ∧ r.drawA = some other)
    (v.greedyRow r = true → exec (.draw a wave f mine) s = .next { s with unit := v.laneNext a })
    ∧ (v.greedyRow r = false →
      (a.val = as.1 ∧ r.drawB = none → ∃ t, exec (.draw a wave f mine) s = .next t
        ∧ t.unit.stp.rows = v.stp.rows.map fun x => if sameRow r x then { x with drawA := some mine } else x)
      ∧ (second → (mine = 0#32 ∧ other = 0#32)
          ∨ (mine >>> 16 = 0#32 ∧ other >>> 16 = 0#32 ∧ mine &&& 0xFFFF#32 ≠ other &&& 0xFFFF#32) →
        ∃ t, exec (.draw a wave f mine) s = .next t ∧ ∀ x ∈ t.unit.stp.rows, sameRow r x = true →
          x.drawn = some (pick r.list (thrOf r.list u)))
      ∧ (second → v.stp.active = true → v.stp.committed = false → r.faultDrop = false →
        (mine &&& 0xFFFF#32) ≠ (other &&& 0xFFFF#32) → mine >>> 16 ≠ other >>> 16 →
        ∃ t, exec (.draw a wave f mine) s = .next t ∧ ∀ x ∈ t.unit.stp.rows, x.req = r.req → x.faultDrop = true))

/-- RESOLVE: with its second copy and no error in both, the resolution stands with the tokens that R219 gives (R219 to R221). -/
def Sys2Proof.Machine.ResolvePart : Prop :=
  ∀ (a : Atoll) (wave : Nat) (f : LaneF) (s : State) (r : Row), s.unit.sharedRuns a 0x6A f →
    let v := s.unit.laneTurn a f
    ((v.rowAt wave (v.slotOf a f.a)).filter fun r => r.drop.isNone) = some r → r.kind = .target →
    let g := v.gambit r.req
    v.gambitReady g (g.len r.g) = true → (v.resolution r.req).final = none →
    let as := drawAtolls v.draftN (v.waveShape wave).2
    (a.val = as.1 ∧ (v.resolution r.req).copyB = some 0) ∨
      (a.val = as.2 ∧ a.val ≠ as.1 ∧ (v.resolution r.req).copyA = some 0) →
    ∃ t, exec (.resolve a wave f 0) s = .next t ∧ (t.unit.resolution r.req).final = some (g.resolve (g.len r.g) 0).1
      ∧ t.unit.reg 0x0A8 = sat32 (v.reg 0x0A8)
          (((g.resolve (g.len r.g) 0).1.filter fun t => t.accept).length + ((g.resolve (g.len r.g) 0).1.filter fun t => t.resample).length)
      ∧ t.unit.stp.rows = v.stp.rows ∧ t.unit.req = v.req

/-- RSCK: the atoll that R109 names gives a candidate its rescored, conditioned value; a faulty value ends the row in ROW_FAULT; with
the last candidate the list is sorted anew (R109, R110, R182). -/
def Sys2Proof.Machine.RescorePart : Prop :=
  ∀ (a : Atoll) (wave : Nat) (f : LaneF) (weights : List Half) (s : State) (p : Plan) (r : Row) (col : Nat),
    s.unit.sharedRuns a 0x68 f →
    let c := s.unit.laneTurn a f
    c.liveRow wave (c.slotOf a f.b) = some r → c.plan.cur = some p →
    r.outcome = .listed → r.rescored = false →
    let i := c.slotOf a f.a
    i < c.rescoreN r → i % 16 = a.val → tget r.parts i = none → p.colOf (r.list.getD i default).token.toNat = some col →
    let w := p.place col
    let v := c.cond r ⟨p, w.2.1, p.wide w.1 w.2.2.1, w.2.2.2⟩ (rescoreLogit weights (r.data.headD default).bf16 p.h0)
    ∃ t, exec (.rsck a wave f weights) s = .next t ∧ t.unit.scratch = c.scratch ∧ t.unit.lagoon = c.lagoon
      ∧ ∀ x ∈ t.unit.stp.rows, sameRow r x = true →
        if v.2 = true then x.outcome = .fault
        else x.parts = tset r.parts i (some v.1) ∧
          ((∀ k < c.rescoreN r, (tget (tset r.parts i (some v.1)) k).isSome = true) →
            x.rescored = true ∧ x.list = rescoreList r.list (tset r.parts i (some v.1)))

/-- DRAW, RESOLVE and RESCORE. -/
def Obligations.DrawWords : Prop := DrawPart ∧ ResolvePart ∧ RescorePart

/-! ### Mailboxes (R318 to R335) -/

/-- A doorbell (R319, R323, R324, R326): the header checks come in order; a command that passes becomes ACCEPTED with its sequence
number kept, and is due in a step that starts in the same cycle; the same number again gives the stored response; a busy mailbox only logs. -/
def Sys2Proof.Machine.DoorbellPart : Prop :=
  ∀ (m : Mbx) (s : State),
    let b := s.unit.mb m
    let b1 := { b with state := .posted, ringTime := s.unit.clk.ucyc, apply := false, refuse := none, ecc := [], due := false }
    (b.state ∈ [.idle, .done, .error] → s.unit.headerCheck m b1 = none → (b.seqValid = false ∨ 0 < (b.seq - b.seqLast).toNat ∧ (b.seq - b.seqLast).toNat < 32768) →
      exec (.ring m) s = .next { s with unit := { s.unit with mbx := tset s.unit.mbx m { b1 with
        state := .accepted, seqValid := true, seqLast := b.seq, due := s.unit.dueAtOnce b.code || s.unit.atStart } } })
    ∧ (∀ st, b.state ∈ [.idle, .done, .error] → (s.unit.headerCheck m b1 = some st ∨ (s.unit.headerCheck m b1 = none ∧ st = 0x0013
        ∧ b.seqValid = true ∧ 32768 ≤ (b.seq - b.seqLast).toNat)) → ∃ t, exec (.ring m) s = .next t ∧ (t.unit.mb m).state = .error
        ∧ (t.unit.mb m).resp = wrBytes [] 0 (respBytes b st 0 []) ∧ (t.unit.mb m).stored = b.stored ∧ (t.unit.mb m).seqLast = b.seqLast
        ∧ t.unit.offMbx m = s.unit.offMbx m)
    ∧ (b.state ∈ [.idle, .done, .error] → s.unit.headerCheck m b1 = none → b.seqValid = true → b.seq = b.seqLast →
      ∃ t, exec (.ring m) s = .next t ∧ (t.unit.mb m).state = (if b.endedDone then .done else .error)
        ∧ (t.unit.mb m).resp = tset b.stored 6 (tget b.stored 6 ||| 2#8) ∧ t.unit.offMbx m = s.unit.offMbx m)
    ∧ (b.state = .posted ∨ b.state = .accepted → ∃ t, exec (.ring m) s = .next t ∧ t.unit.calm = s.unit.calm)
    ∧ (b.state = .busyBoot → exec (.ring m) s = .next s)

/-- ACK returns a mailbox to IDLE from DONE and ERROR only (R319); a verdict stands with an accepted command that is due until the
command's turn comes, and one that comes after T+1,023 of the step counts as missing (R315, R326, R328); a status that R330 does not list is
no verdict. Controller cores that disagree lead to a restart instead (R380), and the verdict is not taken (log entry 14). -/
def Sys2Proof.Machine.AckAndVerdictsPart : Prop :=
  ∀ (m : Mbx) (s : State),
    let b := s.unit.mb m
    let late := s.unit.stp.active = true ∧ s.unit.dbg.frozen = false ∧ 1023 < s.unit.since ∧ b.answered = false
    let c := if late then { s.unit with stp := { s.unit.stp with missed := m.val :: s.unit.stp.missed } } else s.unit
    (∃ t, exec (.ack m) s = .next t ∧ (t.unit.mb m) =
      if b.state = .done ∨ b.state = .error then { b with state := .idle } else b)
    ∧ (b.state = .accepted → b.due = true → b.routine = none →
      (∀ ecc, ∃ t, exec (.verdictApply m ⟨false, ecc⟩) s = .next t ∧ t.unit.mb m = { b with apply := true, refuse := none, ecc := ecc }
        ∧ t.unit.offMbx m = c.offMbx m)
      ∧ (∀ st : Half, st.toNat ∈ refuseCodes → ∃ t, exec (.verdictRefuse m st) s = .next t
        ∧ t.unit.mb m = { b with apply := false, refuse := some st, ecc := [] } ∧ t.unit.offMbx m = c.offMbx m))
    ∧ (b.state ≠ .accepted ∨ b.due = false ∨ b.routine ≠ none →
      (∀ ecc, exec (.verdictApply m ⟨false, ecc⟩) s = .next s) ∧ ∀ st, exec (.verdictRefuse m st) s = .next s)
    ∧ (∀ st : Half, st.toNat ∉ refuseCodes → exec (.verdictRefuse m st) s = .next s)
    ∧ (∀ ecc, ∃ t, exec (.verdictApply m ⟨true, ecc⟩) s = .next t ∧ t.unit.mbx = s.unit.mbx
      ∧ t.unit.fw = { s.unit.fw with restartDue := true } ∧ t.unit.req = s.unit.req)

/-- The doorbell, ACK and the controller's verdicts. -/
def Obligations.MailboxProtocol : Prop := DoorbellPart ∧ AckAndVerdictsPart

/-- Before a command's own effect (R50, R315, R334, R385, R386): without its turn it does nothing; a refused one ends with its status; after a
fail-stop it ends with
FAILSTOPPED unless it keeps working; a quarantined request answers ENTRY_UE; behind a routine it is QUEUED. -/
def Obligations.CommandGate : Prop :=
  ∀ p ∈ mbxCommands, ∀ (m : Mbx) (s : State),
    let c := s.unit.windowOf m
    let target := (s.unit.mb m).target
    ((s.unit.passed m = false ∨ (s.unit.mb m).code ≠ p.1 ∨ s.unit.ahead m = true) → exec (p.2 m) s = .next s)
    ∧ (s.unit.passed m = true → (s.unit.mb m).code = p.1 → s.unit.ahead m = false →
      (∀ st, (s.unit.mb m).refuse = some st → ∃ t, exec (p.2 m) s = .next t
        ∧ t.unit.ended m (s.unit.takeUp.mb m) st false [] ∧ t.unit.offMbx m = s.unit.takeUp.offMbx m))
    ∧ (s.unit.passed m = true → (s.unit.mb m).code = p.1 → s.unit.ahead m = false → (s.unit.mb m).refuse = none →
      (s.unit.stopped = true → worksStopped p.1 = false → ∃ t, exec (p.2 m) s = .next t
        ∧ t.unit.ended m (s.unit.mb m) 0x0077 false [] ∧ t.unit.offMbx m = s.unit.offMbx m)
      ∧ (s.unit.stopped = false ∨ worksStopped p.1 = true →
        (∀ q, p.1 ≠ 0x0100 → namedRequest p.1 target = some q → (c.ax q).quarantined = true →
          ∃ t, exec (p.2 m) s = .next t ∧ t.unit.ended m (c.mb m) 0x0070 false [] ∧ t.unit.offMbx m = c.offMbx m)
        ∧ ((p.1 = 0x0100 ∨ ∀ q, namedRequest p.1 target = some q → (c.ax q).quarantined = false) → c.blocked m p.1 target = true →
          ∃ t, exec (p.2 m) s = .next t ∧ t.unit.mb m = { c.mb m with queued := true, ecc := [] } ∧ t.unit.offMbx m = c.offMbx m)))

/-- Commands that only report (R272, R329, R418): NOP, GET_VERSION, GET_CAPS, QUERY_ADAPTER, REPAIR_STATUS, REPLAY. -/
def Sys2Proof.Machine.ReportCommandsPart : Prop :=
  (∀ p ∈ ([(0x0000, .mbxNop), (0x0001, .getVersion), (0x0002, .getCaps)] : List (Nat × (Mbx → Instr))),
    Ends p.2 p.1 (fun _ _ b => b.target ≠ 0) 0x0015 (fun _ _ _ => []) fun c _ _ => c)
  ∧ Ends .mbxNop 0x0000 (fun _ _ b => b.target = 0) 0x0000 (fun _ _ _ => []) (fun c _ _ => c)
  ∧ Ends .getVersion 0x0001 (fun _ _ b => b.target = 0) 0x0000
      (fun c _ _ => toLE 4 (if c.recovering then 0#32 else if c.fw.active then c.fw.slotB.version else c.fw.slotA.version).toNat
        ++ toLE 4 (c.reg 0x000).toNat) (fun c _ _ => c)
  ∧ Ends .getCaps 0x0002 (fun _ _ b => b.target = 0) 0x0000
      (fun c _ _ => [0x004, 0x140, 0x144, 0x148, 0x14C, 0x150, 0x154, 0x158].flatMap fun o => toLE 4 (c.reg o).toNat) (fun c _ _ => c)
  ∧ Ends .queryAdapter 0x0305 (fun _ _ b => b.target < 256) 0x0000 (fun c _ b => toLE 4 (tget c.adpDir b.target).h.toNat
      ++ toLE 2 (tget c.adpDir b.target).nbias.toNat
      ++ toLE 2 (b2n (tget c.adpDir b.target).valid * 32768 + (tget c.adpDir b.target).slots.toNat * 4096
        + (tget c.adpDir b.target).tag.toNat)) (fun c _ _ => c)
  ∧ Ends .repairStatus 0x0600 (fun _ _ b => b.target = 0) 0x0000
      (fun c _ _ => (List.range 8).flatMap fun i => toLE 4 (c.ctrlWord (0x160 + 4 * i)).toNat) (fun c _ _ => c)
  ∧ Ends .repairStatus 0x0600 (fun _ _ b => 65536 ≤ b.target ∧ b.target < 69632) 0x0000
      (fun c _ b => (c.mr (b.target - 65536)).bytes) (fun c _ _ => c)
  ∧ Ends .repairStatus 0x0600 (fun _ _ b => 131072 ≤ b.target ∧ b.target < 131088) 0x0000
      (fun c _ b => (List.range 4).flatMap fun i => toLE 4 (c.atlReg (c.physOf (b.target - 131072)) (0x80 + 4 * i)).toNat) (fun c _ _ => c)
  ∧ (∀ l, Ends .replay 0x0800 (fun c _ b => b.target < 4096 ∧ 1 ≤ b.pay 4 1 ∧ b.pay 4 1 < 16 ∧ b.pay 5 3 = 0
      ∧ c.replayRecs (tget c.ring b.target) (b.pay 4 1) (BitVec.ofNat 32 (b.pay 0 4)) = .ok l) 0x0000
      (fun _ _ _ => l.flatMap fun r => r.bytes 8) fun c _ _ => c)
  ∧ (∀ st, Ends .replay 0x0800 (fun c _ b => b.target < 4096 ∧ 1 ≤ b.pay 4 1 ∧ b.pay 4 1 < 16 ∧ b.pay 5 3 = 0
      ∧ c.replayRecs (tget c.ring b.target) (b.pay 4 1) (BitVec.ofNat 32 (b.pay 0 4)) = .error st) st (fun _ _ _ => []) fun c _ _ => c)

/-- OPEN writes the entry, the ring descriptor and the clamped block, and clears what a former request of the ID has left; CLAMPED
says that a value of the block, the rescore count or the gambit length is in force below what was asked for, and the block is then
counted once in UNIT_CLAMPCNT; other entries stay (R162, R210, R238, R242, R252, R261). The model's choices: log entries 36 and 40. -/
def Obligations.OpenResult : Prop :=
  (∀ (m : Mbx) (s : State) (p : Params × Bool), s.unit.cmdRuns m 0x0100 →
    let c := s.unit.entered m
    let b := c.mb m
    let e := entryOfImage (rdBytes b.msg 16 64)
    let d := b.pay 74 2
    b.target < 4096 → c.openRefusal b.target b = none → c.blockOf (c.blockAt e.pblk) = some p →
    ∃ t cl, exec (.openReq m) s = .next t ∧ t.unit.ended m b 0x0000 cl []
      ∧ t.unit.rq b.target = { e with
          state := if b.start then .active else .opened, ring := BitVec.ofNat 12 d, clamped := cl
          lasttick := if b.start then c.tick.cnt.setWidth 32 else 0 }
      ∧ t.unit.pm b.target = p.1
      ∧ t.unit.ax b.target = { (default : ReqAux) with
          blockClamped := p.2, gambitCut := if c.gambitMax e < e.gambit.toNat then some (c.gambitMax e) else none }
      ∧ (cl = true ↔ p.2 = true ∨ t.unit.rescoreOf b.target p.1 < p.1.rescore.toNat ∨ c.gambitMax e < e.gambit.toNat)
      ∧ t.unit.reg 0x078 = sat32 (c.reg 0x078) (b2n cl)
      ∧ tget t.unit.ring d = { (default : RingDesc) with
          valid := true, tenant := e.tenant, base := BitVec.ofNat 48 (b.pay 64 8 / 256 * 256)
          log2size := BitVec.ofNat 5 (fld (b.pay 64 8) 4 0), notify := BitVec.ofNat 16 (b.pay 72 2) }
      ∧ tget t.unit.cons d = 0 ∧ (∀ q, q ≠ b.target → t.unit.rq q = c.rq q)
      ∧ (∀ x ∈ t.unit.inputs, x.req.toNat ≠ b.target) ∧ (∀ x ∈ t.unit.dir, x.1 / 256 % 4096 ≠ b.target)
      ∧ t.unit.psram = c.psram ∧ t.meter = s.meter)
  ∧ (∀ st, Ends .openReq 0x0100 (fun c _ b => b.target < 4096 ∧ c.openRefusal b.target b = some st) st (fun _ _ _ => []) fun c _ _ => c)

/-- SET_PARAMS changes the fields that its mask names, with the block of bit 0 clamped and stored, lifts a hold of ROW_FAULT or
NO_CANDIDATE, and starts an OPEN request with START; its response says CLAMPED where a value that it has set is (R162, R210, R242, R243). -/
def Obligations.SetParamsResult : Prop :=
  (∀ (m : Mbx) (s : State) (p : Params × Bool), s.unit.cmdRuns m 0x0101 →
    let c := s.unit.entered m
    let b := c.mb m
    let q := b.target
    let img := entryOfImage (rdBytes b.msg 16 64)
    let mask := b.pay 64 4
    (if mask.testBit 0 then c.blockOf (c.blockAt img.pblk) else some (c.pm q, (c.ax q).blockClamped)) = some p →
    c.paramsRefusal b img mask (some p) = none →
    ∃ t cl, exec (.setParams m) s = .next t ∧ t.unit.ended m b 0x0000 cl [] ∧ t.unit.pm q = p.1
      ∧ (cl = true ↔ (mask.testBit 0 = true ∧ (p.2 = true ∨ t.unit.rescoreOf q p.1 < p.1.rescore.toNat))
          ∨ (mask.testBit 5 = true ∧ t.unit.gambitMax (t.unit.rq q) < img.gambit.toNat))
      ∧ (let e := t.unit.rq q
        let lifted := (c.rq q).state = .held ∧ ((c.rq q).hold = .rowFault ∨ (c.rq q).hold = .noCandidate)
        let started := b.start = true ∧ (c.rq q).state = .opened
        e.state = (if lifted ∨ started then .active else (c.rq q).state)
        ∧ e.prio = (if mask.testBit 1 then img.prio else (c.rq q).prio)
        ∧ e.deadline = (if mask.testBit 2 then img.deadline else (c.rq q).deadline)
        ∧ (e.adapter, e.adapterV) = (if mask.testBit 3 then (img.adapter, img.adapterV) else ((c.rq q).adapter, (c.rq q).adapterV))
        ∧ (e.delta, e.deltaV) = (if mask.testBit 4 then (img.delta, img.deltaV) else ((c.rq q).delta, (c.rq q).deltaV))
        ∧ e.gambit = (if mask.testBit 5 then img.gambit else (c.rq q).gambit)
        ∧ (e.trie, e.trieV, e.cursor) =
          (if mask.testBit 6 then (img.trie, img.trieV, 0) else ((c.rq q).trie, (c.rq q).trieV, (c.rq q).cursor))
        ∧ e.position = (c.rq q).position ∧ e.ring = (c.rq q).ring ∧ e.tenant = (c.rq q).tenant)
      ∧ (∀ j, j ≠ q → t.unit.rq j = c.rq j) ∧ t.unit.psram = c.psram ∧ t.meter = s.meter)
  ∧ ∀ st, Ends .setParams 0x0101 (fun c _ b =>
      let img := entryOfImage (rdBytes b.msg 16 64)
      let mask := b.pay 64 4
      c.paramsRefusal b img mask (if mask.testBit 0 then c.blockOf (c.blockAt img.pblk)
        else some (c.pm b.target, (c.ax b.target).blockClamped)) = some st) st (fun _ _ _ => []) fun c _ _ => c

/-- CLOSE and CANCEL mark a request for its next commit point, or answer NO_EFFECT; RESET_COUNTS frees its count pages and lifts the
holds it names (R141, R243, R255, R256). -/
def Sys2Proof.Machine.CloseAndResetPart : Prop :=
  (∀ p ∈ ([(0x0102, .closeReq, fun e => { e with close := true }), (0x0103, .cancel, fun e => { e with cancel := true })] :
      List (Nat × (Mbx → Instr) × (ReqEntry → ReqEntry))),
    Ends p.2.1 p.1 (fun c _ b => b.target < 4096 ∧ (c.rq b.target).state ∉ [.free, .draining, .closed] ∧ (c.rq b.target).cancel = false)
      0x0000 (fun _ _ _ => []) (fun c _ b => { c with req := tmod c.req b.target p.2.2 })
    ∧ Ends p.2.1 p.1 (fun c _ b => b.target < 4096 ∧ (c.rq b.target).state ≠ .free
        ∧ ((c.rq b.target).state ∈ [.draining, .closed] ∨ (c.rq b.target).cancel = true)) 0x0001 (fun _ _ _ => []) (fun c _ _ => c)
    ∧ Ends p.2.1 p.1 (fun c _ b => b.target < 4096 ∧ (c.rq b.target).state = .free) 0x0022 (fun _ _ _ => []) (fun c _ _ => c)
    ∧ Ends p.2.1 p.1 (fun _ _ b => 4096 ≤ b.target) 0x0015 (fun _ _ _ => []) (fun c _ _ => c))
  ∧ (∀ (m : Mbx) (s : State), s.unit.cmdRuns m 0x0108 →
    let c := s.unit.entered m
    let b := c.mb m
    c.needLive b = none → (c.rq b.target).state ≠ .parked → ∃ t, exec (.resetCounts m) s = .next t ∧ t.unit.ended m b 0x0000 false []
      ∧ (∀ x ∈ t.unit.dir, x.1 / 256 % 4096 ≠ b.target) ∧ (∀ k, k / 256 % 4096 ≠ b.target → tget t.unit.dir k = tget c.dir k)
      ∧ (t.unit.rq b.target).countOvf = false
      ∧ (t.unit.rq b.target).state = (if (c.rq b.target).state = .held ∧ (c.rq b.target).hold ∈ [.rowFault, .noCandidate, .countOvf]
          then .active else (c.rq b.target).state)
      ∧ ∀ j, j ≠ b.target → t.unit.rq j = c.rq j)

/-- Commands that report, and those that end a request or clear its counts. -/
def Obligations.PlainCommands : Prop := ReportCommandsPart ∧ CloseAndResetPart

/-- Parking (R257 to R260): PARK and RESUME begin routines; PARK's commit writes the slot, frees the counts and owes PARKED;
RESUME's commit brings the former state back and owes RESUMED; a request that has expired, is not parked, or is to end at this step's
commit point is not resumed (R276). -/
def Sys2Proof.Machine.ParkingPart : Prop :=
  Begins .park 0x0104 (fun c _ b => c.needLive b = none ∧ (c.rq b.target).cancel = false ∧ (c.rq b.target).merge = false
      ∧ (c.rq b.target).state ∈ [.opened, .active, .held, .preempted] ∧ (c.rq b.target).mirror = false ∧ b.pay 0 4 ≠ 0
      ∧ c.parkSize ≠ 0 ∧ parkPages (c.countTags b.target).length + 256 * (c.countTags b.target).length ≤ c.parkSize)
    (fun c b => { c.newRoutine b (b.pay 0 4) with
      left := parkPages (c.countTags b.target).length + 256 * (c.countTags b.target).length })
    (fun c m _ => tget c.staging m.val)
    (fun c _ b => (((c.modAx b.target fun a => { a with former := (c.rq b.target).state, formerHold := (c.rq b.target).hold }).freeGrammar
      b.target fun _ => true).modRq b.target fun e => { e with state := .parking, hold := .none }))
  ∧ (∀ (m : Mbx) (r : Routine) (s : State), s.unit.commits m 0x0104 r →
    let c := s.unit.duties
    let q := (s.unit.mb m).target
    let c1 := c.modRq q fun e => { e with state := .parked, ttl := BitVec.ofNat 32 r.key }
    ∃ t, exec (.parkCommit m) s = .next t ∧ t.unit.ended m (c.mb m) 0x0000 false []
      ∧ t.unit.rq q = { c.rq q with state := .parked, ttl := BitVec.ofNat 32 r.key }
      ∧ t.unit.psram = wrBytes c.psram (c.parkSlot q) (c1.parkImage q)
      ∧ (∀ x ∈ t.unit.dir, x.1 / 256 % 4096 ≠ q) ∧ (∀ k, k / 256 % 4096 ≠ q → tget t.unit.dir k = tget c.dir k)
      ∧ (t.unit.ax q).notices = (c.ax q).notices ++ [(2#8, 0#16)] ∧ (∀ j, j ≠ q → t.unit.rq j = c.rq j) ∧ t.meter = s.meter)
  ∧ Begins .resume 0x0105 (fun c _ b => b.target < 4096 ∧ (c.rq b.target).state = .parked ∧ (c.rq b.target).merge = false
      ∧ (c.rq b.target).cancel = false ∧ (c.rq b.target).close = false ∧ (Chip.allocAll .count (c.slotTags b.target) c []).1.isSome)
    (fun c b =>
      let pages := (Chip.allocAll .count (c.slotTags b.target) c []).1.getD []
      { c.newRoutine b (c.rq b.target).ttl.toNat pages with left := parkPages pages.length + 256 * pages.length })
    (fun c m _ => tget c.staging m.val)
    (fun c _ b => ((Chip.allocAll .count (c.slotTags b.target) c []).2.modAx b.target fun a => { a with expiryDue := false }).modRq b.target
      fun e => { e with state := .resuming, ttl := 0 })
  ∧ Ends .resume 0x0105 (fun c _ b => b.target < 4096 ∧ (c.rq b.target).state ≠ .parked ∧ (c.rq b.target).endcause = 6#8) 0x002B
    (fun _ _ _ => []) (fun c _ _ => c)
  ∧ Ends .resume 0x0105 (fun c _ b => b.target < 4096 ∧ (((c.rq b.target).state ≠ .parked ∧ (c.rq b.target).endcause ≠ 6#8)
      ∨ ((c.rq b.target).state = .parked ∧ ((c.rq b.target).merge = true ∨ (c.rq b.target).cancel = true ∨ (c.rq b.target).close = true))))
    0x0021 (fun _ _ _ => []) (fun c _ _ => c)
  ∧ Ends .resume 0x0105 (fun c _ b => b.target < 4096 ∧ (c.rq b.target).state = .parked ∧ (c.rq b.target).merge = false
      ∧ (c.rq b.target).cancel = false ∧ (c.rq b.target).close = false ∧ (Chip.allocAll .count (c.slotTags b.target) c []).1 = none) 0x0028 (fun _ _ _ => [])
    (fun c _ b => (Chip.allocAll .count (c.slotTags b.target) c []).2)
  ∧ (∀ (m : Mbx) (r : Routine) (s : State), s.unit.commits m 0x0105 r →
    let c := s.unit.duties
    let q := (s.unit.mb m).target
    ∃ t, exec (.resumeCommit m) s = .next t ∧ t.unit.ended m (c.mb m) 0x0000 false []
      ∧ t.unit.rq q = { c.rq q with
          state := if (c.ax q).former = .preempted then .active else (c.ax q).former
          hold := (c.ax q).formerHold, lasttick := c.tick32 }
      ∧ (t.unit.dir = (r.pages.zipIdx.foldl (Chip.restorePage q (c.parkSlot q) r.pages.length) c).dir)
      ∧ (t.unit.ax q).notices = (c.ax q).notices ++ [(3#8, 0#16)] ∧ (∀ j, j ≠ q → t.unit.rq j = c.rq j)
      ∧ t.unit.psram = c.psram ∧ t.meter = s.meter)

/-- ADOPT and its commit (R407), LOAD_COUNTS and its commit (R141). -/
def Sys2Proof.Machine.AdoptAndCountsPart : Prop :=
  Begins .adopt 0x0106 (fun c _ b => b.target < 4096 ∧ descOk (b.pay 0 8) = true ∧ b.pay 10 2 < 4096 ∧ b.pay 12 1 < 2
      ∧ b.pay 13 3 = 0 ∧ (c.mr b.target).shadow = true ∧ (c.mr b.target).mstate = .bound
      ∧ (c.rq b.target).state ∉ [.draining, .closed] ∧ (c.peerAlive b.target = false ∨ b.pay 12 1 = 1)
      ∧ 6 ≤ descLog2 (b.pay 0 8) ∧ descLog2 (b.pay 0 8) ≤ 16 ∧ c.ringBusy b.target (b.pay 10 2) = false
      ∧ c.ringSmall (descLog2 (b.pay 0 8)) (c.pm b.target) (c.rq b.target).gambit.toNat = false)
    (fun c b => c.newRoutine b) (fun c m _ => tget c.staging m.val) (fun c _ _ => c)
  ∧ Ends .adopt 0x0106 (fun c _ b => b.target < 4096 ∧ descOk (b.pay 0 8) = true ∧ b.pay 10 2 < 4096 ∧ b.pay 12 1 = 0
      ∧ b.pay 13 3 = 0 ∧ (c.mr b.target).shadow = true ∧ (c.mr b.target).mstate = .bound
      ∧ (c.rq b.target).state ∉ [.draining, .closed] ∧ c.peerAlive b.target = true) 0x0072 (fun _ _ _ => []) (fun c _ _ => c)
  ∧ (∀ (m : Mbx) (r : Routine) (s : State), s.unit.commits m 0x0106 r →
    let b := s.unit.mb m
    let q := b.target
    let c := s.unit.duties.applyRecords fun j => j == q
    (c.mr q).mstate = .bound → (c.rq q).state = .opened →
    ∃ t, exec (.adoptCommit m) s = .next t ∧ t.unit.ended m (c.mb m) 0x0000 false (toLE 4 ((c.rq q).position - 1).toNat)
      ∧ t.unit.rq q = { c.rq q with
          state := .active, hold := .none, ring := BitVec.ofNat 12 (b.pay 10 2), adopted := true, lasttick := c.tick32 }
      ∧ tget t.unit.ring (b.pay 10 2) = { (default : RingDesc) with
          valid := true, tenant := (c.rq q).tenant, base := descBase (b.pay 0 8)
          log2size := BitVec.ofNat 5 (descLog2 (b.pay 0 8)), notify := BitVec.ofNat 16 (b.pay 8 2) }
      ∧ tget t.unit.cons (b.pay 10 2) = 0 ∧ t.unit.mr q = default
      ∧ (t.unit.ax q).notices = (c.ax q).notices ++ [(4#8, 0#16)] ∧ t.meter = s.meter)
  ∧ Begins .loadCounts 0x0107 (fun c _ b => c.needLive b = none ∧ 1 ≤ b.pay 8 4 ∧ b.pay 8 4 ≤ 262144
      ∧ (c.rq b.target).state ≠ .parked ∧ c.plan.cur.isSome = true)
    (fun c b => match (c.countAlloc b).1 with
      | none => { c.newRoutine b with failed := some 0x0028 }
      | some pages => c.newRoutine b 0 pages)
    (fun c m _ => tget c.staging m.val)
    (fun c _ b => match c.countAlloc b with
      | (none, d) => d
      | (some _, d) => d.loading (4 * b.pay 8 4))
  ∧ Commits .loadCountsCommit 0x0107 (fun _ _ _ r => r.failed = some 0x0028) 0x0028 (fun _ _ _ _ => []) (fun c _ _ _ => c)
  ∧ Commits .loadCountsCommit 0x0107 (fun c _ b r => r.failed = none
      ∧ (c.plan.cur.isSome = true ∧ ((c.needLive b).isSome = true ∨ (c.rq b.target).state = .parked))) 0x0021 (fun _ _ _ _ => [])
    (fun c _ _ r => c.dropAll r.pages)
  ∧ ∀ p, Commits .loadCountsCommit 0x0107 (fun c _ b r => r.failed = none ∧ c.plan.cur = some p ∧ c.needLive b = none
      ∧ (c.rq b.target).state ≠ .parked ∧ (c.countMore p b r).1 = none) 0x0028 (fun _ _ _ _ => []) (fun c _ _ r => c.dropAll r.pages)
    ∧ ∀ more, Commits .loadCountsCommit 0x0107 (fun c _ b r => r.failed = none ∧ c.plan.cur = some p ∧ c.needLive b = none
      ∧ (c.rq b.target).state ≠ .parked ∧ (c.countMore p b r).1 = some more) 0x0000
    (fun _ _ _ _ => []) (fun c _ b r => ((c.countList (b.pay 0 8) (b.pay 8 4)).foldl (Chip.addEntry p b.target)
      (more.foldl (Chip.enterPage b.target) (c.countMore p b r).2)).modRq b.target fun e => { e with countOvf := false })

/-- Parking, resuming, adopting and counts. The model's choices: log entry 48. -/
def Obligations.ParkingCommands : Prop := ParkingPart ∧ AdoptAndCountsPart

/-- SET_TENANT and SET_BUDGET write one tenant's entry and answer as R251 says; another tenant's entry stays. -/
def Obligations.TenantResults : Prop :=
  Ends .setTenant 0x0200 (fun c _ b => 0 < b.target ∧ b.target < 4096 ∧ fld (b.pay 24 4) 29 0 = 0 ∧ b.pay 28 4 = 0
      ∧ fld (b.pay 24 4) 31 30 ≠ 3 ∧ b.pay 12 4 ≤ 2 ^ 30
      ∧ (fld (b.pay 24 4) 31 30 = 0 → ∀ x ∈ c.req, x.2.live = true → x.2.tenant.toNat ≠ b.target)) 0x0000 (fun _ _ _ => [])
    (fun c _ b => { c with tnt := tset c.tnt b.target { tget c.tnt b.target with
      refill := BitVec.ofNat 32 (b.pay 4 4), ceiling := BitVec.ofNat 32 (b.pay 8 4), overdraft := BitVec.ofNat 32 (b.pay 12 4)
      period := BitVec.ofNat 32 (b.pay 16 4), next := BitVec.ofNat 32 (b.pay 16 4)
      state := BitVec.ofNat 2 (fld (b.pay 24 4) 31 30), badSet := false } })
  ∧ Ends .setTenant 0x0200 (fun c _ b => 0 < b.target ∧ b.target < 4096 ∧ fld (b.pay 24 4) 29 0 = 0 ∧ b.pay 28 4 = 0
      ∧ b.pay 12 4 ≤ 2 ^ 30 ∧ fld (b.pay 24 4) 31 30 = 0 ∧ ∃ x ∈ c.req, x.2.live = true ∧ x.2.tenant.toNat = b.target)
    0x0024 (fun _ _ _ => []) (fun c _ _ => c)
  ∧ ∀ add : Nat, add < 2 →
    let new := fun (c : Chip) (b : Mailbox) => { tget c.tnt b.target with
      balance := if add = 1 then satI32 ((tget c.tnt b.target).balance.toInt + (BitVec.ofNat 32 (b.pay 0 4)).toInt)
        else BitVec.ofNat 32 (b.pay 0 4), badBal := false }
    Ends .setBudget 0x0201 (fun _ _ b => 0 < b.target ∧ b.target < 4096 ∧ b.pay 4 1 = add ∧ b.pay 5 3 = 0) 0x0000
      (fun c _ b => toLE 4 (new c b).balance.toNat) (fun c _ b => { c with tnt := tset c.tnt b.target (new c b) })

/-- Loads of adapters, delta sets and trie images (R126, R130, R154, R158, R331, R333): the source is taken at application, its bytes
count against the step's share of the loader (those of a trie image are still to be copied), and it takes effect at the commit. -/
def Sys2Proof.Machine.LoadPart : Prop :=
  Begins .loadAdapter 0x0300 (fun c _ b => b.target < 256 ∧ b.pay 14 2 < 4096 ∧ 0 < b.pay 8 4 ∧ b.pay 8 4 ≤ 131072
      ∧ b.target + adpSlots (b.pay 8 4) ≤ 256 ∧ badBias (rdBytes c.psram (b.pay 0 8) (8192 + b.pay 8 4)) (b.pay 12 2) = false
      ∧ c.stageUsed + (8192 + b.pay 8 4) ≤ 4194304)
    (fun c b => c.newRoutine b) (fun c _ b => rdBytes c.psram (b.pay 0 8) (8192 + b.pay 8 4))
    (fun c _ b => c.loading (8192 + b.pay 8 4))
  ∧ Commits .loadAdapterCommit 0x0300 (fun _ _ _ _ => True) 0x0000 (fun _ _ _ _ => [])
    (fun c m b _ => c.putAdapter b.target (b.pay 12 2) (b.pay 8 4) (BitVec.ofNat 12 (b.pay 14 2)) (tget c.staging m.val))
  ∧ (∀ p : Plan, Begins .loadDelta 0x0301 (fun c _ b => b.target < 16 ∧ b.pay 12 2 < 4096 ∧ b.pay 14 2 = 0 ∧ 0 < b.pay 8 4
      ∧ b.pay 8 4 ≤ 65536 ∧ c.plan.cur = some p
      ∧ p.badDelta (srcTrips (rdBytes c.psram (b.pay 0 8) (12 * b.pay 8 4)) (b.pay 8 4)) = false
      ∧ c.stageUsed + 12 * b.pay 8 4 ≤ 4194304)
    (fun c b => c.newRoutine b) (fun c _ b => (p.scatterAll (srcTrips (rdBytes c.psram (b.pay 0 8) (12 * b.pay 8 4)) (b.pay 8 4))).flatMap
      fun t => toLE 8 t.key ++ toLE 4 t.v.toNat) (fun c _ b => c.loading (12 * b.pay 8 4)))
  ∧ (∀ p : Plan, Ends .loadDelta 0x0301 (fun c _ b => b.target < 16 ∧ b.pay 12 2 < 4096 ∧ b.pay 14 2 = 0 ∧ 0 < b.pay 8 4
      ∧ b.pay 8 4 ≤ 65536 ∧ c.plan.cur = some p
      ∧ p.badDelta (srcTrips (rdBytes c.psram (b.pay 0 8) (12 * b.pay 8 4)) (b.pay 8 4)) = true) 0x002C (fun _ _ _ => []) (fun c _ _ => c))
  ∧ Commits .loadDeltaCommit 0x0301 (fun _ _ _ _ => True) 0x0000 (fun _ _ _ _ => [])
    (fun c m b _ => { c with delta := tset c.delta b.target (some
      { tag := BitVec.ofNat 12 (b.pay 12 2), rangeLogged := false, revoked := false
        trips := (List.range ((tget c.staging m.val).length / 12)).map (stagedTrip (tget c.staging m.val)) }) })
  ∧ Begins .loadTrie 0x0302 (fun c _ b => b.target < 256 ∧ b.pay 12 2 < 4096 ∧ b.pay 14 2 = 0 ∧ 0 < b.pay 8 4
      ∧ b.pay 8 4 ≤ 262144 ∧ c.trieUsed + b.pay 8 4 ≤ 262144)
    (fun c b => { c.newRoutine b with left := 16 * b.pay 8 4 }) (fun c _ b => rdBytes c.psram (b.pay 0 8) (16 * b.pay 8 4))
    (fun c _ _ => c)
  ∧ Commits .loadTrieCommit 0x0302 (fun _ _ _ _ => True) 0x0000 (fun _ _ _ _ => [])
    (fun c m b _ =>
      let d := { c with trie := tset c.trie b.target (some
        { tag := BitVec.ofNat 12 (b.pay 12 2), blocks := trieBlocks (tget c.staging m.val), bad := [] }) }
      if (tget c.trie b.target).isSome then { d with req := d.req.map fun e =>
        if e.2.trieV ∧ e.2.trie.toNat = b.target then (e.1, { e.2 with cursor := 0 }) else e } else d)

/-- Deny lists and mask bindings (R141, R145 to R148, R151). -/
def Sys2Proof.Machine.MaskLoadsPart : Prop :=
  Begins .loadDenylist 0x0303 (fun _ _ b => b.target < 4096 ∧ b.pay 12 4 = 0 ∧ b.pay 8 4 = 0) (fun c b => c.newRoutine b)
    (fun c m _ => tget c.staging m.val) (fun c _ _ => c)
  ∧ (∀ p : Plan, Begins .loadDenylist 0x0303 (fun c _ b => b.target < 4096 ∧ b.pay 12 4 = 0 ∧ b.pay 8 4 ≠ 0
      ∧ c.plan.cur = some p ∧ b.pay 8 4 = p.maskLen)
    (fun c b => match (Chip.allocAll .deny (p.denySlots (c.bitmapAt (b.pay 0 8))) c []).1 with
      | none => { c.newRoutine b with failed := some 0x0028 }
      | some pages => c.newRoutine b 1 pages)
    (fun c m _ => tget c.staging m.val)
    (fun c _ b => match Chip.allocAll .deny (p.denySlots (c.bitmapAt (b.pay 0 8))) c [] with
      | (none, d) => d
      | (some pages, d) => (d.writeMask p (c.bitmapAt (b.pay 0 8)) pages).loading p.maskLen))
  ∧ Commits .loadDenylistCommit 0x0303 (fun _ _ _ r => r.failed = none) 0x0000 (fun _ _ _ _ => [])
    (fun c _ b r => c.putDeny b.target r.pages)
  ∧ Commits .loadDenylistCommit 0x0303 (fun _ _ _ r => r.failed = some 0x0028) 0x0028 (fun _ _ _ _ => []) (fun c _ _ _ => c)
  ∧ (∀ mode : BitVec 2, mode = 0#2 ∨ mode = 3#2 → Ends .bindMask 0x0304 (fun c _ b => c.needLive b = none ∧ b.pay 0 1 < 2
      ∧ b.pay 1 1 = mode.toNat ∧ b.pay 2 2 < 4096 ∧ b.pay 4 2 < 4096 ∧ b.pay 6 2 = 0
      ∧ (mode = 3#2 → (c.rq b.target).slotMode (!(b.pay 0 1 == 1)) ≠ 3#2)) 0x0000 (fun _ _ _ => [])
    (fun c _ b => (c.setSlot b.target (b.pay 0 1 == 1) mode).liftHold b.target [.rowFault, .noCandidate]))
  ∧ Begins .bindMask 0x0304 (fun c m b => c.needLive b = none ∧ b.pay 0 1 < 2 ∧ (b.pay 1 1 = 1 ∨ b.pay 1 1 = 2)
      ∧ b.pay 2 2 < 4096 ∧ b.pay 4 2 < 4096 ∧ b.pay 6 2 = 0 ∧ b.pay 8 8 = 0
      ∧ c.staticRefusal m (c.rq b.target).tenant (b.pay 2 2) (BitVec.ofNat 12 (b.pay 4 2)) 0 = none)
    (fun c b => c.newRoutine b) (fun c m _ => tget c.staging m.val)
    (fun c _ b => c.liftHold b.target [.rowFault, .noCandidate])
  ∧ Commits .bindMaskCommit 0x0304 (fun c _ b r => r.failed = none ∧ c.needLive b = none ∧ r.key = 0
      ∧ (tget c.statics (b.pay 2 2)).resident = true ∧ tagOk (tget c.statics (b.pay 2 2)).tag (c.rq b.target).tenant = true)
    0x0000 (fun _ _ _ _ => [])
    (fun c _ b _ => c.bindStatic b.target (b.pay 0 1 == 1) (BitVec.ofNat 2 (b.pay 1 1)) (b.pay 2 2))
  ∧ Commits .bindMaskCommit 0x0304 (fun c _ b r => r.failed = none ∧ c.needLive b = none ∧ r.key = 1
      ∧ ((tget c.statics (b.pay 2 2)).resident = true → (tget c.statics (b.pay 2 2)).tag = BitVec.ofNat 12 (b.pay 4 2)))
    0x0000 (fun _ _ _ _ => [])
    (fun c _ b r => (c.putStatic (b.pay 2 2) (BitVec.ofNat 12 (b.pay 4 2)) r.pages).bindStatic b.target (b.pay 0 1 == 1)
      (BitVec.ofNat 2 (b.pay 1 1)) (b.pay 2 2))

/-- The loads of adapters, deltas, tries, deny lists and masks. The model's choices: log entries 11 and 47. -/
def Obligations.LoadCommands : Prop := LoadPart ∧ MaskLoadsPart

/-- SET_PLAN stages an image that passes the checks and writes the inactive banks; one that fails answers BAD_PLAN with the rule; the
switch puts the staged plan in force, or answers 143 where pages in use forbid it (R143, R280 to R284). -/
def Sys2Proof.Machine.PlanPart : Prop :=
  (∀ r, Ends .setPlan 0x0400 (fun c _ b => b.target = 0 ∧ c.planRefusal (b.pay 0 8) = some r) 0x0030 (fun _ _ _ => toLE 4 r)
    (fun c _ _ => c))
  ∧ Begins .setPlan 0x0400 (fun c _ b => b.target = 0 ∧ c.planRefusal (b.pay 0 8) = none)
    (fun c b => { c.newRoutine b with left := 4096 + 16 * 65536 }) (fun c m _ => tget c.staging m.val)
    (fun c m b =>
      let d := (c.loadBanks (b.pay 0 8) !c.bankSel).mapAtl 0x64 fun w => w ||| 0x800#32
      { d with plan := { d.plan with staged := some { plan := c.planOf (b.pay 0 8), mbx := m.val, addr := b.pay 0 8 } } })
  ∧ (∀ (s : State) (st : StagedPlan) (r : Routine), s.unit.plan.staged = some st → (s.unit.mb st.mbx).routine = some r →
    s.unit.atT0 = true → r.left = 0 → s.unit.tick.cnt ≠ r.tick → s.unit.stopped = false →
    (s.unit.bad143 st.plan = false → ∃ t, exec .planSwitch s = .next t
      ∧ t.unit.ended st.mbx (s.unit.mb st.mbx) 0x0000 false (toLE 4 st.plan.planId.toNat)
      ∧ t.unit.plan = { s.unit.plan with cur := some st.plan, staged := none, addr := st.addr }
      ∧ t.unit.bankSel = !s.unit.bankSel ∧ t.unit.lane = [] ∧ t.unit.bank = s.unit.bank ∧ t.unit.req = s.unit.req
      ∧ (∀ l, l < 16 → t.unit.atlReg (s.unit.physOf l) 0x00 = BitVec.ofNat 32 (st.plan.cfg false)
        ∧ t.unit.atlReg (s.unit.physOf l) 0x60 = BitVec.ofNat 32 (st.plan.cfg true)
        ∧ t.unit.atlReg (s.unit.physOf l) 0x40 = BitVec.ofNat 32 st.plan.pool) ∧ t.meter = s.meter)
    ∧ (s.unit.bad143 st.plan = true → ∃ t, exec .planSwitch s = .next t
      ∧ t.unit.ended st.mbx (s.unit.mb st.mbx) 0x0030 false (toLE 4 143) ∧ t.unit.plan = { s.unit.plan with staged := none }
      ∧ t.unit.bankSel = s.unit.bankSel ∧ t.unit.bank = s.unit.bank ∧ t.meter = s.meter))
  ∧ (∀ (s : State), (s.unit.atT0 = false ∨ s.unit.stopped = true ∨ s.unit.plan.staged = none
      ∨ ∃ st r, s.unit.plan.staged = some st ∧ (s.unit.mb st.mbx).routine = some r ∧ (r.left ≠ 0 ∨ s.unit.tick.cnt = r.tick)) →
    exec .planSwitch s = .next s)
  ∧ ∀ (c : Chip) (m n : Nat) (r : Routine), (c.mb m).routine = some r → n ≤ r.left →
    ((c.loadMore m n r).mb m).routine = some { r with left := r.left - n }
    ∧ ∀ l, l < 16 → (c.loadMore m n r).atlReg (c.physOf l) 0x64 =
      (if r.code = 0x0400 ∧ r.left = n then (c.atlReg (c.physOf l) 0x64 &&& ~~~ 0x800#32) ||| 0x400#32 else c.atlReg (c.physOf l) 0x64)

/-- SET_PART, SET_TICK and SET_LIMITS leave values that take effect at ticks, or answer with the first refusal (R229, R329, R343). -/
def Sys2Proof.Machine.SettingPart : Prop :=
  Ends .setPart 0x0401 (fun c _ b => b.target = 0 ∧ b.pay 0 4 < 32 ∧ c.partRefused (b.pay 0 4) = false) 0x0000 (fun _ _ _ => [])
    (fun c _ b => c.setReg 0x0A0 (BitVec.ofNat 32 (b.pay 0 4 * 65536 + c.draftN)))
  ∧ Ends .setPart 0x0401 (fun c _ b => b.target = 0 ∧ b.pay 0 4 < 32 ∧ c.partRefused (b.pay 0 4) = true) 0x0031 (fun _ _ _ => [])
    (fun c _ _ => c)
  ∧ Ends .setTick 0x0402 (fun _ _ b => b.target = 0 ∧ Nat.land (b.pay 0 4) 0xFF008000 = 0 ∧ 8 ≤ fld (b.pay 0 4) 23 16
      ∧ fld (b.pay 0 4) 23 16 ≤ 64 ∧ 100 ≤ fld (b.pay 0 4) 14 0 ∧ fld (b.pay 0 4) 14 0 ≤ 20000) 0x0000 (fun _ _ _ => [])
    (fun c _ b => if c.cyc.tickcfg = true then c else { c with regNext := tset c.regNext 0x020 (some (BitVec.ofNat 32 (b.pay 0 4))) })
  ∧ Ends .setTick 0x0402 (fun _ _ b => b.target = 0 ∧ Nat.land (b.pay 0 4) 0xFF008000 = 0 ∧ (fld (b.pay 0 4) 23 16 < 8
      ∨ 64 < fld (b.pay 0 4) 23 16 ∨ fld (b.pay 0 4) 14 0 < 100 ∨ 20000 < fld (b.pay 0 4) 14 0)) 0x0020 (fun _ _ _ => []) (fun c _ _ => c)
  ∧ Ends .setLimits 0x0403 (fun c _ b => b.target = 0 ∧ Nat.land (b.pay 0 4) 0x1F = 0 ∧ Nat.land (b.pay 4 4) 0xFFFFE000 = 0
      ∧ ∀ v ∈ c.limVerdicts (limitWords b), v = .take) 0x0000 (fun _ _ _ => [])
    (fun c _ b => { c with regNext := (limitWords b).foldl (fun t w => tset t w.1 (some w.2)) c.regNext })
  ∧ ∀ p ∈ ([(0x0020, .bad, []), (0x0032, .loose, [.bad]), (0x0033, .conflict, [.bad, .loose])] :
      List (Half × LimVerdict × List LimVerdict)),
    Ends .setLimits 0x0403 (fun c _ b => b.target = 0 ∧ Nat.land (b.pay 0 4) 0x1F = 0 ∧ Nat.land (b.pay 4 4) 0xFFFFE000 = 0
      ∧ p.2.1 ∈ c.limVerdicts (limitWords b) ∧ ∀ v ∈ p.2.2, v ∉ c.limVerdicts (limitWords b)) p.1 (fun _ _ _ => []) (fun c _ _ => c)

/-- Plans, parts, the tick's length and limits. -/
def Obligations.PlanCommands : Prop := PlanPart ∧ SettingPart

/-- RETIRE_LANE stages a lane or an atoll repair, or answers NO_SPARE and stages nothing (R396, R399, R418, R419). -/
def Sys2Proof.Machine.RetirePart : Prop :=
  let lane := fun (c : Chip) (b : Mailbox) => Part.lane (c.physOf (b.target / 256)) (b.target % 256)
  Ends .retireLane 0x0601 (fun c _ b => b.target < 4096 ∧ c.spareLeft (c.physOf (b.target / 256)) = true
      ∧ (∀ x ∈ c.rpr.staged, x.1 ≠ lane c b ∧ x.1 ≠ .atoll (c.physOf (b.target / 256)))) 0x0000 (fun _ _ _ => [])
    (fun c _ b => { c with rpr := { c.rpr with staged := c.rpr.staged ++ [(lane c b, (lane c b).copyLen, c.tick.cnt)] } })
  ∧ Ends .retireLane 0x0601 (fun c _ b => b.target < 4096 ∧ c.spareLeft (c.physOf (b.target / 256)) = false
      ∧ c.spareAtollFree = true ∧ ∀ x ∈ c.rpr.staged, x.1 ≠ lane c b) 0x0000 (fun _ _ _ => [])
    (fun c _ b =>
      let p := c.physOf (b.target / 256)
      { c with rpr := { c.rpr with
        staged := c.rpr.staged.filter (fun x => !(x.1.takesSpare p)) ++ [(.atoll p, (Part.atoll p).copyLen, c.tick.cnt)] } })
  ∧ Ends .retireLane 0x0601 (fun c _ b => b.target < 4096 ∧ c.spareLeft (c.physOf (b.target / 256)) = false
      ∧ c.spareAtollFree = false ∧ ∀ x ∈ c.rpr.staged, x.1 ≠ lane c b ∧ x.1 ≠ .atoll (c.physOf (b.target / 256)))
    0x0071 (fun _ _ _ => []) (fun c _ _ => c)
  ∧ Ends .retireLane 0x0601 (fun c _ b => 65536 ≤ b.target ∧ b.target < 65552 ∧ c.spareAtollFree = true) 0x0000 (fun _ _ _ => [])
    (fun c _ b =>
      let p := c.physOf (b.target - 65536)
      { c with rpr := { c.rpr with
        staged := c.rpr.staged.filter (fun x => !(x.1.takesSpare p)) ++ [(.atoll p, (Part.atoll p).copyLen, c.tick.cnt)] } })
  ∧ Ends .retireLane 0x0601 (fun c _ b => 65536 ≤ b.target ∧ b.target < 65552 ∧ c.spareAtollFree = false
      ∧ ∀ x ∈ c.rpr.staged, x.1 ≠ .atoll (c.physOf (b.target - 65536))) 0x0071 (fun _ _ _ => []) (fun c _ _ => c)

/-- MIRROR_BIND and LOCKSTEP (R403, R408, R418). -/
def Sys2Proof.Machine.BindingCommandsPart : Prop :=
  (∀ op : Nat, op < 2 → Ends .mirrorBind 0x0602 (fun c _ b => b.target < 4096 ∧ b.pay 0 1 = op ∧ b.pay 2 2 < 8192 ∧ b.pay 4 2 < 4096
      ∧ b.pay 6 2 = 0 ∧ (c.rq b.target).state = .opened ∧ (op = 0 → (c.rq b.target).merge = false)) 0x0000 (fun _ _ _ => [])
    (fun c _ b =>
      let new : MirrorEnt :=
        { mstate := .pending, shadow := op == 1, tag := BitVec.ofNat 8 (b.pay 1 1), peer := BitVec.ofNat 13 (b.pay 2 2)
          peerReq := BitVec.ofNat 12 (b.pay 4 2), lastPos := (c.rq b.target).position - 1, lastSeen := 0, seen := false
          asked := 0, unbind := false }
      { c with mir := tset c.mir b.target new }))
  ∧ Ends .mirrorBind 0x0602 (fun _ _ b => b.target < 4096 ∧ b.pay 0 1 = 2 ∧ b.pay 2 2 < 8192 ∧ b.pay 4 2 < 4096 ∧ b.pay 6 2 = 0)
    0x0000 (fun _ _ _ => [])
    (fun c _ b => { c with mir := tset c.mir b.target { tget c.mir b.target with unbind := true } })
  ∧ Ends .mirrorBind 0x0602 (fun c _ b => b.target < 4096 ∧ b.pay 0 1 < 2 ∧ b.pay 2 2 < 8192 ∧ b.pay 4 2 < 4096
      ∧ b.pay 6 2 = 0 ∧ (c.rq b.target).state ≠ .opened) 0x0021 (fun _ _ _ => []) (fun c _ _ => c)
  ∧ (let ok := fun (b : Mailbox) => b.target = 0 ∧ b.pay 1 1 < 4 ∧ b.pay 3 1 = 0 ∧ b.pay 4 2 < 8192 ∧ b.pay 6 2 = 0 ∧ b.pay 12 1 < 16
      ∧ b.pay 13 3 = 0
    Ends .lockstep 0x0603 (fun c _ b => ok b ∧ b.pay 0 1 = 0 ∧ c.lock.bound = false ∧ ∀ n, c.lock.next ≠ some (some n)) 0x0000
      (fun _ _ _ => []) (fun c _ b => { c with lock := { c.lock with next := some (some
        ((b.pay 1 1).testBit 0, (b.pay 1 1).testBit 1, BitVec.ofNat 8 (b.pay 2 1), BitVec.ofNat 13 (b.pay 4 2))) } })
    ∧ Ends .lockstep 0x0603 (fun c _ b => ok b ∧ b.pay 0 1 = 0 ∧ (c.lock.bound = true ∨ ∃ n, c.lock.next = some (some n))) 0x0075
      (fun _ _ _ => []) (fun c _ _ => c)
    ∧ Ends .lockstep 0x0603 (fun _ _ b => ok b ∧ b.pay 0 1 = 1) 0x0000 (fun _ _ _ => [])
      (fun c _ _ => { c with lock := { c.lock with next := some none } })
    ∧ Ends .lockstep 0x0603 (fun c _ b => ok b ∧ b.pay 0 1 = 2 ∧ c.lock.bound = true
        ∧ (c.lock.pairStep - BitVec.ofNat 32 (b.pay 8 4)).toNat ≤ 1024) 0x0000
      (fun c _ b => rdBytes c.lagoon (lagKey (b.pay 12 1) (0x7E0000 + 128 * (b.pay 8 4 % 1024))) 128) (fun c _ _ => c)
    ∧ Ends .lockstep 0x0603 (fun c _ b => ok b ∧ b.pay 0 1 = 2 ∧ (c.lock.bound = false
        ∨ 1024 < (c.lock.pairStep - BitVec.ofNat 32 (b.pay 8 4)).toNat)) 0x0076 (fun _ _ _ => []) (fun c _ _ => c))

/-- Retiring lanes, mirror bindings and lock-step. The model's choices: log entry 31. -/
def Obligations.PartCommands : Prop := RetirePart ∧ BindingCommandsPart

/-- Loading policy firmware (R336, R337, R349): LOAD_FW makes the inactive slot invalid, verification ends it with SIG_BAD or ROLLBACK
or fills the slot once its image has been copied, and the commit, at a tick after the verification, makes the slot valid. -/
def Sys2Proof.Machine.FirmwareLoadPart : Prop :=
  Begins .loadFw 0x0500 (fun c _ b => b.target < 2 ∧ c.slotRuns b.target = false)
    (fun c b => { c.newRoutine b with left := (c.fwImage b).length })
    (fun c m _ => tget c.staging m.val) (fun c _ b => { c with fw := c.fw.setSlot (b.target == 1) default })
  ∧ Ends .loadFw 0x0500 (fun c _ b => b.target < 2 ∧ c.slotRuns b.target = true) 0x0042 (fun _ _ _ => []) (fun c _ _ => c)
  ∧ (∀ (m : Mbx) (r : Routine) (s : State), (s.unit.mb m).routine = some r → r.code = 0x0500 → r.ready = false →
    let c := s.unit
    let b := c.mb m
    let img := c.fwImage b
    let one := b.target == 1
    let new := { c with fw := c.fw.setSlot one (fwSlotOf false img) }
    (r.left ≠ 0 → c.recovering = false → exec (.fwImageVerified m) s = .next s)
    ∧ (r.left = 0 ∨ c.recovering = true → policyOk img = false → ∃ t, exec (.fwImageVerified m) s = .next t ∧ t.unit.ended m b 0x0040 false []
      ∧ t.unit.offMbx m = c.offMbx m ∧ t.meter = s.meter)
    ∧ (r.left = 0 ∨ c.recovering = true → policyOk img = true → imgSvn (img.take 256) < c.fw.roll.toNat → ∃ t, exec (.fwImageVerified m) s = .next t
      ∧ t.unit.ended m b 0x0041 false [] ∧ t.unit.offMbx m = c.offMbx m ∧ t.meter = s.meter)
    ∧ (r.left = 0 → policyOk img = true → c.fw.roll.toNat ≤ imgSvn (img.take 256) → c.recovering = false →
      exec (.fwImageVerified m) s = .next { s with unit := new.modMbx m fun b =>
        { b with routine := some { r with ready := true, tick := c.tick.cnt } } })
    ∧ (policyOk img = true → c.fw.roll.toNat ≤ imgSvn (img.take 256) → c.recovering = true →
      ∃ t, exec (.fwImageVerified m) s = .next t ∧ t.unit.ended m b 0x0000 false (toLE 4 (imgVersion (img.take 256)).toNat)
        ∧ t.unit.offMbx m = ({ c with fw := c.fw.setSlot one (fwSlotOf true img) } : Chip).offMbx m ∧ t.meter = s.meter))
  ∧ Commits .loadFwCommit 0x0500 (fun _ _ _ r => r.ready = true) 0x0000
    (fun c _ b _ => toLE 4 (c.fw.slot (b.target == 1)).version.toNat)
    (fun c _ b _ => { c with fw := c.fw.setSlot (b.target == 1) { c.fw.slot (b.target == 1) with valid := true } })
  ∧ ∀ (m : Mbx) (r : Routine) (s : State), s.unit.commits m 0x0500 r → r.ready = false → exec (.loadFwCommit m) s = .next s

/-- Activating policy firmware (R338 to R340, R349): the slots flip at the T+0 of the step after the application; an image on trial is
reverted at a tick. -/
def Sys2Proof.Machine.FirmwareActivationPart : Prop :=
  Begins .activateFw 0x0501 (fun c _ b => b.target < 2 ∧ c.slotRuns b.target = false ∧ (c.fw.slot (b.target == 1)).valid = true
      ∧ c.recovering = false) (fun c b => c.newRoutine b) (fun c m _ => tget c.staging m.val) (fun c _ _ => c)
  ∧ Ends .activateFw 0x0501 (fun c _ b => b.target < 2 ∧ c.slotRuns b.target = false ∧ (c.fw.slot (b.target == 1)).valid = false)
    0x0043 (fun _ _ _ => []) (fun c _ _ => c)
  ∧ Ends .activateFw 0x0501 (fun c _ b => b.target < 2 ∧ c.slotRuns b.target = false ∧ (c.fw.slot (b.target == 1)).valid = true
      ∧ c.recovering = true) 0x0000 (fun _ _ _ => [])
    (fun c _ b =>
      let x := c.fw.slot (b.target == 1)
      let d := { c with fw := { c.fw with active := b.target == 1, core := { pc := x.entry, x := [], data := [] }
                                          roll := if b.raise = true ∧ c.fw.roll.toNat < x.svn.toNat then x.svn else c.fw.roll } }
      (d.setBoot 4).clrReg 0x110 0x200#32)
  ∧ (∀ (m : Mbx) (r : Routine) (s : State), (s.unit.mb m).routine = some r →
    let c := s.unit
    let one := r.target == 1
    (r.code = 0x0501 → r.ready = false → c.tick.cnt ≠ r.tick → c.atT0 = true → c.stopped = false → let d : Chip := { c with fw := { c.fw with
        active := one, lateRun := 0, core := { pc := (c.fw.slot one).entry, x := [], data := [] } } }
      exec (.activateFwCommit m) s = .next { s with
        unit := d.modMbx m fun b => { b with routine := some { r with ready := true } } })
    ∧ (r.code ≠ 0x0501 ∨ r.ready = true ∨ c.tick.cnt = r.tick ∨ c.atT0 = false ∨ c.stopped = true →
      exec (.activateFwCommit m) s = .next s))
  ∧ (∀ s : State, s.unit.fw.revertDue = true → s.unit.atT0 = true → ∃ t, exec .fwRevert s = .next t
    ∧ t.unit.fw = { s.unit.fw with
        active := !s.unit.fw.active, revertDue := false, lateRun := 0
        core := { pc := (s.unit.fw.slot (!s.unit.fw.active)).entry, x := [], data := [] } }
    ∧ t.unit.reg 0x110 = s.unit.reg 0x110 ||| 1#32
    ∧ (∀ (m : Mbx) r, (s.unit.mb m).routine = some r → r.code = 0x0501 → r.ready = true →
        t.unit.ended m (s.unit.mb m) 0x0044 false [])
    ∧ (∀ m : Mbx, (∀ r, (s.unit.mb m).routine = some r → r.code ≠ 0x0501 ∨ r.ready = false) → t.unit.mb m = s.unit.mb m)
    ∧ t.unit.req = s.unit.req ∧ t.meter = s.meter)
  ∧ ∀ s : State, s.unit.fw.revertDue = false ∨ s.unit.atT0 = false → exec .fwRevert s = .next s

/-- Loading firmware and activating it. The model's choices: log entry 28. -/
def Obligations.FirmwareCommands : Prop := FirmwareLoadPart ∧ FirmwareActivationPart

/-- A fault while staging discards what the routine has staged, and UNIT_REQSTAT.PARK_FAIL is set for a PARK or RESUME. The command ends
with FAULT, and a PARKING or RESUMING request returns to the state it had, at the next command window, or at once while RUN is 0 and no step
runs (R234, R242, R258, R274, R327, R335). -/
def Sys2Proof.Machine.RoutineFaultPart : Prop :=
  ∀ (m : Mbx) (r : Routine) (s : State), (s.unit.mb m).routine = some r →
    let later := s.unit.stp.active = true ∨ (s.unit.ready = true ∧ s.unit.run = true)
    let parking := r.code = 0x0104 ∨ r.code = 0x0105
    let c := (if parking then s.unit.orReg 0x0C0 0x20#32 else s.unit).dropAll r.pages
    let d := if r.code = 0x0400 then ({ c with plan := { c.plan with staged := none } } : Chip).mapAtl 0x64 (· &&& ~~~ 0xC00#32) else c
    let e := if r.code = 0x0104 then d.modRq r.target fun e => if e.state = .parking then { e with
          state := (s.unit.ax r.target).former, hold := (s.unit.ax r.target).formerHold } else e
        else if r.code = 0x0105 then d.modRq r.target fun e => if e.state = .resuming then
          { e with state := .parked, ttl := BitVec.ofNat 32 r.key } else e
        else d
    ((r.code = 0x0501 → r.ready = false) → r.failed ≠ some 0x0050 →
      (later → ∃ t, exec (.routineFault m) s = .next t ∧ t.meter = s.meter ∧ t.unit.offMbx m = d.offMbx m
        ∧ t.unit.mb m = { s.unit.mb m with routine := some { r with failed := some 0x0050, pages := [] } })
      ∧ (¬ later → (∀ n : Mbx, n ≠ m → (s.unit.mb n).routine.all (fun r => decide (r.failed ≠ some 0x0050)) = true) →
        ∃ t, exec (.routineFault m) s = .next t ∧ t.meter = s.meter ∧ t.unit.offMbx m = e.offMbx m
          ∧ t.unit.ended m (s.unit.mb m) 0x0050 false []))
    ∧ ((r.code = 0x0501 ∧ r.ready = true) ∨ r.failed = some 0x0050 → exec (.routineFault m) s = .next s)

/-- Firmware that is late or restarts (R328, R339, R380), and the duties of a step: refills, TTLs, the trial of an activation, the end of
discarded routines (R249, R260, R335, R339). -/
def Sys2Proof.Machine.FirmwareDutiesPart : Prop :=
  (∀ (missing : Nat) (s : State), let c := s.unit
    let due := c.stp.active = true ∧ 1024 ≤ c.since ∧ c.stp.planned = false ∧ c.stp.fwLate = false ∧ c.late = true
      ∧ c.missing.length = missing
    (due → ∃ t, exec (.fwLate missing) s = .next t ∧ t.unit.calm = ((({ c with
        stp := { c.stp with fwLate := true, dutyDue := false }
        fw := { c.fw with
          lateRun := c.fw.lateRun + 1, restartDue := c.fw.restartDue || decide (16 ≤ c.fw.lateRun + 1)
          revertDue := c.fw.revertDue || c.onTrial } } : Chip).orReg 0x110 4#32).endFaults).calm ∧ t.meter = s.meter)
    ∧ (¬ due → exec (.fwLate missing) s = .next s))
  ∧ (∀ s : State, (s.unit.fw.restartDue = true → s.unit.atT0 = true → ∃ t, exec .fwRestart s = .next t
      ∧ t.unit.calm = (({ s.unit with fw := { s.unit.fw with
          restartDue := false, lateRun := 0, core := { pc := (s.unit.fw.slot s.unit.fw.active).entry, x := [], data := [] } } } :
        Chip).orReg 0x110 2#32).calm ∧ t.meter = s.meter)
    ∧ (s.unit.fw.restartDue = false ∨ s.unit.atT0 = false → exec .fwRestart s = .next s))
  ∧ (∀ s : State, s.unit.runs = true → s.unit.inWindow = true → s.unit.stp.dutyDue = true → s.unit.late = false →
      let ends := fun (m : Mbx) (q : Nat) => ∃ r, (s.unit.mb m).routine = some r ∧ r.failed = some 0x0050 ∧ r.target = q
      ∃ t, exec .refill s = .next t
      ∧ (∀ n, tget t.unit.tnt n = (tget s.unit.tnt n).tick) ∧ (∀ q, (∀ m, ¬ ends m q) → t.unit.rq q = (s.unit.rq q).tickTtl)
      ∧ t.unit.stp = { s.unit.stp with dutyDue := false } ∧ t.unit.fw.lateRun = 0 ∧ t.meter = s.meter
      ∧ ∀ m : Mbx, let b := s.unit.mb m
        (b.routine = none → t.unit.mb m = b)
        ∧ ∀ r, b.routine = some r →
          let trial := r.code = 0x0501 ∧ r.ready = true ∧ s.unit.fw.revertDue = false
          (trial → r.failed ≠ some 0x0050 → r.steps < 3 → t.unit.mb m = { b with routine := some { r with steps := r.steps + 1 } })
          ∧ (trial → 3 ≤ r.steps → t.unit.ended m b 0x0000 false [])
          ∧ (¬ trial → r.failed = some 0x0050 → t.unit.ended m b 0x0050 false []
            ∧ ((∀ n, n ≠ m → ¬ ends n r.target) →
              (r.code = 0x0104 → (s.unit.rq r.target).state = .parking → t.unit.rq r.target = { s.unit.rq r.target with
                state := (s.unit.ax r.target).former, hold := (s.unit.ax r.target).formerHold })
              ∧ (r.code = 0x0105 → (s.unit.rq r.target).state = .resuming → t.unit.rq r.target = { s.unit.rq r.target with
                state := .parked, ttl := BitVec.ofNat 32 r.key })))
          ∧ (¬ trial → r.failed ≠ some 0x0050 → t.unit.mb m = b))
  ∧ ∀ s : State, s.unit.stp.dutyDue = false ∨ s.unit.runs = false ∨ s.unit.inWindow = false ∨ s.unit.late = true → exec .refill s = .next s

/-- A tenant's refill at a tick: NEXTREF counts down; at 0 it reloads and a balance below the ceiling gains the refill, no further
than the ceiling. A tenant with period 0, without a state or with an unreadable entry stays (R249). A PARKED request's TTL counts
down to 0 (R260). -/
def Sys2Proof.Machine.RefillPart : Prop :=
  ∀ (x : Tenant) (e : ReqEntry),
    (x.unreadable = true ∨ x.period = 0#32 ∨ x.state = 0#2 → x.tick = x)
    ∧ (x.unreadable = false → x.period ≠ 0#32 → x.state ≠ 0#2 → x.next ≠ 1#32 → x.tick = { x with next := x.next - 1 })
    ∧ (x.unreadable = false → x.period ≠ 0#32 → x.state ≠ 0#2 → x.next = 1#32 → x.tick.next = x.period
      ∧ (x.ceiling.toInt ≤ x.balance.toInt → x.tick.balance = x.balance)
      ∧ (x.balance.toInt < x.ceiling.toInt → x.tick.balance.toInt = min (x.balance.toInt + x.refill.toNat) x.ceiling.toInt))
    ∧ (e.state = .parked → e.ttl ≠ 0#32 → e.tickTtl = { e with ttl := e.ttl - 1 })
    ∧ (e.state ≠ .parked ∨ e.ttl = 0#32 → e.tickTtl = e)

/-- Routine faults, and the duties of a step. The model's choices: log entries 14 and 48. -/
def Obligations.FirmwareRules : Prop := RoutineFaultPart ∧ FirmwareDutiesPart

/-- The refill of budgets: once per step, before any command of the window (R249), and never twice. -/
def Obligations.RefillRule : Prop :=
  RefillPart
  ∧ (∀ (m : Mbx) (s : State), let c := s.unit
    (c.mb m).ecc = [] →
    (c.stp.dutyDue = true → c.stp.active = true → c.dbg.frozen = false → c.late = false →
      ∀ n, tget (c.entered m).tnt n = (tget c.tnt n).tick)
    ∧ (c.stp.dutyDue = false ∨ c.stp.active = false ∨ c.dbg.frozen = true → (c.entered m).tnt = c.tnt)
    ∧ (c.stp.active = true → c.dbg.frozen = false → c.late = false → (c.entered m).stp.dutyDue = false))
  ∧ ∀ s : State, (s.unit.stp.dutyDue = true → s.unit.runs = true → s.unit.inWindow = true → s.unit.late = false → ∃ t, exec .refill s = .next t
      ∧ (∀ n, tget t.unit.tnt n = (tget s.unit.tnt n).tick) ∧ t.unit.stp.dutyDue = false)
    ∧ (s.unit.stp.dutyDue = false → exec .refill s = .next s)

/-- Counter commands (R425 to R434, R440): a selection waits for the next snapshot boundary, a freeze captures as its cycle ends, a
thaw ends the hold; nothing else of the unit changes but counts. -/
def Sys2Proof.Machine.CounterCommandsPart : Prop :=
  let same := fun (c : Chip) (_ : Mbx) (_ : Mailbox) => c
  let none := fun (_ : Chip) (_ : Mbx) (_ : Mailbox) => ([] : List Byte)
  let sel := fun (b : Mailbox) => b.target < 208 ∧ b.pay 0 4 < 4096
  Ends .pmcSelect 0x0700 (fun _ _ b => sel b ∧ eventDefined b.target (b.pay 0 4 % 1024) = true
      ∧ ((b.pay 0 4).testBit 10 = true → b.target % 2 = 0)) 0x0000 none same
  ∧ Ends .pmcSelect 0x0700 (fun _ _ b => sel b ∧ eventDefined b.target (b.pay 0 4 % 1024) = false) 0x0080 none same
  ∧ Ends .pmcSelect 0x0700 (fun _ _ b => sel b ∧ eventDefined b.target (b.pay 0 4 % 1024) = true
      ∧ (b.pay 0 4).testBit 10 = true ∧ b.target % 2 = 1) 0x0081 none same
  ∧ Ends .pmcFreeze 0x0701 (fun _ _ b => b.target = 0) 0x0000 none same
  ∧ Ends .pmcThaw 0x0702 (fun _ _ b => b.target = 0) 0x0000 none same
  ∧ Ends .histSelect 0x0703 (fun _ _ b => b.target < 8 ∧ b.pay 0 4 < 6) 0x0000 none same
  ∧ Ends .histClear 0x0704 (fun _ _ b => b.target < 8 ∨ b.target = 255) 0x0000 none same
  ∧ ∀ (m : Mbx) (s t : State), let c := s.unit.entered m
    let b := c.mb m
    (s.unit.cmdRuns m 0x0700 → sel b → eventDefined b.target (b.pay 0 4 % 1024) = true →
      ((b.pay 0 4).testBit 10 = true → b.target % 2 = 0) → exec (.pmcSelect m) s = .next t →
      (tget t.unit.pmc.ctr b.target).pend =
        some (BitVec.ofNat 10 (b.pay 0 4), (b.pay 0 4).testBit 10, (b.pay 0 4).testBit 11)
      ∧ ∀ k, k ≠ b.target → (tget t.unit.pmc.ctr k).pend = (tget c.pmc.ctr k).pend)
    ∧ (s.unit.cmdRuns m 0x0701 → b.target = 0 → exec (.pmcFreeze m) s = .next t →
      t.unit.pmc.frzDue = true ∧ t.unit.pmc.frzLatch = c.pmc.frzLatch ∧ t.unit.pmc.hold = c.pmc.hold)
    ∧ (s.unit.cmdRuns m 0x0702 → b.target = 0 → exec (.pmcThaw m) s = .next t → t.unit.pmc.hold = false)
    ∧ (s.unit.cmdRuns m 0x0703 → b.target < 8 → b.pay 0 4 < 6 → exec (.histSelect m) s = .next t →
      (tget t.unit.pmc.hist b.target).pend = some (BitVec.ofNat 3 (b.pay 0 4)))
    ∧ (s.unit.cmdRuns m 0x0704 → b.target < 8 ∨ b.target = 255 → exec (.histClear m) s = .next t →
      ∀ e, e < 8 → (b.target = 255 ∨ e = b.target) → (tget t.unit.pmc.hist e).clear = true)

/-- Publication, captures and counting (R424, R425, R427 to R430, R434). A capture takes every value as the cycle ends; a tick capture is
the boundary at which a pending selection of a counter takes effect, and the selection or clearing of a histogram's engine empties its
bins. While HOLD keeps a tick capture from being published, the RECONF that it shows waits for the next one (R452). -/
def Sys2Proof.Machine.CountingPart : Prop :=
  (∀ s : State, let p := s.unit.pmc
    exec .snapshotPublish s = .next { s with unit := { s.unit with pmc :=
      if p.tickPending ∧ s.unit.clk.ucyc = p.tickAt + 2528 then (if p.hold then { p with
          tickPending := false
          ctr := p.ctr.map fun e => (e.1, { e.2 with reconf := e.2.reconf || (tget p.tickLatch.ent e.1).getLsbD 63 }) }
        else { p with
          tickPending := false, bank0 := if p.actBank then p.tickLatch else p.bank0
          bank1 := if p.actBank then p.bank1 else p.tickLatch, actBank := !p.actBank, seq := p.seq + 1, cause := false })
      else if p.frzPending ∧ s.unit.clk.ucyc = p.frzAt + 481 then { p with
        frzPending := false, bank0 := if p.actBank then p.frzLatch else p.bank0
        bank1 := if p.actBank then p.bank1 else p.frzLatch, actBank := !p.actBank, seq := p.seq + 1, cause := true, hold := true }
      else p } })
  ∧ (∀ c : Chip, c.tick.holdDue = false → c.tick.missDue = none →
    (c.pmc.frzDue = false → c.endCycle.pmc.frzLatch = c.pmc.frzLatch ∧ c.endCycle.pmc.frzPending = c.pmc.frzPending)
    ∧ (c.pmc.frzDue = true → c.endCycle.pmc.frzLatch = c.captureNow false ∧ c.endCycle.pmc.frzPending = true
      ∧ c.endCycle.pmc.frzDue = false
      ∧ (c.pmc.tickPending = false → (c.tick.capDue = false ∨ c.pmc.hold = true) → c.endCycle.pmc.frzAt = c.clk.ucyc))
    ∧ (c.tick.capDue = true → c.endCycle.pmc.tickLatch = c.captureNow true ∧ c.endCycle.pmc.tickPending = !c.pmc.hold
      ∧ c.endCycle.pmc.tickAt = c.clk.ucyc ∧ ∀ k, tget c.endCycle.pmc.ctr k = (tget c.pmc.ctr k).boundary c.pmc.hold)
    ∧ (c.tick.capDue = true → ∀ e, let h := tget c.pmc.hist e
      (h.pend = none → h.clear = false → tget c.endCycle.pmc.hist e = h)
      ∧ (h.pend = none → h.clear = true → tget c.endCycle.pmc.hist e = { h with clear := false, bins := [], sat := false })
      ∧ ∀ n, h.pend = some n →
        tget c.endCycle.pmc.hist e = { h with measure := n, pend := none, clear := false, bins := [], sat := false })
    ∧ (c.tick.capDue = false → c.endCycle.pmc.tickLatch = c.pmc.tickLatch ∧ c.endCycle.pmc.ctr = c.pmc.ctr))
  ∧ (∀ (k : Fin 208) (n : Nat) (s : State), ∃ t, exec (.pmcOverflow k n) s = .next t ∧ t.unit.calm = s.unit.calm ∧ t.meter = s.meter
    ∧ ((tget s.unit.pmc.ctr k.val).event = 0#10 ∨ s.unit.pmcUpper k.val = true → t = s)
    ∧ ((tget s.unit.pmc.ctr k.val).event ≠ 0#10 → (tget s.unit.pmc.ctr k.val).event ≠ 0x051#10 → s.unit.pmcUpper k.val = false →
      (tget t.unit.pmc.ctr k.val).val = BitVec.ofNat 48 ((tget s.unit.pmc.ctr k.val).val.toNat + n)
      ∧ ((tget s.unit.pmc.ctr k.val).chain = false → 2 ^ 48 ≤ (tget s.unit.pmc.ctr k.val).val.toNat + n →
        (tget t.unit.pmc.ctr k.val).ovf = true)))
  ∧ ∀ (e : Fin 8) (b : Fin 32) (n : Nat) (s : State), ∃ t, exec (.histSat e b n) s = .next t ∧ t.unit.calm = s.unit.calm
    ∧ t.meter = s.meter ∧ ((tget s.unit.pmc.hist e.val).measure = 0#3 → t = s)
    ∧ ((tget s.unit.pmc.hist e.val).measure ≠ 0#3 →
      tget (tget t.unit.pmc.hist e.val).bins b.val = sat32 (tget (tget s.unit.pmc.hist e.val).bins b.val) n
      ∧ (sat32 (tget (tget s.unit.pmc.hist e.val).bins b.val) n = 0xFFFFFFFF#32 → (tget t.unit.pmc.hist e.val).sat = true))

/-- The event log (R413, R415 to R417): an event is the entry of its sequence number in the active region, and no other entry changes; one that
it overwrites unread counts in UNIT_LOGOVW. Where the region has failed the event goes to UNIT_LASTCHANCE, unread entries are lost, and
LOG_FAILED is the first entry of the other region; with no region left, what UNIT_LASTCHANCE has no place for counts in UNIT_LOGLOST. -/
def Sys2Proof.Machine.EventLogPart : Prop :=
  (∀ (c : Chip) (r : LogReq), let l := c.log
    let t := c.logOne r
    let e := c.logEnt r
    let region := fun (g : LogSt) => if g.spare then g.b else g.a
    let x := l.seq.toNat % 4096
    let lost := c.unread (region l)
    (r.ev.faults = true → t.rbit 0x128 12 = true)
    ∧ t.reg 0x040 = (if r.ev.late = true then sat32 (c.reg 0x040) 1 else c.reg 0x040)
    ∧ (¬ (l.afail = true ∧ l.bfail = true) → l.failNext = false →
      tget (region t.log) x = e ∧ (∀ k, k ≠ x → tget (region t.log) k = tget (region l) k)
      ∧ t.log.seq = l.seq + 1 ∧ t.log.lastChance = l.lastChance ∧ t.reg 0x194 = c.reg 0x194
      ∧ (r.ev.faults = false → t.reg 0x128 = c.reg 0x128)
      ∧ t.reg 0x190 = if 4096 ≤ l.seq.toNat ∧ (∃ p ∈ region l, p.1 = x) ∧ after32 (tget (region l) x).seq (c.reg 0x18C) = true
        then sat32 (c.reg 0x190) 1 else c.reg 0x190)
    ∧ ((if l.spare then l.afail else l.bfail) = false → l.failNext = true →
      t.log.lastChance = e ∧ t.log.lcValid = true ∧ t.log.spare = !l.spare ∧ (if l.spare then t.log.bfail else t.log.afail) = true
      ∧ t.log.seq = l.seq + 2 ∧ t.reg 0x194 = sat32 (c.reg 0x194) lost ∧ t.rbit 0x128 12 = true
      ∧ (let f := tget (region t.log) ((l.seq + 1).toNat % 4096)
        f.code = 0x0A1B#16 ∧ f.fault = true ∧ f.seq = (l.seq + 1).setWidth 32))
    ∧ ((if l.spare then l.afail else l.bfail) = true → (if l.spare then l.bfail else l.afail) = false → l.failNext = true →
      t.log.lastChance = e ∧ t.log.lcValid = true ∧ t.log.afail = true ∧ t.log.bfail = true ∧ t.log.seq = l.seq + 2
      ∧ t.reg 0x194 = sat32 (sat32 (c.reg 0x194) lost) 1 ∧ t.rbit 0x128 12 = true)
    ∧ (l.afail = true → l.bfail = true → t.log.seq = l.seq + 1 ∧ t.log.lcValid = true ∧ t.log.a = l.a ∧ t.log.b = l.b
      ∧ (l.lcValid = false → t.log.lastChance = e ∧ t.reg 0x194 = c.reg 0x194)
      ∧ (l.lcValid = true → t.log.lastChance = l.lastChance ∧ t.reg 0x194 = sat32 (c.reg 0x194) 1)))
  ∧ ∀ (c : Chip) (r : LogReq), (∀ p ∈ c.pmc.ctr, p.2.event ≠ 0x051#10) →
    (c.note r.ev r.src r.a0 r.a1 r.a2).log = (c.logOne r).log

/-- Performance counters, histograms and replay, and the event log. -/
def Obligations.CounterAndHistogramCommands : Prop := CounterCommandsPart ∧ CountingPart ∧ EventLogPart

/-- Debug commands (R444 to R448): a part whose fuse is blown answers DEBUG_FUSED and nothing else happens. -/
def Sys2Proof.Machine.DebugCommandsPart : Prop :=
  let blown := Config.debugFuseBlown
  let st := if blown then 0x0082#16 else 0x0000#16
  let none := fun (_ : Chip) (_ : Mbx) (_ : Mailbox) => ([] : List Byte)
  let rest := fun (c : Chip) => { c with dbg := { c.dbg with half := Option.none } }
  Ends .debugUnlock 0x0F00 (fun c _ b => b.target = 0 ∧ b.pay 0 4 < 65536 ∧ c.dbg.fails ≠ 3#2) st none
    (fun c m b => if blown then c else { c with dbg := { c.dbg with half := some (m.val, BitVec.ofNat 16 (b.pay 0 4), 0) } })
  ∧ Ends .debugUnlock 0x0F00 (fun c m b => b.target = 0 ∧ 65536 ≤ b.pay 0 4 ∧ b.pay 0 4 < 131072 ∧ c.dbg.fails ≠ 3#2
      ∧ ∃ hi age, c.dbg.half = some (m.val, hi, age) ∧ age ≤ 4 ∧ Config.debugKey = hi ++ BitVec.ofNat 16 (b.pay 0 4)) st none
    (fun c _ _ => if blown then c else { c with dbg := { c.dbg with half := Option.none, unlocked := true } })
  ∧ Ends .debugUnlock 0x0F00 (fun c m b => b.target = 0 ∧ 65536 ≤ b.pay 0 4 ∧ b.pay 0 4 < 131072 ∧ c.dbg.fails ≠ 3#2
      ∧ ¬ ∃ hi age, c.dbg.half = some (m.val, hi, age) ∧ age ≤ 4 ∧ Config.debugKey = hi ++ BitVec.ofNat 16 (b.pay 0 4))
    (if blown then 0x0082 else 0x0083) none
    (fun c _ _ => if blown then c else { c with dbg := { c.dbg with half := Option.none, fails := c.dbg.fails + 1 } })
  ∧ Ends .debugUnlock 0x0F00 (fun c _ b => b.target = 0 ∧ b.pay 0 4 < 131072 ∧ c.dbg.fails = 3#2) (if blown then 0x0082 else 0x0084)
    none (fun c _ _ => c)
  ∧ Ends .debugFreeze 0x0F01 (fun c _ b => b.target = 0 ∧ c.dbg.unlocked = true ∧ c.dbg.frozen = false ∧ c.dbg.freezePending = false)
    st none (fun c _ _ => if blown then rest c else { c with dbg := { c.dbg with half := Option.none, freezePending := true } })
  ∧ Ends .debugFreeze 0x0F01 (fun c _ b => b.target = 0 ∧ c.dbg.unlocked = true ∧ (c.dbg.frozen = true ∨ c.dbg.freezePending = true))
    (if blown then 0x0082 else 0x0087) none (fun c _ _ => rest c)
  ∧ (∀ p ∈ ([(0x0F01, .debugFreeze), (0x0F02, .debugStep), (0x0F03, .debugRelease)] : List (Nat × (Mbx → Instr))),
    Ends p.2 p.1 (fun c _ b => b.target = 0 ∧ c.dbg.unlocked = false) (if blown then 0x0082 else 0x0085) none (fun c _ _ => rest c))
  ∧ Ends .debugRelease 0x0F03 (fun c m b => b.target = 0 ∧ c.dbg.unlocked = true ∧ b.pay 0 4 < 2 ∧ c.dbg.stepMbx ≠ some m.val) st none
    (fun c _ b => if blown then rest c else
      let d := (c.endStepping c.dbg.halt).unhalt
      { d with dbg := { d.dbg with
        half := Option.none, frozen := false, freezePending := false, stepping := false, reached := false, halted := false, atEnd := false
        unlocked := (b.pay 0 4).testBit 0 } })

/-- Single-tile stepping (R445 to R447). A DEBUG_STEP moves the step's T+0 by the cycles that it stood still; it halts in the cycle after
its last tile was issued, or at E; DBG_HALT and the response give that cycle. Row slots whose entries a peek has found bad are fault-dropped
once the step runs on with its rows (R451). -/
def Sys2Proof.Machine.DebugSteppingPart : Prop :=
  (∀ (m : Mbx) (s : State), s.unit.cmdRuns m 0x0F02 →
    let c := s.unit.entered m
    let b := c.mb m
    let n := fld (b.pay 0 4) 28 16
    b.target = 0 → c.dbg.unlocked = true → c.dbg.frozen = true → fld (b.pay 0 4) 15 4 = 0 → fld (b.pay 0 4) 31 29 = 0 → 0 < n →
    n ≤ 4096 → c.dbg.stepMbx ≠ some m.val → ∃ t, exec (.debugStep m) s = .next t ∧ t.meter = s.meter
      ∧ (Config.debugFuseBlown = true → t.unit.ended m b 0x0082 false [])
      ∧ (Config.debugFuseBlown = false → t.unit.mb m = { b with due := false, apply := false }
        ∧ t.unit.dbg = { c.dbg with
            half := none, halted := if c.halts then false else c.dbg.halted, accBad := t.unit.dbg.accBad, stepping := true, reached := false, atEnd := false
            stepAtoll := fld (b.pay 0 4) 3 0, stepGoal := n, stepMbx := some m.val }
        ∧ t.unit.halts = false
        ∧ t.unit.req = c.req ∧ t.unit.stp.t0 = c.stp.t0 + (if c.halts then c.clk.ucyc - c.dbg.haltAt else 0)
        ∧ (c.dbg.accBad = [] → t.unit.stp = { c.stp with t0 := t.unit.stp.t0 })))
  ∧ (∀ c : Chip, let set := fun (x : Nat × Nat × Nat) => if x.2.1 = 1 then (tget c.atoll x.1).set1 else (tget c.atoll x.1).set0
      (c.dbg.accBad = [] ∨ (c.stp.active = true ∧ c.stp.planned = false) → c.accDrops = c)
      ∧ (c.stp.active = true → c.stp.planned = true → c.accDrops.dbg.accBad = []
        ∧ (c.stp.committed = false → ∀ x ∈ c.dbg.accBad, ∀ r ∈ c.accDrops.stp.rows,
          r.wave = (set x).wave → r.slot = x.2.2 → r.faultDrop = true)))
  ∧ (∀ (a i : Nat) (c : Chip), c.dbg.stepping = true → c.dbg.reached = false → c.dbg.stepAtoll = a →
      let d := (c.tileIssued a i).dbg
      (1 < c.dbg.stepGoal → d = { c.dbg with stepGoal := c.dbg.stepGoal - 1 })
      ∧ (c.dbg.stepGoal ≤ 1 → d.reached = true ∧ d.haltAt = c.clk.ucyc + 1))
  ∧ (∀ (e : Bool) (s : State), let c := s.unit
    (c.haltDue = true → e ≠ c.stp.active → ∃ t, exec (.debugHalt e) s = .next t ∧ t.meter = s.meter
      ∧ t.unit.dbg = { c.dbg with
          stepping := false, reached := false, halted := true, atEnd := e, halt := c.haltCycle
          haltAt := if c.dbg.reached then c.dbg.haltAt else c.clk.ucyc, stepMbx := none }
      ∧ (∀ m, c.dbg.stepMbx = some m → t.unit.ended m (c.mb m) 0x0000 false
          (toLE 4 (c.atlReg (c.physOf c.dbg.stepAtoll) 0x10).toNat ++ toLE 4 c.haltCycle.toNat))
      ∧ t.unit.req = c.req ∧ t.unit.stp = c.stp)
    ∧ (c.haltDue = false ∨ e = c.stp.active → exec (.debugHalt e) s = .next s))
  ∧ ∀ s : State,
    (∀ m hi age, s.unit.dbg.half = some (m, hi, age) → 4 < age →
      exec .halfExpiry s = .next { s with unit := { s.unit with dbg := { s.unit.dbg with half := none } } })
    ∧ ((∀ m hi age, s.unit.dbg.half = some (m, hi, age) → age ≤ 4) → exec .halfExpiry s = .next s)

/-- Debug unlock, freeze, step and release. The model's choices: log entry 27. -/
def Obligations.DebugWords : Prop := DebugCommandsPart ∧ DebugSteppingPart

/-! ### Ticks and the frame of a step (R40 to R63, R316, R411, R446) -/

/-- A tick that comes now starts a step (R44, R446, R447). -/
def Sys2Proof.Machine.Chip.tickStarts (c : Chip) : Prop :=
  c.stp.active = false ∧ c.ready = true ∧ c.run = true
    ∧ ((c.dbg.frozen = false ∧ c.stopped = false) ∨ (c.dbg.frozen = true ∧ c.dbg.stepping = true ∧ c.dbg.reached = false))

/-- A pulse on the tick pin (R40, R42, R43, R46, R57, R63): a valid one is counted, ends holdover and takes the place of a holdover tick
of the same cycle; one shorter than 17 UCLK sets GLITCH; any other only moves the last change of the pin. Before UCLK runs none is
sampled. Pending register values (R7, R62) take effect at a tick that starts a step, and at no other: the model's reading, log entry 85. -/
def Sys2Proof.Machine.TickPulsePart : Prop :=
  ∀ (w : Nat) (low : Bool) (s : State),
    let c := s.unit
    let edge : Chip := { c with tick := { c.tick with lastChange := c.clk.now - 4 } }
    (c.samples = false → exec (.stepTick w low) s = .next s ∧ exec (.invalidPulse w low) s = .next s)
    ∧ (c.samples = true → w < 17 → exec (.stepTick w low) s = .next { s with unit := edge.orReg 0x024 0x20#32 }
        ∧ exec (.invalidPulse w low) s = .next { s with unit := edge.orReg 0x024 0x20#32 })
    ∧ (c.samples = true → 17 ≤ w → c.validPulse w = false → exec (.stepTick w low) s = .next { s with unit := edge }
        ∧ exec (.invalidPulse w low) s = .next { s with unit := edge })
    ∧ (c.validPulse w = true → exec (.invalidPulse w low) s = .next s)
    ∧ (c.samples = true → c.validPulse w = true → ∃ t, exec (.stepTick w low) s = .next t ∧ t.meter = s.meter
        ∧ t.unit.tick = { c.tick with
            cnt := c.tick.cnt + 1, ts := BitVec.ofNat 64 c.timeNs, lastChange := c.clk.now - 4, lastAt := c.clk.now
            holdBase := c.clk.now, inHold := false, holdDue := false, capDue := true
            missDue := if c.dbg.frozen = false ∧ c.stp.active = true then some false else c.tick.missDue }
        ∧ t.unit.clk = c.clk ∧ (¬ c.tickStarts → t.unit.regNext = c.regNext)
        ∧ (c.tickStarts → t.unit.regNext = []
          ∧ (keysRise c.regNext = true → ∀ o ∈ [0x020, 0x140, 0x144, 0x148, 0x14C, 0x150, 0x154, 0x158], ∀ v,
            tget c.regNext o = some v → t.unit.reg o = v)))

/-- The UCLK that ends is a UCLK-domain cycle (R64, R67), and the boot is past its ROM (R347). -/
def Sys2Proof.Machine.Chip.beats (c : Chip) : Prop :=
  c.clk.held = false ∧ (c.pwr.halved = false ∨ c.clk.phase = true) ∧ c.clk.uclk0 ≤ c.clk.now ∧ 3 ≤ c.boot

/-- What a counted tick does to steps (R44, R50, R57, R58, R326, R446): it starts one, or finds one in progress and is missed as its
cycle ends, or neither. The model's choices: log entry 68. -/
def Obligations.TickStartsOrMisses : Prop :=
  (∀ (w : Nat) (low : Bool) (s t : State), s.unit.samples = true → s.unit.validPulse w = true →
    (∀ e ∈ s.unit.regNext, e.1 ∉ [0x008, 0x00C, 0x024, 0x038, 0x160]) → exec (.stepTick w low) s = .next t →
    let c := s.unit
    let same : StepSt := { c.stp with afterE := false, loaded := if c.stp.active then c.stp.loaded else 0 }
    (c.tickStarts →
      t.unit.stp.active = true ∧ t.unit.stp.num = c.tick.cnt + 1 ∧ t.unit.stp.t0 = c.clk.ucyc
      ∧ t.unit.stp.bg = t.unit.rfld 0x020 23 16 * 1024 ∧ t.unit.stp.rows = [] ∧ t.unit.stp.dutyDue = true
      ∧ t.unit.stp.planned = false ∧ t.unit.stp.committed = false ∧ t.unit.stp.holdover = false
      ∧ t.unit.stp.planDue = none ∧ t.unit.stp.before = (c.stp.num :: c.stp.before).take 2
      ∧ (∀ m, (c.mb m).routine = none → t.unit.mb m = if (c.mb m).state = .accepted then { c.mb m with due := true } else c.mb m)
      ∧ (c.dbg.frozen = false → (t.unit.dbg.frozen = true ↔ c.dbg.freezePending = true)
        ∧ (t.unit.dbg.halted = true ∨ c.dbg.freezePending = false)))
    ∧ (¬ c.tickStarts → t.unit.stp = same ∧ t.unit.reg 0x038 = c.reg 0x038)
    ∧ (c.dbg.frozen = true → t.unit.dbg.frzTicks = sat32 c.dbg.frzTicks 1))
  ∧ ∀ (h : Bool) (s : State), s.pending = [] → s.unit.beats → s.unit.tick.holdDue = false → s.unit.tick.missDue = some h →
    s.unit.stp.planDue = none → s.unit.merge.held = [] →
    ∃ t, step s = .next t ∧ t.unit.tick.missDue = none ∧ t.unit.stp.active = s.unit.stp.active ∧ t.unit.stp.num = s.unit.stp.num
      ∧ t.unit.stp.t0 = s.unit.stp.t0 ∧ t.unit.stp.rows = s.unit.stp.rows
      ∧ (s.unit.stp.active = true → s.unit.run = true → t.unit.reg 0x038 = sat32 (s.unit.reg 0x038) 1
        ∧ t.unit.rbit 0x024 0 = true ∧ t.unit.rbit 0x128 15 = true)
      ∧ (s.unit.stp.active = false ∨ s.unit.run = false → t.unit.reg 0x038 = s.unit.reg 0x038)

/-- A holdover tick is due at its instant and while RUN is 1, and counts as its cycle ends unless a valid pulse has come in it (R46 to
R48, R57). -/
def Sys2Proof.Machine.HoldoverTickPart : Prop :=
  (∀ s : State, let c := s.unit
    (c.clk.held = true ∨ c.run = false ∨ c.clk.now ≠ c.holdInstant → exec .holdoverTick s = .next s)
    ∧ (c.clk.held = false → c.run = true → c.clk.now = c.holdInstant →
      exec .holdoverTick s = .next { s with unit := { c with tick := { c.tick with holdDue := true } } }))
  ∧ ∀ s : State, let c := s.unit
    s.pending = [] → c.clk.held = false → c.tick.holdDue = true → (∀ e ∈ c.regNext, e.1 ∉ [0x008, 0x024, 0x03C, 0x160]) →
    ∃ t, step s = .next t ∧ t.unit.tick.cnt = c.tick.cnt + 1 ∧ t.unit.tick.ts = BitVec.ofNat 64 c.timeNs
      ∧ t.unit.tick.holdBase = c.clk.now ∧ t.unit.tick.inHold = true ∧ t.unit.tick.holdDue = false ∧ t.unit.clk.now = c.clk.now + 1
      ∧ t.unit.reg 0x03C = sat32 (c.reg 0x03C) 1 ∧ t.unit.rbit 0x024 11 = true ∧ t.unit.rbit 0x024 10 = false
      ∧ (c.tick.inHold = false → t.unit.rbit 0x024 1 = true)
      ∧ (c.tickStarts → 3 ≤ c.boot → t.unit.stp.active = true ∧ t.unit.stp.num = c.tick.cnt + 1 ∧ t.unit.stp.holdover = true
        ∧ t.unit.stp.t0 = c.clk.ucyc)

/-- Ticks from the pin and holdover ticks. The model's choices: log entry 69. -/
def Obligations.TickPulses : Prop := TickPulsePart ∧ HoldoverTickPart

/-- The planner runs once in a step, as its cycle ends (R57, R244): the run is asked for at T+1,536 with what its reads meet and those of
the commit point will meet, and takes place when the cycle is over. It keeps the waves and places no more rows than the row cap, none where
the two planners disagree (R316, R380). -/
def Sys2Proof.Machine.PlannerPart : Prop :=
  (∀ (desc : Option PlanDesc) (waves : List WaveSlot) (mismatch : Bool) (ecc atC : List ReadFind) (s : State), let c := s.unit
    (c.runs = false ∨ c.stp.planned = true ∨ c.stp.planDue ≠ none ∨ c.since ≠ 1536 →
      exec (.plannerRun desc waves ⟨mismatch, ecc, atC⟩) s = .next s)
    ∧ (c.runs = true → c.stp.planned = false → c.stp.planDue = none → c.since = 1536 →
      ∃ t, exec (.plannerRun desc waves ⟨mismatch, ecc, atC⟩) s = .next t ∧ t.meter = s.meter
        ∧ t.unit = { c.reads ecc with stp := { (c.reads ecc).stp with planDue := some (desc, waves, mismatch), atC := atC } }))
  ∧ (∀ (c : Chip) (desc : Option PlanDesc) (waves : List WaveSlot) (mismatch : Bool),
    c.stp.planDue = some (desc, waves, mismatch) →
    (c.runs = true → c.stp.planned = false → let t := c.planNow
      t.stp.planDue = none ∧ t.stp.planned = true ∧ t.stp.waves = waves
      ∧ (1024 ≤ c.since → c.stp.fwLate = false → t.stp.dutyDue = false)
      ∧ t.stp.rows.length ≤ min 1024 t.stp.rowCap ∧ (mismatch = true → t.stp.rows = [])
      ∧ (mismatch = false → t.rpr.plannerRun = 0) ∧ t.plan.cur = c.plan.cur)
    ∧ (c.runs = false ∨ c.stp.planned = true → c.planNow = { c with stp := { c.stp with planDue := none } }))
  ∧ ∀ s : State, s.pending = [] → s.unit.beats → s.unit.tick.holdDue = false → s.unit.runs = true → s.unit.stp.planned = false →
    s.unit.stp.planDue ≠ none → ∃ t, step s = .next t ∧ t.unit.stp.planDue = none ∧ t.unit.stp.planned = true

/-- A parked request whose TTL is 0 once the step's duties are done and the window ends expires, to end at this step's commit point
(R260). -/
def Sys2Proof.Machine.ExpiryPart : Prop :=
  ∀ (q : ReqId) (s : State), let c := s.unit.duties
    (s.unit.runs = true → s.unit.stp.planned = false → 1024 ≤ s.unit.since →
      ((c.rq q.toNat).state = .parked → (c.rq q.toNat).ttl = 0#32 →
        exec (.expiry q) s = .next { s with unit := c.modAx q.toNat fun a => { a with expiryDue := true } })
      ∧ ((c.rq q.toNat).state ≠ .parked ∨ (c.rq q.toNat).ttl ≠ 0#32 → exec (.expiry q) s = .next { s with unit := c }))
    ∧ (s.unit.runs = false ∨ s.unit.stp.planned = true ∨ s.unit.since < 1024 → exec (.expiry q) s = .next s)

/-- The planner's run, and the requests that expire before it. -/
def Obligations.PlannerAndExpiry : Prop := PlannerPart ∧ ExpiryPart

/-- The fences of a phase (R54, R57, R152), each once and when its cycle is over. At F(p) a row of the phase whose inputs have all arrived
is admitted with them converted, and every row of a request with a row that is missing is dropped with cause DEFERRED; a row that a draft
fault has predicated off needs no input (R225). The fences of earlier phases come first. A sequencer whose copies disagree stops the unit
with cause 2 (R380, R386). At M(p) a row whose grammar mask is not resident is dropped with cause MASK_LATE. -/
def Obligations.FenceResults : Prop :=
  ∀ (phase : Nat) (s : State) (p : Plan), s.unit.plan.cur = some p →
    let c := s.unit
    let ahead := fun (f : Nat) => c.runs = false ∨ c.stp.planned = false ∨ c.stp.committed = true ∨ c.since ≤ f
      ∨ p.nphase.getD c.stp.template 0 ≤ phase
    let f := c.p0 + (p.fence c.stp.template phase).1
    let g := c.p0 + (p.fence c.stp.template phase).2
    (ahead f ∨ phase < c.stp.fenced → exec (.inputFence ⟨phase, false⟩) s = .next s)
    ∧ (ahead g ∨ phase ∈ c.stp.masked → exec (.maskFence phase) s = .next s)
    ∧ (¬ ahead f → c.stp.fenced = phase → ∃ t, exec (.inputFence ⟨phase, false⟩) s = .next t ∧ t.meter = s.meter
      ∧ t.unit.stp.fenced = phase + 1
      ∧ (let mine := fun (r : Row) => c.rowPhase r = phase ∧ r.drop = none ∧ r.predOff = false ∧ r.admitted = false
        let lacks := fun (r : Row) => c.inputsBy p r (c.stp.t0 + f) = none
        t.unit.stp.rows.length = c.stp.rows.length
        ∧ ∀ (i : Nat) r, c.stp.rows[i]? = some r → ∃ x : Row, t.unit.stp.rows[i]? = some x
          ∧ (∀ l, mine r → c.inputsBy p r (c.stp.t0 + f) = some l → x.admitted = true ∧ x.data = (c.admitRow p r l).data)
          ∧ (¬ mine r ∨ lacks r → x.admitted = r.admitted ∧ x.data = r.data)
          ∧ x.drop = (if r.drop = none ∧ ∃ y ∈ c.stp.rows, y.req = r.req ∧ mine y ∧ lacks y then some .deferred else r.drop)
          ∧ x.req = r.req ∧ x.pos = r.pos ∧ x.wave = r.wave ∧ x.slot = r.slot))
    ∧ (∀ k t, ¬ ahead f → phase = k + 1 → c.stp.fenced ≤ k → c.p0 + (p.fence c.stp.template k).1 < c.since →
      exec (.inputFence ⟨k, false⟩) s = .next t → t.unit.stp.fenced = phase
        ∧ exec (.inputFence ⟨phase, false⟩) s = exec (.inputFence ⟨phase, false⟩) t)
    ∧ (¬ ahead g → phase ∉ c.stp.masked → ∃ t, exec (.maskFence phase) s = .next t ∧ t.meter = s.meter
      ∧ t.unit.stp.masked = phase :: c.stp.masked ∧ t.unit.stp.rows = c.stp.rows.map fun r =>
        if c.rowPhase r = phase ∧ r.drop = none ∧ (c.rq r.req.toNat).streams = true
            ∧ (∀ x, c.grammarFor r.req.toNat r.pos = some x → c.stp.t0 + g < x.arrived)
        then { r with drop := some .maskLate, predOff := true } else r)
    ∧ ((c.runs = false → exec (.inputFence ⟨phase, true⟩) s = .next s)
      ∧ (c.runs = true → c.stopped = false → ∃ t, exec (.inputFence ⟨phase, true⟩) s = .next t ∧ t.meter = s.meter
        ∧ t.unit.stopped = true ∧ t.unit.stp.active = false ∧ t.unit.rfld 0x160 30 28 = 2))

/-- Late data and an abandoned step (R55, R411): LATE is set and the stall lasts as long as the data is late; once a stall has lasted a whole
tick period every row is dropped and every stream stops. -/
def Sys2Proof.Machine.StallPart : Prop :=
  (∀ (src : Fin 17) (stall : Nat) (item : Word) (s : State), let c := s.unit
    (c.runs = false ∨ c.stp.committed = true ∨ stall = 0 → exec (.lateArrival src stall item) s = .next s)
    ∧ (c.runs = true → c.stp.committed = false → stall ≠ 0 → ∃ t, exec (.lateArrival src stall item) s = .next t ∧ t.meter = s.meter
      ∧ t.unit.calm = ({ c.orReg 0x024 4#32 with
          stp := { c.stp with stalls := c.stp.stalls ++ [(src.val, c.since, c.since + stall)] } } : Chip).calm))
  ∧ ∀ s : State, let c := s.unit
    let long := ∃ x ∈ c.stp.stalls, x.2.1 + 1050 * c.periodUs ≤ c.since ∧ c.since ≤ x.2.2
    (c.runs = false ∨ c.stp.planned = false ∨ c.stp.committed = true ∨ c.stp.abandoned = true ∨ ¬ long → exec .stepAbandon s = .next s)
    ∧ (c.runs = true → c.stp.planned = true → c.stp.committed = false → c.stp.abandoned = false → long →
      ∃ t, exec .stepAbandon s = .next t ∧ t.meter = s.meter
        ∧ t.unit.calm = ({ c with
            atoll := c.atoll.map AtollSt.halted
            stp := { c.stp with
              abandoned := true, abandonAt := c.since, stalls := []
              rows := c.stp.rows.map fun r => { r with drop := some (r.drop.getD .deferred), predOff := true } } } : Chip).calm)

/-- The commit point (R56, R253): the cycle after an abandonment, P0 of a step without rows, else the cycle after the one in which the last
work of the rows was done and no stall lasts, P0 at the earliest; where rows have been dropped it may be later (log entry 103). A read that
ends in a fail-stop ends the step instead (R381). The eighth step in a row with a fault drop leads to HELD ROW_FAULT at C (R384). Mirror
acknowledgements (R404, R469): one is lost later than 50 µs after the record was sent. -/
def Sys2Proof.Machine.CommitPart : Prop :=
  (∀ s : State, let c := s.unit
    let ecc := c.stp.atC
    let due := if c.stp.abandoned then c.since = c.stp.abandonAt + 1 else if c.stp.rows = [] then c.since = c.p0
      else ∃ d, c.stp.doneAt = some d ∧ d < c.since ∧ c.p0 ≤ c.since ∧ (∀ x ∈ c.stp.stalls, x.2.2 ≤ c.since)
        ∧ ((∀ r ∈ c.stp.rows, r.drop = none ∧ r.predOff = false) → c.since = max (d + 1) c.p0)
    (c.runs = false ∨ c.stp.planned = false ∨ c.stp.committed = true ∨ ¬ due → exec .commitPoint s = .next s)
    ∧ (c.runs = true → c.stp.planned = true → c.stp.committed = false → due →
      ((c.reads ecc).runs = false → exec .commitPoint s = .next { s with unit := c.reads ecc })
      ∧ ((c.reads ecc).runs = true → ∃ t, exec .commitPoint s = .next t ∧ t.meter = s.meter ∧ t.unit.stp.committed = true
        ∧ t.unit.stp.c = c.since ∧ t.unit.reg 0x048 = c.reg 0x048 ∧ t.unit.merge.recv = [] ∧ t.unit.merge.rows = []
        ∧ t.unit.merge.notices = [] ∧ t.unit.mirRx = [])))
  ∧ (∀ s : State, let c := s.unit
    s.pending = [] → c.beats → c.tick.holdDue = false → c.stp.planDue = none → c.merge.held = [] → c.runs = true → c.stp.planned = true →
    c.stp.doneAt = none → ∃ t, step s = .next t
      ∧ t.unit.stp.doneAt = if ∀ r ∈ c.stp.rows, c.rowDone r = true then some c.since else none)
  ∧ (∀ (q : ReqId) (s : State), let c := s.unit
    let due := c.runs = true ∧ c.stp.committed = false ∧ 7 ≤ (c.ax q.toNat).faultRun ∧ c.faultHit q.toNat = true
      ∧ (c.ax q.toNat).escalated = false ∧ (c.rq q.toNat).cancel = false
    (due → ∃ t, exec (.faultEscalate q) s = .next t ∧ t.meter = s.meter
      ∧ t.unit.calm = (c.modAx q.toNat fun a => { a with escalated := true }).calm)
    ∧ (¬ due → exec (.faultEscalate q) s = .next s))
  ∧ (∀ (c : Chip) (v : Verdict), v.cause = none → (c.rq v.q).state = .active → (c.ax v.q).escalated = true →
    ((c.holdAtC v).rq v.q).state = .held ∧ ((c.holdAtC v).rq v.q).hold = .rowFault ∧ ((c.holdAtC v).ax v.q).faultRun = 0)
  ∧ ∀ (q : ReqId) (s : State), let c := s.unit
    (∀ (pos : Word) (late : Nat), c.clk.held = false → c.stp.active = true → q.toNat ∈ c.stp.mirrorWait → c.stp.mirrorDue = [] →
      ∃ t, exec (.mirrorAck q pos late) s = .next t ∧ t.meter = s.meter
        ∧ t.unit.stp = { c.stp with mirrorWait := c.stp.mirrorWait.erase q.toNat }
        ∧ t.unit.mr q.toNat = { c.mr q.toNat with lastPos := pos } ∧ t.unit.req = c.req
        ∧ t.unit.rfld 0x544 15 0 = min 0xFFFF ((c.since - c.stp.sentAt) / 16))
    ∧ (c.stp.active = false ∨ q.toNat ∉ c.stp.mirrorWait ∨ c.stp.mirrorDue ≠ [] ∨ c.since ≤ c.stp.sentAt + 52500 →
      exec (.mirrorLost q) s = .next s)
    ∧ (c.stp.active = true → q.toNat ∈ c.stp.mirrorWait → c.stp.mirrorDue = [] → c.stp.sentAt + 52500 < c.since →
      ∃ t, exec (.mirrorLost q) s = .next t ∧ t.meter = s.meter
        ∧ t.unit.stp = { c.stp with mirrorWait := c.stp.mirrorWait.erase q.toNat }
        ∧ t.unit.mr q.toNat = { c.mr q.toNat with mstate := .lost } ∧ t.unit.rq q.toNat = { c.rq q.toNat with mirror := false })

/-- Late data, an abandoned step, the commit point and what follows it. The model's choices: log entries 31, 59, 67 and
103. -/
def Obligations.StallAndCommit : Prop := StallPart ∧ CommitPart

/-- What a commit point decides for a request (R225, R235, R253 to R256): CANCEL and an expired TTL commit no token; otherwise the
committed tokens are a first part of those resolved, all of them unless one of them ends the request; a request with a dropped row
resolves none. -/
def Sys2Proof.Machine.VerdictPart : Prop :=
  ∀ (c : Chip) (q : Nat), let v := (c.judge q).2
    ((c.rq q).cancel = true → v.toks = [] ∧ v.cause = some cCancelled)
    ∧ ((c.rq q).cancel = false → (c.ax q).expiryDue = true → v.toks = [] ∧ v.cause = some cExpired)
    ∧ ((c.rq q).cancel = false → (c.ax q).expiryDue = false → ∃ l, c.tokensOf q = v.toks ++ l
      ∧ (v.cause = none → l = [] ∧ (c.rq q).close = false)
      ∧ (l ≠ [] → v.cause = some cStopToken ∨ v.cause = some cStop ∨ v.cause = some cMaxlen))
    ∧ ((∃ r ∈ c.rowsFor q, r.drop ≠ none) → v.toks = [])

/-- A committed record stands at its place in the ring and in the replay buffer, and its flit waits for a credit or for its acknowledgement
at the port of the ring; nothing else in package SRAM changes (R261, R271, R460, R461). A lock-step follower writes none (R408). -/
def Sys2Proof.Machine.RecordStoredPart : Prop :=
  ∀ (c : Chip) (d : Nat) (r : RingRec),
    let x := tget c.ring d
    let at_ := x.base.toNat + 16 * ((x.prod + BitVec.ofNat 32 (c.advanceOf d)).toNat % 2 ^ x.log2size.toNat)
    let port := (c.putRec d r).fb (c.portNow (Config.ringPort d).val)
    let pay := Config.ringPayload at_ r.bytes
    (c.putRec d r).advanceOf d = c.advanceOf d + 1
    ∧ (∀ k, k ≠ d → (c.putRec d r).advanceOf k = c.advanceOf k)
    ∧ (c.follows = false → rdBytes (c.putRec d r).psram at_ r.bytes.length = r.bytes
      ∧ (∀ k, k < at_ ∨ at_ + r.bytes.length ≤ k → tget (c.putRec d r).psram k = tget c.psram k)
      ∧ tget (c.putRec d r).replay (c.recseq.toNat % 65536) = some r ∧ (c.putRec d r).recseq = c.recseq + 1
      ∧ ((⟨4, true, true, pay, 0, 0, false⟩ : TxFlit) ∈ port.waiting
        ∨ ∃ seq : BitVec 12, (seq, flitBytes 0 4 true true seq.toNat 0 pay) ∈ port.replay))
    ∧ (c.follows = true → (c.putRec d r).psram = c.psram ∧ (c.putRec d r).recseq = c.recseq ∧ (c.putRec d r).out = c.out)

/-- What a commit point decides, and how its records are stored. The model's choices: log entries 61 and 63. -/
def Obligations.CommitRules : Prop := VerdictPart ∧ RecordStoredPart

/-- Beats go to the meter once the mirror records are acknowledged and no signature is waited for, at the end of a cycle (R357, R410). -/
def Sys2Proof.Machine.BeatsPart : Prop :=
  ∀ s : State, let c := s.unit
    s.pending = [] → c.beats → c.tick.holdDue = false → c.stp.planDue = none → c.merge.held = [] → c.runs = true → c.stp.committed = true →
    ∃ t, step s = .next t
      ∧ (c.stp.mirrorWait = [] ∧ c.lock.waiting = false → t.unit.posted = c.posted ++ c.stp.beats ∧ t.unit.stp.beats = []
        ∧ (t.unit.out.filter fun m => !m.isMsix) = (c.out.filter fun m => !m.isMsix) ++ c.stp.beats.map .beat)
      ∧ (c.stp.mirrorWait ≠ [] ∨ c.lock.waiting = true → t.unit.posted = c.posted ∧ t.unit.stp.beats = c.stp.beats)

/-- The end of a step (R56, R57, R61, R268, R357, R464): in a cycle after C, the very next one where the drain has nothing to write, and not
before every beat is in the meter's FIFO, every mirror record and every ring record's flit acknowledged, and no signature waited for. PROD of
every ring that took records advances, UNIT_LASTCOMMIT and UNIT_LASTSTEP take C and E, and no step is in progress; a tick of the same cycle
then starts the next one. A read that ends in a fail-stop ends the step instead (R381), and so does an emit stage whose copies disagree
(R380, R386). -/
def Sys2Proof.Machine.EndPart : Prop :=
  ∀ (stall : Nat) (ecc : List ReadFind) (s : State), let c := s.unit
    let drained := c.stp.mirrorWait = [] ∧ c.lock.waiting = false ∧ c.stp.beats = [] ∧ c.posted = [] ∧ c.ringOut = false
    let due := c.stp.c < c.since ∧ drained ∧ (c.emptyDrain = true → c.since = c.stp.c + 1)
    let u := c.reads ecc
    (c.runs = false ∨ c.stp.committed = false ∨ ¬ due → exec (.stepEnd ⟨stall, false, ecc⟩) s = .next s)
    ∧ (c.runs = true → c.stp.committed = true → due → u.runs = false → exec (.stepEnd ⟨stall, false, ecc⟩) s = .next { s with unit := u })
    ∧ (c.runs = true → c.stp.committed = true → due → u.runs = true →
      ∃ t, exec (.stepEnd ⟨stall, false, ecc⟩) s = .next t ∧ t.meter = s.meter ∧ t.unit.posted = []
        ∧ (c.tick.missDue = none → t.unit.stp = { u.stp with active := false, afterE := true }
          ∧ t.unit.reg 0x044 = BitVec.ofNat 32 c.since ∧ t.unit.reg 0x048 = BitVec.ofNat 32 c.stp.c
          ∧ (keysRise u.stp.advance = true → ∀ d, (tget t.unit.ring d).prod = (tget u.ring d).prod + BitVec.ofNat 32 (tget u.stp.advance d))
          ∧ (t.unit.out.filter fun m => !m.isMsix) = (u.out.filter fun m => !m.isMsix)
          ∧ t.unit.req = u.req ∧ t.unit.psram = u.psram)
        ∧ (∀ h, c.tick.missDue = some h → u.dbg.frozen = false → u.ready = true → u.run = true → u.stopped = false →
          t.unit.stp.active = true ∧ t.unit.stp.num = c.tick.cnt ∧ t.unit.stp.t0 = c.clk.ucyc ∧ t.unit.stp.holdover = h
            ∧ t.unit.tick.missDue = none))
    ∧ (c.runs = false → exec (.stepEnd ⟨stall, true, ecc⟩) s = .next s)
    ∧ (c.runs = true → c.stopped = false → ∃ t, exec (.stepEnd ⟨stall, true, ecc⟩) s = .next t ∧ t.meter = s.meter
      ∧ t.unit.stopped = true ∧ t.unit.stp.active = false ∧ t.unit.rfld 0x160 30 28 = 2 ∧ t.unit.psram = c.psram)

/-- The drain and the end of a step. -/
def Obligations.StepEndResult : Prop := BeatsPart ∧ EndPart

/-- The background slot, once in a step and before P0 (R52, R381, R392, R398): words that a scrub pass corrects are counted, the
self-test rotation moves on, a diagnostic that finds no column at fault makes the checksum column suspect. Repairs (R312, R396): ripe
ones take effect at a T+0 without a plan switch. Restores (R388): at a T+0, into a spare row. The model's choices: log entry 45. -/
def Obligations.BackgroundResults : Prop :=
  (∀ (l : List Finding) (s : State), let c := s.unit
    let on := c.runs = true ∧ c.stp.planned = true ∧ c.stp.bgDone = false ∧ 2048 ≤ c.since ∧ c.since < c.p0
    (¬ on → exec (.backgroundSlot l) s = .next s)
    ∧ (on → ∃ t, exec (.backgroundSlot l) s = .next t ∧ t.meter = s.meter
      ∧ (∀ pass, (∀ f ∈ l, ∃ site addr, f = .corrected site addr pass) → c.rpr.suspect = [] →
          (∀ k n, tget c.rpr.worn k = some n → n = pass) →
        t.unit.reg 0x16C = sat32 (c.reg 0x16C) l.length ∧ t.unit.stp = { c.stp with bgDone := true } ∧ t.unit.req = c.req
        ∧ t.unit.rpr.staged = c.rpr.staged.map (fun x => (x.1, x.2.1 - c.stp.bg, x.2.2)) ∧ t.unit.rpr.nextCol = (c.rpr.nextCol + 1) % 17
        ∧ t.unit.rfld 0x17C 16 8 = (c.rfld 0x17C 16 8 + cdiv c.periodUs 2000) % 264)
      ∧ (∀ p, l = [] → c.rpr.suspect.head? = some p → c.spareLeft p = true →
          (∀ x ∈ c.rpr.staged, x.1 ≠ .cksum p ∧ x.1 ≠ .atoll p) →
        t.unit.rpr.staged = c.rpr.staged.map (fun x => (x.1, x.2.1 - c.stp.bg, x.2.2)) ++ [(.cksum p, 0, c.tick.cnt)]
          ∧ p ∉ t.unit.rpr.suspect)))
  ∧ (∀ s : State, let c := s.unit
    let ripe := fun (x : Part × Nat × DWord) => decide (x.2.1 = 0 ∧ x.2.2 ≠ c.tick.cnt)
    (c.atT0 = false ∨ c.switchDue = true ∨ c.stopped = true → exec .repair s = .next s)
    ∧ (c.atT0 = true → c.switchDue = false → c.stopped = false → ∃ t, exec .repair s = .next t
      ∧ t.meter = s.meter ∧ t.unit.rpr.staged = c.rpr.staged.filter (fun x => !ripe x) ∧ t.unit.stp = c.stp ∧ t.unit.req = c.req
      ∧ (∀ p l k n, c.rpr.staged.filter ripe = [(.lane p l, 0, n)] → p < 17 → l < 256 → (c.freeSpares p).head? = some k →
        t.unit.spareHalf p k = 0x8000 + l)))
  ∧ ∀ (ok : Bool) (s : State), let c := s.unit
    (c.rpr.restore = [] ∨ c.stopped = true ∨ c.atT0 = false → exec (.imageRestore ok) s = .next s)
    ∧ (c.rpr.restore ≠ [] → c.stopped = false → c.atT0 = true → ∃ t, exec (.imageRestore ok) s = .next t ∧ t.meter = s.meter
      ∧ (ok = false ∨ c.imgSound c.plan.addr = false → t.unit.stopped = true ∧ t.unit.rfld 0x160 30 28 = 5 ∧ t.unit.bank = c.bank)
      ∧ (∀ a w, ok = true → c.imgSound c.plan.addr = true → c.rpr.restore = [(a, w)] →
        (c.spareRowLeft 15 (c.placeOf (.atollImem a w) w) = true → t.unit.rpr.restore = []
          ∧ tget t.unit.bank (bankKey a c.bankSel (w % 8192)) = BitVec.ofNat 64 (c.imgWord c.plan.addr a (w % 8192)))
        ∧ (c.spareRowLeft 15 (c.placeOf (.atollImem a w) w) = false → t.unit.bank = c.bank ∧ t.unit.rpr.restore = [(a, w)])))

/-! ### The fabric ports and the merge channel (R149, R150, R362, R397, R459 to R469) -/

/-- A ROW that arrives whole (R362, R463 to R466): refused, discarded as bad, stray or a duplicate, or kept as an input with its
fields, and its PROMPT pending for the request. -/
def Sys2Proof.Machine.RowArrivalPart : Prop :=
  ∀ (port : Port) (msg : List Byte) (s : State), let c := s.unit
    let p := port.val
    let h := rowHdr msg
    let dropped := fun (t : State) => t.unit.calm = ((c.count (fabOff p + 0x10) 1).orReg (fabOff p) 1#32).calm ∧ t.meter = s.meter
    (c.portLive p = false → exec (.row port msg) s = .next s)
    ∧ (c.portLive p = true → c.refusing = true → ∃ t, exec (.row port msg) s = .next t ∧ t.unit.inputs = c.inputs
      ∧ t.unit.reg (fabOff p + 0xC) = sat32 (c.reg (fabOff p + 0xC)) 1 ∧ t.meter = s.meter)
    ∧ (c.portLive p = true → c.refusing = false →
      (c.rowIsBad h msg.length = true ∨ c.rowKnown h = false ∨ c.rowHere h = true → ∃ t, exec (.row port msg) s = .next t ∧ dropped t)
      ∧ (∀ q, c.plan.cur = some q → c.rowIsBad h msg.length = false → c.rowKnown h = true → c.rowHere h = false →
        ∃ t x, exec (.row port msg) s = .next t ∧ t.unit.inputs = c.inputs ++ [x] ∧ x.req.toNat = h.req ∧ x.kind.toNat = h.kind
          ∧ x.offset = h.offset ∧ x.pos = h.pos ∧ x.piece = h.piece ∧ x.port = p ∧ x.fmt = h.fmt ∧ x.xs = h.xs
          ∧ x.body = (msg.drop 16).take (bodyLen h.fmt (q.rowElems h))
          ∧ x.arrived = c.clk.ucyc + (if h.kind ≤ 2 then 2 * cdiv (q.rowElems h) 128 + 24 else 0)
          ∧ t.unit.req = c.req ∧ t.meter = s.meter
          ∧ (((h.kind = 1 ∨ h.kind = 3) ∧ h.offset = 0 ∧ (c.rq h.req).merge = false) →
              (t.unit.ax h.req).prompt = h.prompt)))

/-- A grammar mask that arrives whole on a port that is receiving none (R149, R150): discarded at its header, or resident with its
pages. -/
def Sys2Proof.Machine.MaskArrivalPart : Prop :=
  ∀ (port : Port) (msg : List Byte) (s : State), let c := s.unit
    let p := port.val
    c.portLive p = true → c.refusing = false → c.maskArriving p = none →
    (∀ ev, c.maskRefusal msg = some ev → ∃ t, exec (.grammarMask port msg) s = .next t ∧ t.meter = s.meter
      ∧ t.unit.calm = ((c.count (fabOff p + 0x10) 1).orReg (fabOff p) 1#32).calm)
    ∧ (∀ q pages d, c.maskRefusal msg = none → c.plan.cur = some q → Chip.allocAll .grammar q.maskSlots c [] = (some pages, d) →
      msg.length = 192 * cdiv (16 + q.maskLen) 192 → ∃ t, exec (.grammarMask port msg) s = .next t ∧ t.meter = s.meter
        ∧ t.unit.grammar = c.grammar ++ [{ req := BitVec.ofNat 12 (leAt msg 0 2), pos := BitVec.ofNat 32 (leAt msg 4 4), port := p
                                           pages := pageTable pages, resident := true, arrived := c.clk.ucyc }])
    ∧ (∀ q d, c.maskRefusal msg = none → c.plan.cur = some q → Chip.allocAll .grammar q.maskSlots c [] = (none, d) →
      ∃ t, exec (.grammarMask port msg) s = .next t ∧ t.unit.grammar = d.grammar ∧ t.unit.rbit 0x060 6 = true ∧ t.meter = s.meter)

/-- Messages that arrive whole. The model's choices: log entries 44 and 78. -/
def Obligations.RowAndMaskArrival : Prop := RowArrivalPart ∧ MaskArrivalPart

/-- A flit that arrives (R459 to R462): a corrupted one is counted and leaves no input, the 64th in a row takes the link down; the next
DATA flit in order moves the receiver on and is acknowledged in time; one out of order is not taken. A sound flit with a reserved TYPE or
CLASS or an unused field that is not 0 is discarded: in order, it is acknowledged and its credit returned. One beyond the credits advertised
is not accepted (R463; the model's reading, log entry 105). -/
def Obligations.FlitArrival : Prop :=
  ∀ (port : Port) (f : List Byte) (s : State), let c := s.unit
    let p := port.val
    let h := leAt f 0 4
    let sound := f.length = 200 ∧ crc32 (f.take 196) = leAt f 196 4
    let seq := BitVec.ofNat 12 (fld h 23 12)
    (c.portLive p = false → exec (.data port f) s = .next s)
    ∧ (c.portLive p = true → ¬ sound → ∃ t, exec (.data port f) s = .next t ∧ t.meter = s.meter ∧ t.unit.inputs = c.inputs
      ∧ t.unit.reg (fabOff p + 4) = sat32 (c.reg (fabOff p + 4)) 1 ∧ (t.unit.fb p).rxSeq = (c.fb p).rxSeq
      ∧ ((c.fb p).corrupt < 63 → t.unit.portUp p = true ∧ (t.unit.fb p).corrupt = (c.fb p).corrupt + 1)
      ∧ (63 ≤ (c.fb p).corrupt → t.unit.portUp p = false ∧ t.unit.portQuar p = true))
    ∧ (c.portLive p = true → sound → fld h 31 29 = 0 → fld h 28 26 ≠ 7 → fld h 11 0 = 0 →
      (seq = (c.fb p).rxSeq → tget (c.fb p).granted (fld h 28 26) ≤ tget (c.fb p).taken (fld h 28 26) → ∃ t, exec (.data port f) s = .next t
        ∧ t.meter = s.meter ∧ t.unit.calm = (c.modFab p fun x => { x with corrupt := 0 }).calm)
      ∧ (seq = (c.fb p).rxSeq → tget (c.fb p).taken (fld h 28 26) < tget (c.fb p).granted (fld h 28 26) → ∃ t, exec (.data port f) s = .next t ∧ t.meter = s.meter
        ∧ (t.unit.fb p).rxSeq = (c.fb p).rxSeq + 1 ∧ (t.unit.fb p).discarding = false ∧ (t.unit.fb p).corrupt = 0
        ∧ tget (t.unit.fb p).taken (fld h 28 26) = tget (c.fb p).taken (fld h 28 26) + 1 ∧ (t.unit.fb p).unacked = if 64 ≤ (c.fb p).unacked + 1 then 0 else (c.fb p).unacked + 1)
      ∧ (seq ≠ (c.fb p).rxSeq → ∃ t, exec (.data port f) s = .next t ∧ t.meter = s.meter ∧ (t.unit.fb p).rxSeq = (c.fb p).rxSeq
        ∧ (t.unit.fb p).taken = (c.fb p).taken ∧ t.unit.inputs = c.inputs ∧ (t.unit.fb p).corrupt = 0))
    ∧ (c.portLive p = true → sound → seq = (c.fb p).rxSeq →
      5 ≤ fld h 31 29 ∨ (fld h 31 29 = 0 ∧ (fld h 28 26 = 7 ∨ fld h 11 0 ≠ 0)) → ∃ t, exec (.data port f) s = .next t ∧ t.meter = s.meter
        ∧ t.unit.inputs = c.inputs ∧ t.unit.grammar = c.grammar ∧ (t.unit.fb p).assembly = (c.fb p).assembly
        ∧ (t.unit.fb p).rxSeq = (c.fb p).rxSeq + 1 ∧ (t.unit.fb p).corrupt = 0
        ∧ (t.unit.fb p).unacked = (if 64 ≤ (c.fb p).unacked + 1 then 0 else (c.fb p).unacked + 1)
        ∧ tget (t.unit.fb p).taken (fld h 28 26) = tget (c.fb p).taken (fld h 28 26) + 1
        ∧ tget (t.unit.fb p).granted (fld h 28 26) = tget (c.fb p).granted (fld h 28 26) + 1
        ∧ .flit p (flitBytes 1 (fld h 28 26) false false 0 (tget (t.unit.fb p).granted (fld h 28 26)) []) ∈ t.unit.out)
    ∧ (c.portLive p = true → sound → (fld h 31 29 = 1 ∧ (fld h 28 26 = 7 ∨ fld h 25 12 ≠ 0))
        ∨ (2 ≤ fld h 31 29 ∧ fld h 31 29 ≤ 4 ∧ (fld h 28 26 ≠ 0 ∨ fld h 25 12 ≠ 0 ∨ (fld h 31 29 = 4 ∧ fld h 11 0 ≠ 0))) →
      ∃ t, exec (.data port f) s = .next t ∧ t.meter = s.meter ∧ t.unit.calm = (c.modFab p fun x => { x with corrupt := 0 }).calm)

/-- The sender of a port (R460, R461): a CREDIT raises the limit to the total it names, an ACK takes the acknowledged flits off the
replay buffer, a NAK acknowledges likewise and sends the rest again, and so do 1,024 FCLK without progress (log entry 97); 16 replays
without progress take the link down. A CREDIT of the reserved class is discarded (R459). -/
def Sys2Proof.Machine.SenderPart : Prop :=
  ∀ (port : Port) (s : State), let c := s.unit
    let p := port.val
    let x := c.fb p
    let rest := fun (c : Chip) => c.out.filter fun m => !m.isMsix
    let again := fun (l : List (BitVec 12 × List Byte)) => l.map fun e => OutMsg.flit p e.2
    (c.portLive p = false → (∀ k n, exec (.credit port k n) s = .next s) ∧ (∀ q, exec (.linkAck port q) s = .next s)
      ∧ (∀ q, exec (.nak port q) s = .next s) ∧ exec (.linkRetry port) s = .next s ∧ exec (.ackInterval port) s = .next s)
    ∧ (c.portLive p = true →
      (∀ n : BitVec 12, ∃ t, exec (.credit port 7#3 n) s = .next t ∧ t.meter = s.meter ∧ t.unit.calm = c.calm)
      ∧ (∀ (k : BitVec 3) (n : BitVec 12), k ≠ 7#3 → ∃ t, exec (.credit port k n) s = .next t ∧ t.meter = s.meter
        ∧ tget (t.unit.fb p).limit k.toNat % 4096 = n.toNat ∧ tget x.limit k.toNat ≤ tget (t.unit.fb p).limit k.toNat
        ∧ tget (t.unit.fb p).limit k.toNat < tget x.limit k.toNat + 4096 ∧ ∀ j, j ≠ k.toNat → tget (t.unit.fb p).limit j = tget x.limit j)
      ∧ (∀ (q : BitVec 12) i, x.replay.findIdx? (fun e => e.1 = q) = some i → x.waiting = [] →
        ∃ t, exec (.linkAck port q) s = .next t ∧ t.meter = s.meter ∧ t.unit.fb p = { x with
            replay := x.replay.drop (i + 1), replays := 0, progress := c.clk.now, starve := (t.unit.fb p).starve }
          ∧ rest t.unit = rest c)
      ∧ (∀ q : BitVec 12, x.replay.findIdx? (fun e => e.1 = q) = none → exec (.linkAck port q) s = .next s)
      ∧ (∀ q : BitVec 12, x.replay.findIdx? (fun e => e.1 = q) = none → x.replay ≠ [] → x.replays < 15 →
        ∃ t, exec (.nak port q) s = .next t ∧ t.meter = s.meter ∧ (t.unit.fb p) = { x with replays := x.replays + 1, progress := c.clk.now }
          ∧ rest t.unit = rest c ++ again x.replay ∧ t.unit.reg (fabOff p + 8) = sat32 (c.reg (fabOff p + 8)) 1)
      ∧ (∀ q : BitVec 12, x.replay.findIdx? (fun e => e.1 = q) = none → x.replay ≠ [] → 15 ≤ x.replays →
        ∃ t, exec (.nak port q) s = .next t ∧ t.meter = s.meter ∧ t.unit.portUp p = false ∧ t.unit.portQuar p = true)
      ∧ (∀ (q : BitVec 12) i, x.replay.findIdx? (fun e => e.1 = q) = some i → x.waiting = [] →
        (x.replay.drop (i + 1) = [] → exec (.nak port q) s = exec (.linkAck port q) s)
        ∧ (x.replay.drop (i + 1) ≠ [] → ∃ t, exec (.nak port q) s = .next t ∧ t.meter = s.meter ∧ t.unit.fb p = { x with
            replay := x.replay.drop (i + 1), replays := 1, progress := c.clk.now, starve := (t.unit.fb p).starve }
          ∧ rest t.unit = rest c ++ again (x.replay.drop (i + 1)) ∧ t.unit.reg (fabOff p + 8) = sat32 (c.reg (fabOff p + 8)) 1))
      ∧ (x.stale c.clk.now = true → x.replays < 15 → ∃ t, exec (.linkRetry port) s = .next t ∧ t.meter = s.meter
        ∧ (t.unit.fb p) = { x with replays := x.replays + 1, progress := c.clk.now } ∧ rest t.unit = rest c ++ again x.replay)
      ∧ (x.stale c.clk.now = true → 15 ≤ x.replays → ∃ t, exec (.linkRetry port) s = .next t ∧ t.meter = s.meter
        ∧ t.unit.portUp p = false ∧ t.unit.portQuar p = true)
      ∧ (x.stale c.clk.now = false → exec (.linkRetry port) s = .next s)
      ∧ (0 < x.unacked → ∃ t, exec (.ackInterval port) s = .next t ∧ t.meter = s.meter ∧ t.unit.fb p = { x with unacked := 0 }
        ∧ rest t.unit = rest c ++ [.flit p (flitBytes 2 0 false false 0 (x.rxSeq.toNat + 4095) [])])
      ∧ (x.unacked = 0 → exec (.ackInterval port) s = .next s))

/-- Link training, 16,000 FCLK without credit for what waits (log entry 97), and the spare port that a quarantine brings in (R397), and the
merge endpoint's status (R462, R463, R468, R469). That a serving port without a spare stops the unit is the model's reading, log entry 39. -/
def Sys2Proof.Machine.LinkStatesPart : Prop :=
  ∀ (port : Port) (s : State), let c := s.unit
    let p := port.val
    (∀ ok, c.clk.held = true ∨ c.portUp p = true ∨ c.portQuar p = true ∨ c.portRetired p = true → exec (.linkTraining port ok) s = .next s)
    ∧ (c.clk.held = false → c.portUp p = false → c.portQuar p = false → c.portRetired p = false →
      (∃ t, exec (.linkTraining port false) s = .next t ∧ t.meter = s.meter ∧ t.unit.portUp p = false ∧ t.unit.portQuar p = true)
      ∧ (∃ t, exec (.linkTraining port true) s = .next t ∧ t.meter = s.meter ∧ t.unit.portUp p = true ∧ t.unit.portQuar p = false
        ∧ ∀ k ∈ ingressClasses, tget (t.unit.fb p).granted k = tget (c.fb p).granted k + (if c.ready = true then fullPool k else bootPool)
          ∧ .flit p (flitBytes 1 k false false 0 (tget (t.unit.fb p).granted k) []) ∈ t.unit.out))
    ∧ (c.portLive p = true → (c.fb p).starved c.clk.now = true → ∃ t, exec (.creditTimeout port) s = .next t ∧ t.meter = s.meter
      ∧ t.unit.portQuar p = true ∧ t.unit.rbit (fabOff p) 3 = true
      ∧ (let spare := c.rbit 0x168 31 = false ∧ tget c.regNext 0x168 = none ∧ c.portQuar 8 = false
        (p ≠ 8 → spare → tget t.unit.regNext 0x168 = some (BitVec.ofNat 32 (2 ^ 31 + p * 16 + p)))
        ∧ (c.portServes p = true → (p = 8 ∨ ¬ spare) → t.unit.stopped = true)))
    ∧ (c.portLive p = false ∨ (c.fb p).starved c.clk.now = false → exec (.creditTimeout port) s = .next s)
    ∧ (∀ b, let starved := ∃ n, tget c.mch b.toNat = some n ∧ n + 52500 ≤ c.clk.ucyc
      (c.clk.held = true ∨ ¬ starved → exec (.mchCredit b) s = .next s) ∧ (c.clk.held = false → starved → ∃ t, exec (.mchCredit b) s = .next t
      ∧ t.meter = s.meter ∧ t.unit.calm = (c.orReg 0x540 1#32).calm))
    ∧ exec .channelUnavailable s = .next { s with unit := if c.clk.held then c else c.orReg 0x540 2#32 }

/-- The sender and the state of a port's link. -/
def Obligations.LinkResults : Prop := SenderPart ∧ LinkStatesPart

/-! ### Merge groups (R198 to R203) -/

/-- A merge message that arrives (R200 to R203, R209, R468): none while the unit is in reset or boots, nor without room in the 512 units
of the merge buffers; a malformed one, or one whose row is not in exchange, is discarded; a NOTICE is kept for the commit point; a NORM
that reports a missed NOTICE makes the owner hold the request; any other is kept until its exchange begins. While debug mode halts the
unit a message waits (R448). -/
def Sys2Proof.Machine.MergeArrivalPart : Prop :=
  ∀ p ∈ ([(0, .mergeNorm), (1, .pass1), (2, .pass2), (3, .pass3), (4, .decision), (5, .list), (6, .notice)] :
      List (Nat × (List Byte → Instr))), ∀ (m : List Byte) (s : State), let c := s.unit
    let x := mergeMsg m
    let full := 512 < c.mergeHeld + mergeUnits (m.length - 16)
    (c.clk.held = true ∨ c.ready = false ∨ full → exec (p.2 m) s = .next s)
    ∧ (c.clk.held = false → c.ready = true → ¬ full →
      (c.mergeBad m = true ∨ (x.kind = p.1 ∧ c.mergeRowAt x.req x.pos = none) → ∃ t, exec (p.2 m) s = .next t ∧ t.meter = s.meter
        ∧ t.unit.calm = (c.orReg 0x080 0x20#32).calm)
      ∧ (c.mergeBad m = false → x.kind ≠ p.1 → exec (p.2 m) s = .next s)
      ∧ (c.mergeBad m = false → x.kind = p.1 → c.mergeRowAt x.req x.pos ≠ none → c.halts = true → ∃ t, exec (p.2 m) s = .next t
        ∧ t.meter = s.meter ∧ t.unit.calm = ({ c with merge := { c.merge with held := c.merge.held ++ [x] } } : Chip).calm)
      ∧ (c.mergeBad m = false → x.kind = p.1 → c.mergeRowAt x.req x.pos ≠ none → c.halts = false →
        (p.1 = 6 → ∃ t, exec (p.2 m) s = .next t ∧ t.meter = s.meter
          ∧ t.unit.calm = ({ c with merge := { c.merge with notices := c.merge.notices ++ [x] } } : Chip).calm)
        ∧ (p.1 = 0 → x.flags.getLsbD 0 = true → c.mergeMe = 0 → ∃ t, exec (p.2 m) s = .next t ∧ t.meter = s.meter
          ∧ t.unit.rbit 0x080 4 = true ∧ (t.unit.ax x.req.toNat).desync = false ∧ t.unit.stp = { c.stp with
            rows := c.stp.rows.map fun r => if r.req = x.req ∧ r.pos = x.pos then { r with drop := some .rowFault, predOff := true } else r })
        ∧ (p.1 ≠ 6 → ¬ (p.1 = 0 ∧ x.flags.getLsbD 0 = true ∧ c.mergeMe = 0) → (∀ y ∈ c.merge.rows, y.req ≠ x.req ∨ y.pos ≠ x.pos) → ∃ t, exec (p.2 m) s = .next t ∧ t.meter = s.meter
          ∧ t.unit.calm = ({ c with merge := { c.merge with recv := c.merge.recv ++ [x] } } : Chip).calm)))

/-- The exchanges of a member without members below it (R198, R199): the root's NORM gives the row its pair; a DECISION is answered by
the next pass, and the last one by the list, after which the row is past its exchange. Each message leaves behind its route word (R468). -/
def Obligations.MergeMember : Prop :=
  ∀ (m : List Byte) (s : State) (p : Plan) (x : MrgRow) (r : Row), let c := s.unit
    let y := mergeMsg m
    c.clk.held = false → c.ready = true → c.halts = false → c.mergeHeld + mergeUnits (m.length - 16) ≤ 512 → c.mergeBad m = false → y.source = 0 → c.plan.cur = some p → c.mergeMe ≠ 0 →
    mergeKids c.mergeSize c.mergeMe = [] → c.merge.recv = [] → c.merge.rows = [x] → x.req = y.req → x.pos = y.pos → x.up = true →
    c.mergeRowAt y.req y.pos = some r →
    let rest := fun (c : Chip) => c.out.filter fun m => !m.isMsix
    let sent := fun (t : State) (kind : Nat) (body : List Byte) => rest t.unit = rest c ++
      [.merge (mergeParent c.mergeMe) (toLE 8 (Config.memberPackage (c.rfld 0x090 23 16) (mergeParent c.mergeMe)).toNat
        ++ mergeBytes (c.rfld 0x090 23 16) c.mergeMe kind 0 y.req y.pos body)]
    let new : MrgRow := { x with
      key := BitVec.ofNat 32 (leAt y.body 0 4), accum := BitVec.ofNat 32 (leAt y.body 4 4), above := leAt y.body 8 4
      len := leAt y.body 12 2 }
    (y.kind = 0 → x.stage = 0 → y.pair.1 = negInf → ∃ t, exec (.mergeNorm m) s = .next t ∧ t.meter = s.meter
      ∧ t.unit.merge.rows = [{ x with stage := 5, up := true }] ∧ rest t.unit = rest c)
    ∧ (y.kind = 0 → x.stage = 0 → y.pair.1 ≠ negInf → ∃ t, exec (.mergeNorm m) s = .next t ∧ t.meter = s.meter
      ∧ t.unit.merge.rows = [{ x with stage := 1, up := true }]
      ∧ sent t 1 ((rowHist 1 x.key y.pair.1 (c.rowCols p r.wave r.slot)).bytes (nbins 1)))
    ∧ (∀ k, k = 1 ∨ k = 2 → y.kind = 4 → x.stage = k → ∃ t, exec (.decision m) s = .next t ∧ t.meter = s.meter
      ∧ t.unit.merge.rows = [{ new with stage := k + 1, up := true }]
      ∧ sent t (k + 1) ((rowHist (k + 1) new.key r.m (c.rowCols p r.wave r.slot)).bytes (nbins (k + 1))))
    ∧ (y.kind = 4 → x.stage = 3 → ∃ t, exec (.decision m) s = .next t ∧ t.meter = s.meter
      ∧ t.unit.merge.rows = [{ new with stage := 5, up := true }]
      ∧ sent t 5 (listBytes (gather new.len r.m (c.rowCols p r.wave r.slot).flatten)))

/-- Data of a member that has been late for a row for more than 50 µs drops that row and the merge-group rows that are not past their draw, and a missed NOTICE
leaves DESYNC in its request (R202, R203, R208). Data that has arrived is never late (R57, R209). -/
def Sys2Proof.Machine.MergeTimeoutPart : Prop :=
  ∀ (peer : BitVec 6) (kind : BitVec 3) (req : ReqId) (s : State), let c := s.unit
    let mine := fun (r : Row) => c.mergeRow r = true ∧ r.req = req
    let late := ∃ r ∈ c.stp.rows, mine r ∧ c.lacks peer.toNat kind.toNat r = true
    let gone := fun (r : Row) => if mine r ∨ (c.mergeRow r = true ∧ c.mergePast r = false)
      then { r with drop := some .deferred, predOff := true } else r
    let passed := ∃ x ∈ c.stp.stalls, x.1 = 16 ∧ x.2.1 + 52500 < c.since
    (c.runs = false ∨ c.stp.committed = true ∨ ¬ passed ∨ ¬ late → exec (.mergeTimeout peer ⟨kind, req⟩) s = .next s)
    ∧ (c.runs = true → c.stp.committed = false → passed → late → ∃ t, exec (.mergeTimeout peer ⟨kind, req⟩) s = .next t
      ∧ t.meter = s.meter ∧ t.unit.reg 0x094 = BitVec.ofNat 32 (peer.toNat * 256 + kind.toNat)
      ∧ t.unit.reg 0x098 = sat32 (c.reg 0x098) 1 ∧ t.unit.rbit 0x080 3 = true
      ∧ t.unit.stp = { c.stp with
          rows := c.stp.rows.map gone
          stalls := c.stp.stalls.map fun x => if x.1 = 16 ∧ x.2.1 + 52500 < c.since then (x.1, x.2.1, min x.2.2 c.since) else x }
      ∧ (kind = 6#3 → (t.unit.ax req.toNat).desync = true) ∧ (kind ≠ 6#3 → t.unit.aux = c.aux))
    ∧ (∀ r, (∃ m ∈ c.merge.recv, m.kind = kind.toNat ∧ m.source = peer.toNat ∧ m.req = r.req ∧ m.pos = r.pos) → kind ≠ 6#3 →
      c.lacks peer.toNat kind.toNat r = false)
    ∧ (∀ r, kind = 6#3 → (∃ m ∈ c.merge.notices, m.req = r.req ∧ m.pos = r.pos) → c.lacks peer.toNat kind.toNat r = false)

/-- Merge messages and their timeout. The model's choices: log entries 59 and 67. -/
def Obligations.MergeMessages : Prop := MergeArrivalPart ∧ MergeTimeoutPart

/-! ### Mirroring and lock-step (R402 to R410) -/

/-- Messages and timeouts of a mirror binding (R401, R402, R403, R405, R406): LASTSEEN is the number of the step in which a message of the
peer arrived; a full receive buffer has no credit for a record (the model's choice, log entry 91). A message leaves behind the route word
of its sub-stream (R468). MIRROR is set at once where a request entry may change (R234), else at the tick that starts the next step. -/
def Sys2Proof.Machine.MirrorMessagesPart : Prop :=
  ∀ (peer : BitVec 13) (msg : List Byte) (s : State), let c := s.unit
    let q := msgReq msg
    let e := c.mr q
    let rest := fun (c : Chip) => c.out.filter fun m => !m.isMsix
    let rel := fun (m : List Byte) => OutMsg.mirror peer.toNat (toLE 8 (peer.toNat + 8192) ++ m)
    (c.clk.held = true → exec (.bind peer msg) s = .next s ∧ exec (.accept peer msg) s = .next s ∧ exec (.refuse peer msg) s = .next s
      ∧ exec (.record peer msg) s = .next s ∧ exec (.heartbeat peer msg) s = .next s ∧ ∀ late, exec (.signature peer ⟨msg, late⟩) s = .next s)
    ∧ (c.clk.held = false →
      (msgKind msg = kBind → c.bindReason peer msg = 0 → ∃ t, exec (.bind peer msg) s = .next t ∧ t.meter = s.meter
        ∧ t.unit.mr q = { e with mstate := .bound } ∧ t.unit.req = c.req
        ∧ rest t.unit = rest c ++ [rel (mirHeader (msgTag msg) kAccept 0 0 e.peerReq.toNat 0 0 0)])
      ∧ (msgKind msg = kBind → c.bindReason peer msg ≠ 0 → ∃ t, exec (.bind peer msg) s = .next t ∧ t.meter = s.meter
        ∧ t.unit.mir = c.mir ∧ t.unit.req = c.req
        ∧ rest t.unit = rest c ++ [rel (mirHeader (msgTag msg) kRefuse 0 0 e.peerReq.toNat 0 (c.bindReason peer msg) 0)])
      ∧ (c.answers peer msg kAccept = true → ∃ t, exec (.accept peer msg) s = .next t ∧ t.meter = s.meter
        ∧ t.unit.mr q = { e with mstate := .bound }
        ∧ t.unit.req = (if c.tablesOpen = true then c.modRq q fun r => { r with mirror := true } else c).req)
      ∧ (c.answers peer msg kAccept = false → ∃ t, exec (.accept peer msg) s = .next t ∧ t.meter = s.meter ∧ t.unit.calm = c.calm)
      ∧ (c.answers peer msg kRefuse = true → ∃ t, exec (.refuse peer msg) s = .next t ∧ t.meter = s.meter
        ∧ t.unit.mr q = { e with mstate := .refused } ∧ t.unit.req = c.req)
      ∧ (c.answers peer msg kRefuse = false → ∃ t, exec (.refuse peer msg) s = .next t ∧ t.meter = s.meter ∧ t.unit.calm = c.calm)
      ∧ (msgKind msg = kRecord → msgNtok msg ≤ 9 → e.mstate = .bound → e.shadow = true → e.peer = peer → e.tag = msgTag msg →
        c.mirRx.length < 4096 → ∃ t x, exec (.record peer msg) s = .next t ∧ t.meter = s.meter ∧ t.unit.mirRx = c.mirRx ++ [x] ∧ x.req.toNat = q
          ∧ x.pos = BitVec.ofNat 32 (msgWord1 msg) ∧ x.cfgcrc = BitVec.ofNat 32 (msgWord2 msg) ∧ x.toks.length = msgNtok msg
          ∧ t.unit.mr q = { e with lastSeen := c.stp.num.setWidth 32, seen := true } ∧ t.unit.req = c.req
          ∧ rest t.unit = rest c ++ [rel []])
      ∧ (msgKind msg = kHeartbeat → ∃ t, exec (.heartbeat peer msg) s = .next t ∧ t.meter = s.meter ∧ t.unit.req = c.req
        ∧ ∀ k, t.unit.mr k = if (c.mr k).shadow = true ∧ (c.mr k).peer = peer then
          { c.mr k with lastSeen := c.stp.num.setWidth 32, seen := true } else c.mr k)
      ∧ (4096 ≤ c.mirRx.length → ∃ t, exec (.record peer msg) s = .next t ∧ t.meter = s.meter ∧ t.unit.calm = c.calm))
    ∧ ∀ r : ReqId,
      (((c.mr r.toNat).mstate = .pending ∧ (c.mr r.toNat).shadow = false ∧ 16 ≤ (c.mr r.toNat).asked) →
        ∃ t, exec (.bindNoAnswer r) s = .next t ∧ t.meter = s.meter ∧ t.unit.mr r.toNat = { c.mr r.toNat with mstate := .refused })
      ∧ (¬ ((c.mr r.toNat).mstate = .pending ∧ (c.mr r.toNat).shadow = false ∧ 16 ≤ (c.mr r.toNat).asked) →
        exec (.bindNoAnswer r) s = .next s)

/-- Signatures of a lock-step pair (R409, R410, R469): agreement lets the drain go on and gives the round trip, a difference or a signature
still absent 50 µs after the own one was sent is divergence, which stops a unit in contain mode with cause 4. -/
def Sys2Proof.Machine.SignaturePart : Prop :=
  ∀ (peer : BitVec 13) (msg : List Byte) (stall : Nat) (s : State), let c := s.unit
    let theirs := (BitVec.ofNat 32 (msgWord1 msg), BitVec.ofNat 64 (leAt msg 16 8))
    let mine := msgKind msg = kSignature ∧ c.lock.bound = true ∧ c.lock.peer = peer ∧ c.lock.tag = msgTag msg
    let diverges := fun (t : State) (ps : Word) => t.unit.lock = { c.lock with
        diverged := true, own := none, theirs := none, waiting := c.lock.waiting && !(c.lock.contain && !c.stopped) }
      ∧ (c.lock.diverged = false → t.unit.reg 0x19C = ps)
      ∧ (c.lock.contain = true → t.unit.stopped = true ∧ t.unit.run = (c.run && c.stopped)
        ∧ (c.stopped = false → t.unit.rfld 0x160 30 28 = 4))
    (c.clk.held = false → ¬ mine → ∃ t, exec (.signature peer ⟨msg, stall⟩) s = .next t ∧ t.meter = s.meter ∧ t.unit.calm = c.calm)
    ∧ (c.clk.held = false → mine → c.lock.own = none → ∃ t, exec (.signature peer ⟨msg, stall⟩) s = .next t ∧ t.meter = s.meter
      ∧ t.unit.calm = ({ c with lock := { c.lock with theirs := some theirs } } : Chip).calm)
    ∧ (c.clk.held = false → mine → c.lock.own = some theirs → ∃ t, exec (.signature peer ⟨msg, stall⟩) s = .next t ∧ t.meter = s.meter
      ∧ t.unit.lock = { c.lock with own := none, theirs := none, waiting := false } ∧ t.unit.stp.mirrorDue = []
      ∧ t.unit.req = c.req ∧ t.unit.rfld 0x544 15 0 = min 0xFFFF ((c.clk.ucyc - c.lock.signedAt) / 16))
    ∧ (∀ sig, c.clk.held = false → mine → c.lock.own = some (theirs.1, sig) → sig ≠ theirs.2 →
      ∃ t, exec (.signature peer ⟨msg, stall⟩) s = .next t ∧ t.meter = s.meter ∧ diverges t theirs.1)
    ∧ (∀ o, c.lock.bound = true → c.lock.own = some o → c.lock.signedAt + 52500 < c.clk.ucyc →
      ∃ t, exec .signatureTimeout s = .next t ∧ t.meter = s.meter ∧ diverges t o.1)
    ∧ (c.lock.bound = false ∨ c.lock.own = none ∨ c.clk.ucyc ≤ c.lock.signedAt + 52500 → exec .signatureTimeout s = .next s)

/-- Mirror messages and signatures of a lock-step pair. The model's choices: log entries 31, 59, 91 and 106. -/
def Obligations.MirrorAndSignatures : Prop := MirrorMessagesPart ∧ SignaturePart

/-! ### Registers (R11 to R14, R45, R46, R61, R62, R207, R234, R262, R275, R343 to R346, R450 to R458, R477) -/

/-- Reads of the window: the data of a word; a _LO word puts its _HI word into the latch of the pair, and _HI returns that latch
(R61); offset 0 of a table entry loads the entry latch, and its other words come from the latch (R234); reserved space reads 0 and is
refused (R456), and so is a read of 4 bytes that is not aligned (R455). Reads change nothing else of the unit; a bad word that a read meets
comes first (R381). While the unit is held in reset its words read 0, and the meter section serves its window as long as it has power
(R457). MTR_STATUS compares the SUSPECT bits of both copies (R354). -/
def Sys2Proof.Machine.ReadPart : Prop :=
  ∀ (off : BitVec 24) (s : State), let c := s.unit
    let o := off.toNat
    let data := fun (t : State) (w : Word) => t.unit.bus.rdata = w.setWidth 64
    (∀ ecc, exec (.entryLatchRead ⟨off, ecc⟩) s = exec (.readLo ⟨off, ecc⟩) s
      ∧ (c.clk.held = false → exec (.readLo ⟨off, ecc⟩) s = exec (.readLo ⟨off, []⟩) { s with unit := c.reads ecc })
      ∧ (c.clk.held = true → exec (.readLo ⟨off, ecc⟩) s = exec (.readLo ⟨off, []⟩) s))
    ∧ (c.clk.held = false → o % 4 = 0 → o < 0x800000 →
      (loWord o = true → o < 0x400000 → ∃ t, exec (.readLo ⟨off, []⟩) s = .next t ∧ t.meter = s.meter ∧ data t (c.readWord o).1
        ∧ t.unit.latch = tset c.latch o (c.readWord (o + 4)).1 ∧ t.unit.ureg = c.ureg ∧ t.unit.tick = c.tick)
      ∧ (4 ≤ o → loWord (o - 4) = true → loWord o = false → ∃ t, exec (.readLo ⟨off, []⟩) s = .next t ∧ t.meter = s.meter
        ∧ data t (tget c.latch (o - 4)) ∧ t.unit.latch = c.latch ∧ t.unit.calm = { c.calm with bus := t.unit.bus })
      ∧ (loWord o = false → (o < 4 ∨ loWord (o - 4) = false) → ∃ t, exec (.readLo ⟨off, []⟩) s = .next t ∧ t.meter = s.meter
        ∧ data t (c.readWord o).1 ∧ t.unit.latch = c.latch
        ∧ (reservedWord o = true → data t 0 ∧ t.unit.reg 0x01C = BitVec.ofNat 32 o)
        ∧ (reservedWord o = false → t.unit.calm = { c.calm with bus := t.unit.bus })
        ∧ (∀ q, q < 4096 → o = 0x20000 + 64 * q → t.unit.bus.reqLatch = some (q, (c.rq q).bytes q)))
      ∧ (∀ q k bs, q < 4096 → k < 64 → k % 4 = 0 → 0 < k → o = 0x20000 + 64 * q + k → c.bus.reqLatch = some (q, bs) →
        ∃ t, exec (.readLo ⟨off, []⟩) s = .next t ∧ data t (BitVec.ofNat 32 (leAt bs k 4))))
    ∧ (c.clk.held = false → o % 4 ≠ 0 → ∃ t, exec (.readLo ⟨off, []⟩) s = .next t ∧ t.meter = s.meter ∧ data t 0
      ∧ t.unit.reg 0x01C = BitVec.ofNat 32 (if reservedWord (o / 4 * 4) = true then o else 2 ^ 31 + o))
    ∧ (0x800000 ≤ o → o < 0x810000 → s.meter.powered = false → ∃ t, exec (.readLo ⟨off, []⟩) s = .next t ∧ data t 0 ∧ t.meter = s.meter)
    ∧ (c.clk.held = true → o < 0x800000 → ∃ t, exec (.readLo ⟨off, []⟩) s = .next t ∧ data t 0 ∧ t.meter = s.meter)
    ∧ (s.meter.powered = true → o % 4 = 0 → 0x800000 ≤ o → o < 0x80003C → meterLo (o - 0x800000) = false →
      (o < 0x800004 ∨ meterLo (o - 0x800004) = false) → ∃ t, exec (.readLo ⟨off, []⟩) s = .next t ∧ data t (s.meter.word (o - 0x800000))
      ∧ (o ≠ 0x80000C → t.meter = s.meter)
      ∧ (o = 0x80000C → t.meter.mismCnt = sat32 s.meter.mismCnt (s.meter.suspectDiffers fun _ => true)))

/-- Accesses of every width and path (R438, R453 to R457): two words in ascending order for 8 bytes, the bytes addressed for 1 or 2; a user
access that is allowed is served as a supervisor's is, one that is not is refused, and of the counter window with USER 0 not even recorded. -/
def Sys2Proof.Machine.AccessPart : Prop :=
  ∀ (write : Bool) (off : BitVec 24) (width : Nat) (val : DWord) (s : State), let c := s.unit
    let o := off.toNat
    let w := o / 4 * 4
    let lo := val.setWidth 32
    let hi := (val >>> 32).setWidth 32
    let denied := inCounters w = true ∧ write = false ∧ (c.rbit 0x200 0 = false ∨ 0x9F000 ≤ w)
    c.clk.held = false →
    (o % 4 = 0 → reservedWord o = false → ∀ t u, exec (.readLo ⟨off, []⟩) s = .next t → exec (.readLo ⟨off + 4#24, []⟩) t = .next u →
      exec (.refusedAccess false off 4 ⟨val, []⟩ .supervisor) s = .next t
      ∧ (o % 8 = 0 → exec (.refusedAccess false off 8 ⟨val, []⟩ .supervisor) s = .next { u with
        unit := { u.unit with bus := { u.unit.bus with rdata := u.unit.bus.rdata <<< 32 ||| t.unit.bus.rdata } } })
      ∧ (∀ k n : Nat, k < 4 → (n = 1 ∨ n = 2) → k % n = 0 →
        exec (.refusedAccess false (off + BitVec.ofNat 24 k) n ⟨val, []⟩ .supervisor) s = .next { t with
          unit := { t.unit with bus := { t.unit.bus with
            rdata := BitVec.ofNat 64 (t.unit.bus.rdata.toNat / 2 ^ (8 * k) % 2 ^ (8 * n)) } } }))
    ∧ (o % 8 = 0 → reservedWord o = false → reservedWord (o + 4) = false → ∀ t, exec (.registerWrite off ⟨lo, none⟩) s = .next t →
      t.unit.clk.held = false → exec (.refusedAccess true off 8 ⟨val, []⟩ .supervisor) s = exec (.registerWrite (off + 4#24) ⟨hi, none⟩) t)
    ∧ (userMay write o = true → ¬ denied → (write = true → inCounters w = false) →
      exec (.refusedAccess write off 4 ⟨val, []⟩ .user) s = exec (.refusedAccess write off 4 ⟨val, []⟩ .supervisor) s)
    ∧ (width ∈ [1, 2, 4] → denied → ∃ t, exec (.refusedAccess write off width ⟨val, []⟩ .user) s = .next t ∧ t.meter = s.meter
      ∧ t.unit.bus.rdata = 0 ∧ t.unit.calm = { c.calm with bus := t.unit.bus })
    ∧ (width ∈ [1, 2, 4] → ¬ denied → userMay write o = false → ∃ t, exec (.refusedAccess write off width ⟨val, []⟩ .user) s = .next t
      ∧ t.meter = s.meter ∧ t.unit.bus.rdata = 0 ∧ t.unit.reg 0x01C = BitVec.ofNat 32 (2 ^ 30 + o)
      ∧ t.unit.calm = (({ c with bus := t.unit.bus } : Chip).setReg 0x01C (BitVec.ofNat 32 (2 ^ 30 + o))).calm)
    ∧ (badWidth write o width = true → ∀ path, path = .user ∨ path = .supervisor → c.refusal path write o = none →
      ∃ t, exec (.refusedAccess write off width ⟨val, []⟩ path) s = .next t ∧ t.meter = s.meter ∧ t.unit.bus.rdata = 0
        ∧ t.unit.calm = (({ c with bus := t.unit.bus } : Chip).setReg 0x01C (BitVec.ofNat 32 (2 ^ 31 + o))).calm)
    ∧ (width ∈ [1, 2, 4] → 0x400000 ≤ o → o < 0x810000 → ∃ t, exec (.refusedAccess write off width ⟨val, []⟩ .controller) s = .next t
      ∧ t.meter = s.meter ∧ t.unit.bus.rdata = 0 ∧ t.unit.reg 0x01C = BitVec.ofNat 32 o)

/-- Accesses of the controller to its own ranges (R313, R316): data memory and the plan descriptor hold what was last written to them, the
bank of the running slot is read only. -/
def Sys2Proof.Machine.CorePart : Prop :=
  ∀ (off : BitVec 24) (width : Nat) (val : DWord) (s : State), let c := s.unit
    let o := off.toNat
    c.clk.held = false → (width = 1 ∨ width = 2 ∨ width = 4) →
    (exec (.refusedAccess false off width ⟨val, []⟩ .coreData) s = .next { s with unit := { c with bus := { c.bus with
        rdata := BitVec.ofNat 64 (rdLE c.fw.core.data o width) } } })
    ∧ (∃ t, exec (.refusedAccess true off width ⟨val, []⟩ .coreData) s = .next t ∧ t.meter = s.meter
      ∧ rdBytes t.unit.fw.core.data o width = toLE width val.toNat
      ∧ (∀ k, k < o ∨ o + width ≤ k → tget t.unit.fw.core.data k = tget c.fw.core.data k)
      ∧ t.unit.fw.core.pc = c.fw.core.pc ∧ t.unit.plan = c.plan ∧ t.unit.calm.ureg = c.calm.ureg)
    ∧ (o + width ≤ 64 → c.plan.desc.bytes.length = 64 → ∃ t, exec (.refusedAccess true off width ⟨val, []⟩ .descriptor) s = .next t
      ∧ t.meter = s.meter ∧ (∀ k, k < 64 → t.unit.plan.desc.bytes.getD k 0 =
        if o ≤ k ∧ k < o + width then (toLE width val.toNat).getD (k - o) 0 else c.plan.desc.bytes.getD k 0)
      ∧ t.unit.fw = c.fw ∧ t.unit.plan.cur = c.plan.cur)
    ∧ exec (.refusedAccess true off width ⟨val, []⟩ .coreBank) s = .next s

/-- Debug reads (R450, R451): refused while locked or running; otherwise the selected entry or word, and nothing changes but counts
and what a check finds: bad parity of an entry is counted, a corrected word is counted, an uncorrectable one is counted and has no other
consequence. -/
def Sys2Proof.Machine.DebugReadsPart : Prop :=
  ∀ s : State, let c := s.unit
    c.clk.held = false →
    (c.dbg.unlocked = false → (∀ e bad, ∃ t, exec (.dbgAcc e bad) s = .next t ∧ t.unit.bus.rdata = 0 ∧ t.meter = s.meter
        ∧ t.unit.calm = { c.calm with bus := t.unit.bus })
      ∧ ∀ a ecc, ∃ t, exec (.dbgPeek a ecc) s = .next t ∧ t.unit.bus.rdata = 0 ∧ t.meter = s.meter
        ∧ t.unit.calm = { c.calm with bus := t.unit.bus })
    ∧ (c.dbgLive = true → ∀ a l,
      (c.dbgLane c.dbg.accSel = some (a, l) → ∀ e : Fin 128, ∃ t, exec (.dbgAcc e false) s = .next t ∧ t.meter = s.meter
        ∧ t.unit.bus.rdata = (tget c.acc (accKey (256 * a + l) ((tget c.atoll a).activeSet != c.dbg.accSel.getLsbD 24)
            e.val)).setWidth 64
        ∧ t.unit.calm = { c.calm with bus := t.unit.bus })
      ∧ (c.dbgLane c.dbg.accSel = some (a, l) → ∀ e : Fin 128, ∃ t, exec (.dbgAcc e true) s = .next t ∧ t.meter = s.meter
        ∧ t.unit.atlReg (c.physOf a) 0x24 = sat32 (c.atlReg (c.physOf a) 0x24) 1
        ∧ t.unit.acc = c.acc ∧ t.unit.scratch = c.scratch ∧ t.unit.lagoon = c.lagoon)
      ∧ (c.dbgLane c.dbg.peekSel = some (a, l) → ∀ w : BitVec 15,
        (∃ t, exec (.dbgPeek w (some false)) s = .next t ∧ t.meter = s.meter
          ∧ t.unit.bus.rdata = (BitVec.ofNat 32 (rdLE c.scratch (padKey (256 * a + l) (w.toNat / 4 * 4)) 4)).setWidth 64
          ∧ t.unit.calm = { (c.setReg 0x16C (sat32 (c.reg 0x16C) 1)).calm with bus := t.unit.bus })
        ∧ (∃ t, exec (.dbgPeek w (some true)) s = .next t ∧ t.meter = s.meter
          ∧ t.unit.reg 0x170 = sat32 (c.reg 0x170) 1 ∧ t.unit.rbit 0x160 0 = true ∧ t.unit.rpr = c.rpr ∧ t.unit.stp = c.stp
          ∧ t.unit.acc = c.acc ∧ t.unit.scratch = c.scratch ∧ t.unit.lagoon = c.lagoon))
      ∧ (c.dbgLane c.dbg.peekSel = some (a, l) → ∀ w : BitVec 15, ∃ t, exec (.dbgPeek w none) s = .next t ∧ t.meter = s.meter
        ∧ t.unit.bus.rdata = (BitVec.ofNat 32 (rdLE c.scratch (padKey (256 * a + l) (w.toNat / 4 * 4)) 4)).setWidth 64
        ∧ t.unit.calm = { c.calm with bus := t.unit.bus }))

/-- Reads of the register window, and accesses of every width and path. The model's choices: log entries 13 and 17. -/
def Obligations.RegisterReads : Prop := ReadPart ∧ AccessPart ∧ CorePart ∧ DebugReadsPart

/-- A write of a plain register of the unit control page: RW bits take the value, a 1 clears an RW1C bit that hardware has not set in the
same cycle, every other bit stays (R11, R12, R13); a write of reserved space changes nothing but the record of the refusal, and so does a
misaligned one (R455, R456); a write to the active instruction bank is dropped and recorded (R281), one to the other bank changes nothing
(the model's choice, log entry 102). -/
def Sys2Proof.Machine.WritePart : Prop :=
  (∀ (off : BitVec 24) (val : Word) (s : State), s.unit.clk.held = true → exec (.registerWrite off ⟨val, none⟩) s = .next s)
  ∧ (∀ (off : BitVec 24) (val : Word) (r : RegRow) (s : State), s.unit.clk.held = false → ctrlRow off.toNat = some r →
    off.toNat ∉ [0x008, 0x020, 0x090, 0x0D4, 0x0D8, 0x0DC, 0x124, 0x12C] →
    ∃ t, exec (.registerWrite off ⟨val, none⟩) s = .next t ∧ t.meter = s.meter
      ∧ t.unit.calm = (s.unit.setReg off.toNat ((s.unit.reg off.toNat &&& ~~~ BitVec.ofNat 32 r.rw
          &&& ~~~ (BitVec.ofNat 32 r.w1c &&& val &&& ~~~ tget s.unit.cyc.set off.toNat)) ||| (val &&& BitVec.ofNat 32 r.rw))).calm)
  ∧ (∀ (off : BitVec 24) (val : Word) (s : State), s.unit.clk.held = false → reservedWord (off.toNat / 4 * 4) = true →
    ∃ t, exec (.registerWrite off ⟨val, none⟩) s = .next t ∧ t.meter = s.meter ∧ t.unit.reg 0x01C = BitVec.ofNat 32 off.toNat
      ∧ t.unit.calm = (({ s.unit with bus := t.unit.bus } : Chip).setReg 0x01C (BitVec.ofNat 32 off.toNat)).calm)
  ∧ (∀ (off : BitVec 24) (val : Word) (s : State), s.unit.clk.held = false → off.toNat % 4 = 0 → 0x800000 ≤ off.toNat →
    off.toNat < 0x810000 → reservedWord off.toNat = false →
    ∃ t, exec (.registerWrite off ⟨val, none⟩) s = .next t ∧ t.meter = s.meter ∧ t.unit.calm = s.unit.calm)
  ∧ (∀ (off : BitVec 24) (val : Word) (s : State), s.unit.clk.held = false → off.toNat % 4 ≠ 0 → reservedWord (off.toNat / 4 * 4) = false →
    ∃ t, exec (.registerWrite off ⟨val, none⟩) s = .next t ∧ t.meter = s.meter
      ∧ t.unit.calm = (({ s.unit with bus := t.unit.bus } : Chip).setReg 0x01C (BitVec.ofNat 32 (2 ^ 31 + off.toNat))).calm)
  ∧ ∀ (x : Fin 17 × Bool) (off : BitVec 24) (val : Word) (s : State), let c := s.unit
    (c.clk.held = true ∨ x.2 ≠ c.bankSel → exec (.registerWrite off ⟨val, some x⟩) s = .next s)
    ∧ (c.clk.held = false → x.2 = c.bankSel → ∃ t, exec (.registerWrite off ⟨val, some x⟩) s = .next t ∧ t.meter = s.meter
      ∧ t.unit.calm = (c.setAtl x.1.val 0x64 (c.atlReg x.1.val 0x64 ||| 2#32)).calm)

/-- Writes with rules of their own: RUN and RESET (R45, R46, R386, R477), UNIT_MERGECFG (R207), the parking registers (R275), CONS
(R262), UNIT_IRQMASK (R345, R346). That RESET loses posted beats is the model's reading (log entry 93), and that it empties the host's latches
of the meter window too (log entry 24). -/
def Sys2Proof.Machine.SpecialWritesPart : Prop :=
  ∀ (val : Word) (s : State), let c := s.unit
    let base : Chip := { c with tick := { c.tick with holdBase := c.clk.now, inHold := false, holdDue := false } }
    let up := if c.stopped ∨ c.run then c else (base.clrReg 0x024 0xC00#32).orReg 0x008 1#32
    let off := ({ c with tick := { c.tick with inHold := false, holdDue := false } } : Chip).clrReg 0x008 1#32
    let down := if c.ready ∧ !c.stp.active then off.markDue else off
    (c.clk.held = true → exec (.run val) s = .next s ∧ exec (.reset val) s = .next s ∧ exec (.mergecfgWrite val) s = .next s
      ∧ exec (.irqUnmask val) s = .next s)
    ∧ (c.clk.held = false →
      (val &&& 0xFFFF00FE#32 = 0#32 → exec (.run val) s = .next { s with unit := if val.getLsbD 0 then up else if c.run then down else c })
      ∧ (val &&& 0xFFFF00FE#32 = 4#32 → (val >>> 8) &&& 0xFF#32 = 0xA5#32 → exec (.reset val) s = .next { s with unit :=
        { Chip.reset with
          psram := c.psram, out := c.out, fresh := c.fresh, fw := { Chip.reset.fw with roll := c.fw.roll }
          pwr := { (default : PwrSt) with rails := c.pwr.rails, standby := c.pwr.standby } } })
      ∧ (∃ t, exec (.mergecfgWrite val) s = .next t ∧ t.meter = s.meter
        ∧ (fld val.toNat 13 8 ≤ fld val.toNat 5 0 → t.unit.calm =
          ({ c with regNext := tset c.regNext 0x090 (some (val &&& 0x80FF3F3F#32)) } : Chip).calm)
        ∧ (fld val.toNat 5 0 < fld val.toNat 13 8 → t.unit.calm = c.calm))
      ∧ (∀ p ∈ ([(0x0D4#24, 0xFF#32), (0x0D8#24, 0xFFFFF000#32), (0x0DC#24, 0xFFFF#32)] : List (BitVec 24 × Word)),
        ∃ t, exec (.parkConfigWrite p.1 val) s = .next t ∧ t.meter = s.meter
          ∧ (c.anyParked = true → t.unit.calm = c.calm)
          ∧ (c.anyParked = false → t.unit.calm = ({ c with regNext := tset c.regNext p.1.toNat (some (val &&& p.2)) } : Chip).calm))
      ∧ (∀ d, exec (.consWrite d val) s = .next { s with unit := { c with cons := tset c.cons d.toNat val } })
      ∧ (val &&& 0xFFFF0000#32 = 0#32 → ∃ t, exec (.irqUnmask val) s = .next t ∧ t.meter = s.meter
        ∧ t.unit.calm = (c.setReg 0x12C val).calm ∧ t.unit.ureg = tset c.ureg 0x12C val
        ∧ t.unit.out = c.out ++ ((List.range 16).filter fun i =>
            (c.reg 0x12C).getLsbD i && !val.getLsbD i && c.rbit 0x128 i && !c.cyc.sent.getLsbD i).map fun i => .msix (c.irqVector i)))

/-- A controller's write of a limit takes effect at the next tick field by field, and never loosens the value that will be in force
(R342, R343). -/
def Sys2Proof.Machine.LimitWritesPart : Prop :=
  ∀ (off : BitVec 24) (val : Word) (s : State), let c := s.unit
    let o := off.toNat
    (c.clk.held = true → exec (.limitWrite off val) s = .next s)
    ∧ (c.clk.held = false → ∃ t, exec (.limitWrite off val) s = .next t ∧ t.meter = s.meter
      ∧ t.unit.calm = { c.calm with regNext := t.unit.regNext }
      ∧ (∀ k, k ≠ o → tget t.unit.regNext k = tget c.regNext k)
      ∧ (∀ f ∈ limFields, f.off = o → fld (t.unit.lastWritten o).toNat f.hi f.lo =
          if c.limInt f val = .take then fld val.toNat f.hi f.lo else fld (c.lastWritten o).toNat f.hi f.lo)
      ∧ (o ∈ [0x148, 0x14C, 0x150, 0x154, 0x158] → t.unit.lastWritten o =
          if c.limFp o val (c.lastWritten (limPartner o)) = .take then val else c.lastWritten o))

/-- Writes of the register window. -/
def Obligations.RegisterWrites : Prop := WritePart ∧ SpecialWritesPart ∧ LimitWritesPart

/-! ### Boot, power and heat (R64 to R67, R347 to R349, R472 to R477) -/

/-- Reset release, alignment once HCLK runs, BIST and the boot ROM, which end by themselves, the images and READY (R64, R65, R336, R347 to
R349, R458, R463). What BIST finds is repaired in the map alone, with no event and no sticky bit: the model's choice, log entry 95. -/
def Sys2Proof.Machine.BootPart : Prop :=
  ∀ s : State, let c := s.unit
    (c.clk.held = true → c.pwr.standby = true → let lock := min Config.pllLock 525000
      exec .resetRelease s = .next { s with unit := { c with
        clk := { now := 0, fclk0 := lock, uclk0 := lock + 672, hclk0 := lock + 1344, ucyc := 0, phase := false, held := false }
        tick := { c.tick with lastChange := lock + 672 }, pwr := { c.pwr with rails := true, tripped := false } } })
    ∧ (c.clk.held = false ∨ c.pwr.standby = false → exec .resetRelease s = .next s)
    ∧ (∀ x, c.clk.held = true ∨ c.clk.now < c.clk.hclk0 ∨ c.boot ≠ 0 ∨ c.rbit 0x00C 8 = true → exec (.alignment x) s = .next s)
    ∧ (c.clk.held = false → c.clk.hclk0 ≤ c.clk.now → c.boot = 0 → c.rbit 0x00C 8 = false → ∀ bist,
      (∃ t, exec (.alignment ⟨true, bist⟩) s = .next t ∧ t.meter = s.meter ∧ t.unit = { c.setBoot 1 with rpr := { c.rpr with bist := bist } })
      ∧ ∃ t, exec (.alignment ⟨false, bist⟩) s = .next t ∧ t.meter = s.meter ∧ t.unit.calm = (c.orReg 0x00C 0x100#32).calm)
    ∧ (s.pending = [] → c.clk.held = false → c.tick.holdDue = false → ∃ t, step s = .next t
      ∧ (c.boot = 1 → c.clk.now < min Config.bistEnd 136500000 → t.unit.boot = 1 ∧ t.unit.rpr.bist = c.rpr.bist)
      ∧ (c.boot = 1 → min Config.bistEnd 136500000 ≤ c.clk.now → t.unit.boot = 2 ∧ t.unit.rpr.bist = []
        ∧ ∀ p l n k, c.runs = false → c.rpr.bist = [.lane p l] → p < 17 → c.logicalLane p l = some n → c.rpr.staged = [] →
          (c.freeSpares p).head? = some k → t.unit.spareHalf p k = 0x8000 + n)
      ∧ (c.boot = 2 → c.clk.now < min Config.romEnd 168000000 → t.unit.boot = 2)
      ∧ (c.boot = 2 → min Config.romEnd 168000000 ≤ c.clk.now → t.unit.boot = 3))
    ∧ (∀ a b, c.clk.held = true ∨ c.boot ≠ 3 → exec (.bootVerify a b) s = .next s)
    ∧ (∀ a b, c.clk.held = false → c.boot = 3 →
      let good := fun (i : List Byte) => policyOk i = true ∧ c.fw.roll.toNat ≤ imgSvn (i.take 256)
      let core := fun (i : List Byte) => ({ pc := BitVec.ofNat 32 (imgEntry (i.take 256)), x := [], data := [] } : CoreSt)
      (good a → exec (.bootVerify a b) s = .next { s with unit := ({ c with
        fw := { c.fw with slotA := fwSlotOf true a, active := false, core := core a } } : Chip).setBoot 4 })
      ∧ (¬ good a → good b → exec (.bootVerify a b) s = .next { s with unit := ({ c with
        fw := { c.fw with slotB := fwSlotOf true b, active := true, core := core b } } : Chip).setBoot 4 })
      ∧ (¬ good a → ¬ good b → ∃ t, exec (.bootVerify a b) s = .next t ∧ t.unit.boot = 6 ∧ t.unit.rbit 0x110 9 = true
        ∧ (t.unit.mb 0).state = .idle ∧ t.unit.fw = c.fw ∧ t.meter = s.meter))
    ∧ (∀ p l n k, p < 17 → c.logicalLane p l = some n → c.rpr.staged = [] → (c.freeSpares p).head? = some k →
      (c.bistFault (.lane p l)).spareHalf p k = 0x8000 + n ∧ (c.bistFault (.lane p l)).calm = { c.calm with
        areg := (c.bistFault (.lane p l)).areg })
    ∧ (c.clk.held = true ∨ c.boot ≠ 4 → exec .ready s = .next s)
    ∧ (c.clk.held = false → c.boot = 4 → ∃ t, exec .ready s = .next t ∧ t.meter = s.meter ∧ t.unit.ready = true ∧ t.unit.boot = 5
      ∧ t.unit.reg 0x128 = 0#32 ∧ t.unit.reg 0x12C = 0xFFFF#32
      ∧ (∀ p, p < 9 → c.portUp p = true → ∀ k ∈ ingressClasses,
        tget (t.unit.fb p).granted k = tget (c.fb p).granted k + (fullPool k - bootPool))
      ∧ (∀ p, p < 9 → t.unit.portLive p = true → ∀ k ∈ ingressClasses,
        .flit p (flitBytes 1 k false false 0 (tget (t.unit.fb p).granted k) []) ∈ t.unit.out)
      ∧ ∀ x ∈ t.unit.mbx, x.2.state = .idle ∧ x.2.seqValid = false ∧ x.2.routine = none)

/-- Power and heat (R67, R472 to R477): a loss of a rail and a trip reset the unit; windows, warnings and halvings set what
UNIT_TEMP and UNIT_PWRSTAT show. TJ at 105 °C, or a window above UNIT_LIMITS.POWER, halves the clock. -/
def Sys2Proof.Machine.PowerPart : Prop :=
  ∀ (tj : Byte) (s : State), let c := s.unit
    let heat := fun (u : Chip) => u.pwr.tj = tj ∧ u.reg 0x014 = BitVec.ofNat 32 (max (c.rfld 0x014 23 16) tj.toNat * 65536 + tj.toNat)
    (∃ t, exec (.railLoss false) s = .next t ∧ t.meter = s.meter ∧ t.unit.clk.held = true ∧ t.unit.pwr.rails = false
      ∧ t.unit.pwr.standby = c.pwr.standby ∧ t.unit.ureg = Chip.reset.ureg ∧ t.unit.req = [] ∧ t.unit.psram = c.psram)
    ∧ (∃ t, exec (.railLoss true) s = .next t ∧ t.unit.clk.held = true ∧ t.unit.pwr.standby = false ∧ t.unit.ureg = Chip.reset.ureg
      ∧ t.meter.powered = false ∧ t.meter.booted = false ∧ t.meter.fifo = [] ∧ t.meter.sealcnt = s.meter.sealcnt
      ∧ t.meter.audit = s.meter.audit ∧ t.meter.rollback = s.meter.rollback ∧ t.meter.cfg = s.meter.cfg)
    ∧ (tj.toNat < 115 → exec (.thermalTrip tj) s = .next s)
    ∧ (115 ≤ tj.toNat → ∃ t, exec (.thermalTrip tj) s = .next t ∧ t.meter = s.meter ∧ t.unit.clk.held = true
      ∧ t.unit.pwr.tripped = true ∧ t.unit.ureg = Chip.reset.ureg ∧ t.unit.req = [])
    ∧ (c.clk.held = true → exec (.thermWarn tj) s = .next s ∧ (∀ mw, exec (.powerWindow mw tj) s = .next s)
      ∧ ∀ a b, exec (.clkHalved a b tj) s = .next s)
    ∧ (c.clk.held = false →
      (∃ t, exec (.thermWarn tj) s = .next t ∧ t.meter = s.meter ∧ heat t.unit
        ∧ t.unit.reg 0x010 = (if 95 ≤ tj.toNat ∧ c.pwr.tj.toNat < 95 then c.reg 0x010 ||| 8#32 else c.reg 0x010))
      ∧ (∀ mw : Nat, ∃ t, exec (.powerWindow mw tj) s = .next t ∧ t.meter = s.meter ∧ heat t.unit
        ∧ t.unit.pwr.windows = (mw :: c.pwr.windows).take 8
        ∧ t.unit.rfld 0x010 23 16 = min 255 (mw / 1000) ∧ t.unit.rfld 0x010 15 8 = max (c.rfld 0x010 15 8) (min 255 (mw / 1000))
        ∧ t.unit.rbit 0x010 4 = (c.rbit 0x010 4 || decide (c.powerLimit < mw))
        ∧ t.unit.rbit 0x010 3 = (c.rbit 0x010 3 || decide (95 ≤ tj.toNat ∧ c.pwr.tj.toNat < 95)))
      ∧ (∀ thermal power : Bool, let hot := thermal && decide (105 ≤ tj.toNat)
        let drawn := power && c.overDrawn
        (hot = false → drawn = false → exec (.clkHalved thermal power tj) s = .next s)
        ∧ (hot = true ∨ drawn = true → ∃ t, exec (.clkHalved thermal power tj) s = .next t
        ∧ t.meter = s.meter ∧ heat t.unit ∧ t.unit.pwr.halved = true
        ∧ t.unit.rbit 0x010 0 = (c.rbit 0x010 0 || hot) ∧ t.unit.rbit 0x010 1 = (c.rbit 0x010 1 || drawn)
        ∧ t.unit.reg 0x018 = (if c.pwr.halved = true then c.reg 0x018 else sat32 (c.reg 0x018) 1))))

/-- Boot, power and heat. The model's choices: log entries 25, 26 and 95. -/
def Obligations.BootAndPower : Prop := BootPart ∧ PowerPart

/-! ### The token meter (R351 to R379) -/

/-- Power, the watchdog and boot (R351, R359, R360, R363 to R366): what survives, and which image runs. The model's choices: log
entries 20 and 21. -/
def Obligations.MeterBootRules : Prop :=
  ∀ s : State, let m := s.meter
    let kept := fun (n : Meter) => n.sealcnt = m.sealcnt ∧ n.audit = m.audit ∧ n.rollback = m.rollback ∧ n.cfg = m.cfg
      ∧ n.slot0 = m.slot0 ∧ n.slot1 = m.slot1
    (∃ t, exec .coldBoot s = .next t ∧ t.unit = { s.unit with pwr := { s.unit.pwr with standby := true } } ∧ kept t.meter
      ∧ t.meter.powered = true ∧ t.meter.booted = false ∧ t.meter.counting = false ∧ t.meter.copyA = [] ∧ t.meter.copyB = []
      ∧ t.meter.suspect = [] ∧ t.meter.fifo = [] ∧ t.meter.mtime = 0 ∧ t.meter.alert = 0 ∧ t.meter.dropCnt = 0 ∧ t.meter.mismCnt = 0
      ∧ t.meter.slot = false ∧ t.meter.loaderOnly = false)
    ∧ (m.powered = false → exec .meterWatchdog s = .next s)
    ∧ (m.powered = true → ∃ t, exec .meterWatchdog s = .next t ∧ t.unit = s.unit ∧ kept t.meter ∧ t.meter.booted = false
      ∧ t.meter.counting = false ∧ t.meter.warm = true ∧ t.meter.dynAddr = none ∧ t.meter.copyA = m.copyA ∧ t.meter.copyB = m.copyB
      ∧ t.meter.fifo = m.fifo ∧ t.meter.mtime = m.mtime ∧ t.meter.suspect = m.suspect ∧ t.meter.lastTick = m.lastTick
      ∧ t.meter.serial = 0 ∧ t.meter.slot = false ∧ t.meter.loaderOnly = false ∧ t.meter.firmware = [] ∧ t.meter.restB.firmware = [])
    ∧ (m.powered = false ∨ m.booted = true → exec .meterBoot s = .next s)
    ∧ (m.powered = true → m.booted = false →
      let first := m.nextSlot.getD m.bootSlot
      ∃ t, exec .meterBoot s = .next t ∧ t.unit.calm = s.unit.calm ∧ t.meter.booted = true ∧ t.meter.counting = true
        ∧ t.meter.sealcnt = (if m.sealcnt = 0xFFFFFFFF#32 then m.sealcnt else m.sealcnt + 1)
        ∧ (∀ one, (m.checkSlot one = 0#8 ∧ (one = first ∨ m.checkSlot first ≠ 0#8)) → t.meter.slot = one ∧ t.meter.loaderOnly = false
          ∧ t.meter.imgHash = sha384 (m.slotOf one).body ∧ (t.meter.slotOf one).verified = true
          ∧ t.meter.firmware = wrBytes [] 0 (m.slotOf one).body ∧ t.meter.restB.firmware = wrBytes [] 0 (m.slotOf one).body
          ∧ t.meter.rollback.toNat = max m.rollback.toNat (imgSvn (m.slotOf one).hdr))
        ∧ (m.checkSlot first ≠ 0#8 → m.checkSlot (!first) ≠ 0#8 → t.meter.loaderOnly = true ∧ t.meter.alert.getLsbD 6 = true
          ∧ t.meter.rollback = m.rollback)
        ∧ (m.sealcnt ≠ 0xFFFFFFFF#32 → (tget t.meter.audit ((m.sealcnt + 1).toNat % 256)).sealNo = m.sealcnt + 1
          ∧ (tget t.meter.audit ((m.sealcnt + 1).toNat % 256)).kind = (if m.warm = true then 2#8 else 1#8)))

/-- Beats, counters, scrubs and scheduled statements (R354, R355, R358, R359, R367 to R369). The model's choices: log entries 23,
93 and 94. -/
def Obligations.MeterCountRules : Prop :=
  ∀ s : State, let m := s.meter
    (∀ (b : BitVec 128) (ok : Bool), (s.unit.posted.head? ≠ some b → exec (.beat b ok) s = .next s)
      ∧ ∀ rest, s.unit.posted = b :: rest →
        let left := ({ s.unit with posted := rest } : Chip)
        (m.powered = false → exec (.beat b ok) s = .next { s with unit := left })
        ∧ (m.powered = true → (ok = false ∨ 8192 ≤ m.fifo.length) → ∃ t, exec (.beat b ok) s = .next t ∧ t.unit.calm = left.calm
          ∧ t.meter = { m with alert := m.alert ||| 8#7, raised := m.raised ||| 8#7, dropCnt := sat32 m.dropCnt 1 })
        ∧ (m.powered = true → ok = true → m.fifo.length < 8192 → ∃ t, exec (.beat b ok) s = .next t ∧ t.unit.calm = left.calm
          ∧ t.meter = { m with
              fifo := m.fifo ++ [b], high := max m.high (m.fifo.length + 1)
              alert := if m.cfg.fifoHi.toNat ≤ m.fifo.length + 1 then m.alert ||| 4#7 else m.alert
              raised := if m.cfg.fifoHi.toNat ≤ m.fifo.length + 1 then m.raised ||| 4#7 else m.raised }))
    ∧ (∀ u, m.counting = false ∨ m.fifo = [] → exec (.beatTake u) s = .next s)
    ∧ (∀ b r, m.counting = true → m.fifo = b :: r →
      let t1 := beatTenant b
      let n := beatCounts b
      let differ := tget m.copyA t1 ≠ tget m.copyB t1
      (∃ t, exec (.beatTake .clean) s = .next t ∧ t.unit.calm = s.unit.calm
        ∧ t.meter = { m with
            fifo := r, copyA := tset m.copyA t1 ((tget m.copyA t1).plus n), copyB := tset m.copyB t1 ((tget m.copyB t1).plus n)
            lastTick := b.setWidth 64, lastWasLast := b.getLsbD 127
            suspect := if differ ∧ t1 ∉ m.suspect then t1 :: m.suspect else m.suspect
            restB := { m.restB with suspect := if differ ∧ t1 ∉ m.restB.suspect then t1 :: m.restB.suspect else m.restB.suspect }
            mismCnt := if differ then sat32 m.mismCnt 1 else m.mismCnt
            alert := if differ then m.alert ||| 16#7 else m.alert
            raised := if differ then m.raised ||| 16#7 else m.raised })
      ∧ ∀ (inB : Bool) (x : BitVec 12), x.toNat = t1 → let v := (tget (if inB then m.copyA else m.copyB) t1).plus n
        ∃ t, exec (.beatTake (.oneCopy inB x)) s = .next t ∧ t.unit.calm = s.unit.calm
          ∧ t.meter = { m with
              fifo := r, copyA := tset m.copyA t1 v, copyB := tset m.copyB t1 v
              lastTick := b.setWidth 64, lastWasLast := b.getLsbD 127 })
    ∧ (m.booted = false ∨ m.loaderOnly = true ∨ m.cfg.stmtInt = 0#8 → exec .scheduledStatement s = .next s)
    ∧ (m.booted = true → m.loaderOnly = false → m.cfg.stmtInt ≠ 0#8 → ∃ t, exec .scheduledStatement s = .next t
      ∧ t.unit.calm = s.unit.calm ∧ t.meter.serial = m.serial + 1 ∧ t.meter.stmtSer = m.serial
      ∧ (∀ k, k ≠ m.serial.toNat % 16 → tget t.meter.stmts k = tget m.stmts k)
      ∧ (tget t.meter.stmts (m.serial.toNat % 16) =
          let b := Meter.statementBody { t.meter with serial := m.serial } 0 (64 * (m.serial.toNat % 64)) 64 (List.replicate 8 0#8)
          b ++ hmac256 meterKeyBytes b)
      ∧ t.meter.mtime = m.mtime ∧ t.meter.sealcnt = m.sealcnt ∧ t.meter.imgHash = m.imgHash
      ∧ (t.meter.lastWasLast = true ∨ t.meter.fifo = [])
      ∧ (m.lastWasLast = true → t.meter.copyA = m.copyA ∧ t.meter.copyB = m.copyB ∧ t.meter.fifo = m.fifo))
    ∧ (∀ l, m.powered = false → exec (.meterScrub l) s = .next s)
    ∧ (m.powered = true → ∃ t, exec (.meterScrub []) s = .next t ∧ t.unit.calm = s.unit.calm ∧ t.meter.copyA = m.copyA
      ∧ t.meter.copyB = m.copyB ∧ (∀ k, k ∈ t.meter.suspect ↔ k ∈ m.suspect ∨ tget m.copyA k ≠ tget m.copyB k)
      ∧ (m.restB = m.restA → m.copyA = m.copyB → t.meter = m))

/-- The seal counter and the image hash (R363 to R365): no reset and no command lowers the counter; a meter boot, the end of an image
load or a change of the configuration raises it by 1 and appends one audit entry, in the place of its number and in both copies, unless
the counter has stopped at its largest value; nothing else changes it, and no other audit entry changes but by an error that a read or a
scrub meets in the SRAM (R354). The image hash changes only at a meter boot. That a boot with the counter at its largest value appends no
audit entry: log entry 21. -/
def Obligations.SealRules : Prop :=
  ∀ (i : Instr) (s t : State), exec i s = .next t → let m := s.meter
    (t.meter.sealcnt = m.sealcnt ∧ (t.meter.audit = m.audit ∧ t.meter.restB.audit = m.restB.audit ∨ i.upsets = true)
      ∨ (i = .meterBoot ∨ (∃ a, i = .loadend a) ∨ ∃ a, i = .setcfg a) ∧ m.sealcnt ≠ 0xFFFFFFFF#32 ∧ t.meter.sealcnt = m.sealcnt + 1
        ∧ (tget t.meter.audit ((m.sealcnt + 1).toNat % 256)).sealNo = m.sealcnt + 1
        ∧ tget t.meter.restB.audit ((m.sealcnt + 1).toNat % 256) = tget t.meter.audit ((m.sealcnt + 1).toNat % 256)
        ∧ ∀ k, k ≠ (m.sealcnt + 1).toNat % 256 → tget t.meter.audit k = tget m.audit k
          ∧ tget t.meter.restB.audit k = tget m.restB.audit k)
    ∧ (t.meter.imgHash ≠ m.imgHash → i = .meterBoot)

/-- The commands of the meter's target (R366, R367, R370, R373 to R377): one that the target cannot take is not acknowledged and
changes nothing else; an accepted one acts and leaves its response. -/
def Sys2Proof.Machine.TargetCommandsPart : Prop :=
  ∀ s : State, let m := s.meter
    let on := m.targetUp = true
    let does := fun (i : Instr) (n : Meter) => ∃ t, exec i s = .next t ∧ t.meter = n ∧ t.unit.calm = s.unit.calm
    let replies := fun (n : Meter) (st : Byte) (d : List Byte) => { n with resp := some (st :: toLE 2 d.length ++ d), acked := true }
    (m.targetUp = false → ∀ i ∈ ([.statement, .readreg, .clralert, .loadbegin, .loaddata, .loadend, .activate, .setcfg] :
        List (List Byte → Instr)), ∀ args, exec (i args) s = .next { s with meter := { m with acked := false } })
    ∧ (m.targetUp = false → ∀ code, exec (.badcmd code) s = .next { s with meter := { m with acked := false } })
    ∧ (on → ∀ code, does (.badcmd code) (replies m 2 []))
    ∧ (on → ∀ args, m.loaderOnly = true → does (.statement args) (replies m 8 []) ∧ does (.setcfg args) (replies m 8 []))
    ∧ (on → ∀ args, m.loaderOnly = false → args.length = 11 → leAt args 0 2 + leAt args 2 1 ≤ 4096 → 1 ≤ leAt args 2 1 →
      leAt args 2 1 ≤ 64 → ∃ t, exec (.statement args) s = .next t ∧ t.unit.calm = s.unit.calm ∧ t.meter.serial = m.serial + 1
        ∧ t.meter.mtime = m.mtime ∧ t.meter.sealcnt = m.sealcnt ∧ t.meter.imgHash = m.imgHash ∧ t.meter.stmts = m.stmts
        ∧ t.meter.stmtSer = m.stmtSer ∧ (t.meter.lastWasLast = true ∨ t.meter.fifo = [])
        ∧ (let b := Meter.statementBody { t.meter with serial := m.serial } 1 (leAt args 0 2) (leAt args 2 1) (args.drop 3)
          t.meter.resp = some (0#8 :: toLE 2 (b ++ hmac256 meterKeyBytes b).length ++ (b ++ hmac256 meterKeyBytes b)))
        ∧ (m.lastWasLast = true → t.meter.copyA = m.copyA ∧ t.meter.copyB = m.copyB))
    ∧ (on → ∀ args, m.loaderOnly = false → (args.length ≠ 11 ∨ 4096 < leAt args 0 2 + leAt args 2 1 ∨ leAt args 2 1 = 0
        ∨ 64 < leAt args 2 1) → does (.statement args) (replies m 3 []))
    ∧ (on → ∀ args, args.length = 3 → leAt args 0 2 % 4 = 0 → 1 ≤ leAt args 2 1 → leAt args 2 1 ≤ 64 →
      leAt args 0 2 + 4 * leAt args 2 1 ≤ 65536 → ∃ l d e, d.length = 4 * leAt args 2 1
        ∧ does (.readreg args) (replies { m.differs e with latch := l } 0 d)
        ∧ (m.restB.audit = m.audit → m.restB.stmts = m.stmts → (∀ k, k ∈ m.suspect ↔ k ∈ m.restB.suspect) → e = 0)
        ∧ (leAt args 2 1 = 1 → meterLo (leAt args 0 2) = false → (leAt args 0 2 < 4 ∨ meterLo (leAt args 0 2 - 4) = false) →
          d = toLE 4 (m.word (leAt args 0 2)).toNat))
    ∧ (on → ∀ args, args.length = 2 →
      does (.clralert args) (replies { m with alert := m.alert &&& (~~~ BitVec.ofNat 7 (leNat args) ||| m.raised) } 0 []))
    ∧ (on → ∀ one : Bool, (m.loaderOnly = false → m.slot = one → does (.loadbegin [if one then 1 else 0]) (replies m 7 []))
      ∧ (m.loaderOnly = true ∨ m.slot ≠ one → ∃ t, exec (.loadbegin [if one then 1 else 0]) s = .next t ∧ t.unit.calm = s.unit.calm
        ∧ t.meter.loading = some one ∧ t.meter.slotOf one = { bytes := [], verified := false }
        ∧ t.meter.slotOf (!one) = m.slotOf (!one) ∧ t.meter.resp = some [0, 0, 0])
      ∧ ((m.slotOf one).verified = false → does (.activate [if one then 1 else 0]) (replies m 4 []))
      ∧ ((m.slotOf one).verified = true → ∃ t, exec (.activate [if one then 1 else 0]) s = .next t ∧ t.unit.calm = s.unit.calm
        ∧ t.meter.nextSlot = some one ∧ t.meter.warm = true ∧ t.meter.booted = false ∧ t.meter.copyA = m.copyA
        ∧ t.meter.copyB = m.copyB ∧ t.meter.fifo = m.fifo)
      ∧ (m.loading = some one → ∀ args, 4 < args.length → args.length ≤ 244 → leAt args 0 4 + (args.length - 4) ≤ 33024 →
        ∃ t, exec (.loaddata args) s = .next t ∧ t.unit.calm = s.unit.calm ∧ t.meter.slotOf (!one) = m.slotOf (!one)
          ∧ (t.meter.slotOf one).bytes = wrBytes (m.slotOf one).bytes (leAt args 0 4) (args.drop 4)
          ∧ t.meter.resp = some [0, 0, 0])
      ∧ (m.loading = some one → m.sealSat = false → ∃ t, exec (.loadend []) s = .next t ∧ t.unit.calm = s.unit.calm
        ∧ t.meter.loading = none ∧ (t.meter.slotOf one).verified = decide (m.checkSlot one = 0#8)
        ∧ t.meter.sealcnt = m.sealcnt + 1 ∧ (tget t.meter.audit ((m.sealcnt + 1).toNat % 256)).kind = 3#8
        ∧ t.meter.resp = some [m.checkSlot one, 1, 0, m.checkSlot one])
      ∧ (m.loading = some one → m.sealSat = true → does (.loadend []) (replies m 6 [])))
    ∧ (on → m.loading = none → ∀ args, does (.loaddata args) (replies m 3 []) ∧ does (.loadend args) (replies m 3 []))
    ∧ (on → ∀ args, m.loaderOnly = false → args.length = 16 → leAt args 0 1 < 128 → leAt args 2 2 < 128 → 1 ≤ leAt args 4 2 →
      leAt args 4 2 ≤ 8192 → leAt args 6 10 = 0 → m.sealSat = false → ∃ t, exec (.setcfg args) s = .next t ∧ t.unit.calm = s.unit.calm
        ∧ t.meter.cfg = { staticAddr := BitVec.ofNat 7 (leAt args 0 1), stmtInt := BitVec.ofNat 8 (leAt args 1 1)
                          alertMask := BitVec.ofNat 7 (leAt args 2 2), fifoHi := BitVec.ofNat 16 (leAt args 4 2) }
        ∧ t.meter.sealcnt = m.sealcnt + 1 ∧ (tget t.meter.audit ((m.sealcnt + 1).toNat % 256)).kind = 4#8
        ∧ t.meter.resp = some [0, 0, 0])

/-- Reads, common commands and pin faults of the meter's target (R373, R375). -/
def Sys2Proof.Machine.TargetBusPart : Prop :=
  ∀ s : State, let m := s.meter
    let put := fun (n : Meter) => Host.Outcome.next { s with meter := n }
    let reads : List (Instr × List Byte) :=
      [(.privateRead, m.resp.getD [1, 0, 0]), (.getpid, (List.range 6).map Config.i3cPid), (.getbcr, [Config.i3cBcr]),
       (.getdcr, [Config.i3cDcr]), (.getmrl, [8, 0]), (.getmwl, [1, 0])]
    let set := fun (i : Instr) (n : Meter) => exec i s = put (if m.targetUp then { n with acked := true } else { m with acked := false })
    (∀ p ∈ reads, set p.1 { m with rdata := p.2 })
    ∧ (∀ a, set (.entdaa a) { m with dynAddr := some (m.dynAddr.getD a) } ∧ set (.setdasa a) { m with dynAddr := some (m.dynAddr.getD a) }
      ∧ set (.setnewda a) { m with dynAddr := m.dynAddr.map fun _ => a })
    ∧ set .rstdaa { m with dynAddr := none }
    ∧ (∀ x, set (.enec x) { m with events := m.events ||| x } ∧ set (.disec x) { m with events := m.events &&& ~~~ x })
    ∧ (∀ x, exec (.unsupportedCcc x) s = put { m with acked := false })
    ∧ (∃ d, d.length = 2 ∧ exec .getstatus s = .next { s with
        meter := if m.targetUp then { m with rdata := d, acked := true } else { m with acked := false }
        unit := { s.unit with fresh := s.unit.fresh + 1 } })
    ∧ ∀ p ∈ ([(.stuckLow false, 0, true), (.stuckLow true, 1, true), (.lineRecovery false, 0, false), (.lineRecovery true, 1, false),
        (.swapped true, 4, true), (.swapped false, 4, false), (.shorted, 5, true), (.linesDiffer, 5, false), (.alertStuck true, 6, true),
        (.alertStuck false, 6, false)] : List (Instr × Nat × Bool)),
      (m.powered = false → exec p.1 s = .next s ∧ ∀ a b, exec (.openProbe a b) s = .next s)
      ∧ (m.powered = true → (∃ t, exec p.1 s = .next t ∧ t.unit.calm = s.unit.calm ∧ t.meter = { m with
          pin := t.meter.pin, alert := if p.2.2 then m.alert ||| 32#7 else m.alert
          raised := if p.2.2 then m.raised ||| 32#7 else m.raised }
          ∧ ∀ i, i < 7 → t.meter.pin.getLsbD i = if i = p.2.1 then p.2.2 else m.pin.getLsbD i)
        ∧ ∀ a b, ∃ t, exec (.openProbe a b) s = .next t ∧ t.unit.calm = s.unit.calm ∧ t.meter = { m with
          pin := t.meter.pin, alert := if a || b then m.alert ||| 32#7 else m.alert
          raised := if a || b then m.raised ||| 32#7 else m.raised }
          ∧ ∀ i, i < 7 → t.meter.pin.getLsbD i = if i = 2 then a else if i = 3 then b else m.pin.getLsbD i)

/-- The meter's target: its commands, reads, common commands and pin faults. The model's choices: log entry 22. -/
def Obligations.MeterTarget : Prop := TargetCommandsPart ∧ TargetBusPart

/-! ### The whole block -/

/-- An empty queue lets one UCLK pass (log entry 2, the model's choice): time since reset release moves while the unit is out of
reset; the UCLK domain moves once UCLK is released, and at half that pace while it is divided (R64, R67, R476); the meter's clock moves
once in 21 while it has power (R351, R367), and with it the bits that a clear cannot take back end (R379). Where no tick of the cycle waits to
be judged, no step is in progress, no merge message waits and no boot stage runs, nothing of the unit changes but what the clock counts. -/
def Obligations.IdleStep : Prop :=
  ∀ s : State, s.pending = [] → let c := s.unit
    let beat := (c.pwr.halved = false ∨ c.clk.phase = true) ∧ c.clk.uclk0 ≤ c.clk.now
    ∃ t, step s = .next t ∧ t.pending = []
    ∧ (c.clk.held = true → t.unit = c)
    ∧ (c.clk.held = false → t.unit.clk.now = c.clk.now + 1 ∧ t.unit.clk.held = false
      ∧ t.unit.clk.ucyc = c.clk.ucyc + (if beat then 1 else 0)
      ∧ t.unit.tick.holdDue = false ∧ (beat → t.unit.tick.missDue = none ∧ t.unit.tick.capDue = false)
      ∧ (c.tick.holdDue = false → c.tick.missDue = none → c.stp.active = false → c.stp.planDue = none → c.merge.held = [] →
        (c.boot = 0 ∨ 3 ≤ c.boot) →
        t.unit.clk.phase = (c.pwr.halved && !c.clk.phase)
        ∧ t.unit.calm = { c.calm with
            clk := t.unit.clk
            tick := { c.tick with capDue := if beat then false else c.tick.capDue } }))
    ∧ (s.meter.powered = false → t.meter = s.meter)
    ∧ (s.meter.powered = true → t.meter = if s.meter.frac + 1 < 21 then { s.meter with frac := s.meter.frac + 1 }
        else { s.meter with frac := 0, mtime := s.meter.mtime + 1, raised := 0 })

/-- The reset values that the spec states, field by field (R17, R45, R61, R62, R115, R142, R205, R230, R273, R341, R342, R345, R347, R377,
R421, R458). The model's choices: the empty queue and the held reset (log entry 1), MTR_SEALCNT and the rollback counter at 0, for which the
spec has no first value (log entry 4). -/
def Obligations.ResetValues : Prop :=
  let c := State.reset.unit
  State.reset.pending = [] ∧ c.clk.held = true ∧ c.tick = default ∧ c.reg 0x000 = 0x0C1030B1#32 ∧ c.ctrlWord 0x008 = 0#32
    ∧ c.ctrlWord 0x00C = 0#32 ∧ c.reg 0x020 = 0x000803E8#32 ∧ c.ctrlWord 0x024 = 0#32 ∧ c.reg 0x090 = 0#32 ∧ c.reg 0x0A0 = 0#32
    ∧ c.reg 0x120 = 1#32 ∧ c.reg 0x124 = 0x10#32 ∧ c.reg 0x128 = 0#32 ∧ c.reg 0x12C = 0xFFFF#32
    ∧ c.reg 0x140 = 0xFB002200#32 ∧ c.reg 0x144 = 0x1000#32 ∧ c.reg 0x148 = 0x3C23D70A#32 ∧ c.reg 0x14C = 0x42C80000#32
    ∧ c.reg 0x150 = 0x3DCCCCCD#32 ∧ c.reg 0x154 = 0x41200000#32 ∧ c.reg 0x158 = 0x40800000#32 ∧ c.reg 0x160 = 0#32
    ∧ (∀ p, p < 17 → c.atlReg p 0x00 = 0x01000800#32 ∧ c.atlReg p 0x64 = 0#32 ∧ c.atlReg p 0x6C = 0#32)
    ∧ (∀ m : Mbx, (c.mb m).state = .busyBoot) ∧ (∀ q, (c.rq q).state = .free) ∧ c.plan.cur = none ∧ c.plan.staged = none
    ∧ c.recseq = 0 ∧ c.log.seq = 0 ∧ c.dbg.unlocked = false ∧ c.lock.bound = false
    ∧ State.reset.meter.cfg = { staticAddr := 0x3A#7, stmtInt := 16#8, alertMask := 0#7, fifoHi := 6144#16 }
    ∧ State.reset.meter.sealcnt = 0 ∧ State.reset.meter.rollback = 0 ∧ c.memWf = true

/-- The byte memories: a write of bytes reads back, leaves every other address alone, and keeps the canonical form; equal reads at every
address mean equal memories. The model's choices: log entry 5. -/
def Obligations.MemoryOperations : Prop :=
  (∀ (m : SMap Byte) (a : Nat) (bs : List Byte), rdBytes (wrBytes m a bs) a bs.length = bs
    ∧ (∀ k, k < a ∨ a + bs.length ≤ k → tget (wrBytes m a bs) k = tget m k)
    ∧ (canonical m = true → canonical (wrBytes m a bs) = true))
  ∧ (∀ (m : SMap Byte) (a n v : Nat), v < 256 ^ n → rdLE (wrBytes m a (toLE n v)) a n = v)
  ∧ ∀ m n : SMap Byte, canonical m = true → canonical n = true → (∀ k, tget m k = tget n k) → m = n

/-- Nothing of the unit reaches the meter but a beat (R352): two blocks with equal meters and equal beats on the way that run one command
that completes have equal meters afterwards, whatever else their units hold (but for the free value that GETSTATUS returns); a command
that is none of the meter's own leaves the meter as it was, but that a host read of the window may find two copies that differ (R354). -/
def Obligations.MeterIsolated : Prop :=
  (∀ (i : Instr) (s t u v : State), s.meter = u.meter → s.unit.posted = u.unit.posted → exec i s = .next t → exec i u = .next v →
    t.meter = v.meter ∨ (i = .getstatus ∧ { t.meter with rdata := [] } = { v.meter with rdata := [] }))
  ∧ ∀ (i : Instr) (s t : State), exec i s = .next t → i.meterOwn = false →
    t.meter = s.meter ∨ (((∃ o, i = .readLo o ∨ i = .entryLatchRead o) ∨ ∃ w o n d p, i = .refusedAccess w o n d p)
      ∧ ∃ n, t.meter = s.meter.differs n)

/-- Every step keeps what the meter promises: FIFO and high-water mark within 8,192 beats, a legal FIFOHI, no image running or counting
before boot has completed, no slot open for writing while it runs; and every step that meets no error in the meter's SRAM keeps every
audit entry, in both copies, in the place of its seal number. -/
def Obligations.MeterInvariantKept : Prop :=
  (∀ s t : State, s.meter.inv → step s = .next t → t.meter.inv)
  ∧ ∀ s t : State, s.meter.auditWf → (∀ i ∈ s.pending.head?, i.upsets = false) → step s = .next t → t.meter.auditWf

/-- The invariants hold after reset. -/
def Obligations.MeterInvariantAtReset : Prop := State.reset.meter.inv ∧ State.reset.meter.auditWf

/-- Every step keeps the byte memories of the unit in canonical form: addresses rise, and no entry holds what an unlisted address
reads as. The model's choices: log entry 5. -/
def Obligations.MemoryStaysCanonical : Prop :=
  ∀ s t : State, s.unit.memWf = true → step s = .next t → t.unit.memWf = true
end

