-- ==== Sys2Proof/Laws/Tables.lean ====
section
/-!
SUPPORT. Laws of the sparse tables and the byte memories: what a table holds after an update, and that every operation keeps
the canonical form.
-/
namespace Sys2Proof.Machine

variable {α : Type}

theorem tget_tdel_same [Inhabited α] (m : SMap α) (k : Nat) : tget (tdel m k) k = default := by
  induction m with
  | nil => rfl
  | cons e r ih => by_cases h : e.1 = k <;> simp [tdel, tget, h, ih]

theorem tget_tdel_ne [Inhabited α] (m : SMap α) {k j : Nat} (h : j ≠ k) : tget (tdel m k) j = tget m j := by
  induction m with
  | nil => rfl
  | cons e r ih =>
    by_cases hk : e.1 = k
    · have : ¬ k = j := fun x => h x.symm
      simp [tdel, tget, hk, ih, this]
    · by_cases hj : e.1 = j <;> simp [tdel, tget, hk, hj, ih, h]

theorem tget_tins_same [Inhabited α] (m : SMap α) (k : Nat) (v : α) (h : ∀ e ∈ m, e.1 ≠ k) : tget (tins m k v) k = v := by
  induction m with
  | nil => simp [tins, tget]
  | cons e r ih =>
    have he : e.1 ≠ k := h e (by simp)
    by_cases hk : k < e.1
    · simp [tins, tget, hk]
    · simp [tins, tget, hk, he, ih fun x hx => h x (by simp [hx])]

theorem tget_tins_ne [Inhabited α] (m : SMap α) {k j : Nat} (v : α) (h : j ≠ k) : tget (tins m k v) j = tget m j := by
  induction m with
  | nil => simp [tins, tget, Ne.symm h]
  | cons e r ih => by_cases hk : k < e.1 <;> simp [tins, tget, hk, Ne.symm h, ih]

theorem tdel_keys (m : SMap α) (k : Nat) : ∀ e ∈ tdel m k, e ∈ m ∧ e.1 ≠ k := by
  induction m with
  | nil => simp [tdel]
  | cons x r ih =>
    intro e he
    by_cases hk : x.1 = k
    · simp [tdel, hk] at he
      exact ⟨by simp [(ih e he).1], (ih e he).2⟩
    · simp [tdel, hk] at he
      rcases he with rfl | he
      · exact ⟨by simp, hk⟩
      · exact ⟨by simp [(ih e he).1], (ih e he).2⟩

/-- A table holds at a key what it was last set to. -/
@[simp] theorem tget_tset_same [DecidableEq α] [Inhabited α] (m : SMap α) (k : Nat) (v : α) : tget (tset m k v) k = v := by
  by_cases h : v = default
  · simp [tset, h, tget_tdel_same]
  · simp [tset, h, tget_tins_same _ _ _ fun e he => (tdel_keys m k e he).2]

/-- Setting a key leaves every other key alone. -/
theorem tget_tset_ne [DecidableEq α] [Inhabited α] (m : SMap α) {k j : Nat} (v : α) (h : j ≠ k) : tget (tset m k v) j = tget m j := by
  by_cases hv : v = default
  · simp [tset, hv, tget_tdel_ne _ h]
  · simp [tset, hv, tget_tins_ne _ _ h, tget_tdel_ne _ h]

theorem tget_tset [DecidableEq α] [Inhabited α] (m : SMap α) (k j : Nat) (v : α) :
    tget (tset m k v) j = if j = k then v else tget m j := by
  by_cases h : j = k
  · simp [h]
  · simp [h, tget_tset_ne _ _ h]

theorem tget_tmod [DecidableEq α] [Inhabited α] (m : SMap α) (k j : Nat) (f : α → α) :
    tget (tmod m k f) j = if j = k then f (tget m k) else tget m j := by
  simp [tmod, tget_tset]

@[simp] theorem tget_tmod_same [DecidableEq α] [Inhabited α] (m : SMap α) (k : Nat) (f : α → α) :
    tget (tmod m k f) k = f (tget m k) := by simp [tmod]

theorem tget_tmod_ne [DecidableEq α] [Inhabited α] (m : SMap α) {k j : Nat} (f : α → α) (h : j ≠ k) :
    tget (tmod m k f) j = tget m j := by simp [tmod, tget_tset_ne _ _ h]

/-- A filter by key. -/
theorem tget_filter [Inhabited α] (m : SMap α) (q : Nat → Bool) (k : Nat) :
    tget (m.filter fun e => !q e.1) k = if q k then default else tget m k := by
  induction m with
  | nil => simp [tget]
  | cons e r ih =>
    rw [List.filter_cons]
    by_cases h : q e.1 = true
    · rw [if_neg (by simp [h]), ih]
      by_cases hk : q k = true
      · simp [hk]
      · have : e.1 ≠ k := fun e => hk (e ▸ h)
        simp [hk, tget, this]
    · rw [if_pos (by simp [h])]
      unfold tget
      by_cases hk : e.1 = k
      · subst hk; simp [h]
      · simpa [hk] using ih

theorem tdel_tdel (m : SMap α) (k : Nat) : tdel (tdel m k) k = tdel m k := by
  induction m with
  | nil => rfl
  | cons e r ih => by_cases h : e.1 = k <;> simp [tdel, h, ih]
theorem tdel_of_ne (m : SMap α) (k : Nat) (h : ∀ e ∈ m, e.1 ≠ k) : tdel m k = m := by
  induction m with
  | nil => rfl
  | cons e r ih => simp [tdel, h e (by simp), ih fun x hx => h x (by simp [hx])]
theorem tdel_tins (m : SMap α) (k : Nat) (v : α) (h : ∀ e ∈ m, e.1 ≠ k) : tdel (tins m k v) k = m := by
  induction m with
  | nil => simp [tins, tdel]
  | cons e r ih =>
    have he := h e (by simp)
    by_cases hk : k < e.1
    · simp [tins, hk, tdel, he, tdel_of_ne r k fun x hx => h x (by simp [hx])]
    · simp [tins, hk, tdel, he, ih fun x hx => h x (by simp [hx])]
theorem tdel_tset [DecidableEq α] [Inhabited α] (m : SMap α) (k : Nat) (v : α) : tdel (tset m k v) k = tdel m k := by
  by_cases h : v = default
  · simp [tset, h, tdel_tdel]
  · simp [tset, h, tdel_tins _ _ _ fun e he => (tdel_keys m k e he).2]
/-- Of two values set at a key the second stays. -/
theorem tset_tset [DecidableEq α] [Inhabited α] (m : SMap α) (k : Nat) (v w : α) : tset (tset m k v) k w = tset m k w := by
  simp only [tset]
  have := tdel_tset m k v
  simp only [tset] at this
  rw [this]
/-! ### The canonical form -/

/-- Every key of a table is above a bound. -/
def keysAbove (b : Nat) (m : SMap α) : Prop := ∀ e ∈ m, b < e.1

theorem keysRise_cons (e : Nat × α) (r : SMap α) : keysRise (e :: r) = true ↔ keysAbove e.1 r ∧ keysRise r = true := by
  induction r generalizing e with
  | nil => simp [keysRise, keysAbove]
  | cons x r ih =>
    simp only [keysRise, Bool.and_eq_true, decide_eq_true_eq]
    rw [ih x]
    constructor
    · rintro ⟨h1, h2, h3⟩
      refine ⟨?_, h2, h3⟩
      intro y hy
      rcases List.mem_cons.1 hy with rfl | hy
      · exact h1
      · exact Nat.lt_trans h1 (h2 y hy)
    · rintro ⟨h1, h2, h3⟩
      exact ⟨h1 x (by simp), h2, h3⟩

theorem keysRise_tdel (m : SMap α) (k : Nat) (h : keysRise m = true) : keysRise (tdel m k) = true := by
  induction m with
  | nil => rfl
  | cons e r ih =>
    rw [keysRise_cons] at h
    by_cases hk : e.1 = k
    · simpa [tdel, hk] using ih h.2
    · simp only [tdel, hk, if_false]
      rw [keysRise_cons]
      exact ⟨fun x hx => h.1 x (tdel_keys r k x hx).1, ih h.2⟩

theorem mem_tins (m : SMap α) (k : Nat) (v : α) (e : Nat × α) (h : e ∈ tins m k v) : e = (k, v) ∨ e ∈ m := by
  induction m with
  | nil => simpa [tins] using h
  | cons x r ih =>
    by_cases hk : k < x.1
    · simpa [tins, hk] using h
    · simp only [tins, hk, if_false, List.mem_cons] at h
      rcases h with rfl | h
      · exact .inr (by simp)
      · rcases ih h with h | h
        · exact .inl h
        · exact .inr (by simp [h])

theorem keysRise_tins (m : SMap α) (k : Nat) (v : α) (h : keysRise m = true) (hk : ∀ e ∈ m, e.1 ≠ k) :
    keysRise (tins m k v) = true := by
  induction m with
  | nil => rfl
  | cons e r ih =>
    rw [keysRise_cons] at h
    by_cases hl : k < e.1
    · simp only [tins, hl, if_true]
      rw [keysRise_cons, keysRise_cons]
      refine ⟨fun x hx => ?_, h⟩
      rcases List.mem_cons.1 hx with rfl | hx
      · exact hl
      · exact Nat.lt_trans hl (h.1 x hx)
    · simp only [tins, hl, if_false]
      rw [keysRise_cons]
      refine ⟨fun x hx => ?_, ih h.2 fun x hx => hk x (by simp [hx])⟩
      rcases mem_tins r k v x hx with rfl | hx
      · have := hk e (by simp)
        show e.1 < k
        omega
      · exact h.1 x hx

/-- Setting a key keeps the canonical form. -/
theorem tset_canonical [DecidableEq α] [Inhabited α] (m : SMap α) (k : Nat) (v : α) (h : canonical m = true) :
    canonical (tset m k v) = true := by
  simp only [canonical, Bool.and_eq_true, List.all_eq_true, decide_eq_true_eq] at h ⊢
  by_cases hv : v = default
  · simp only [tset, hv, if_true]
    exact ⟨keysRise_tdel m k h.1, fun e he => h.2 e (tdel_keys m k e he).1⟩
  · simp only [tset, hv, if_false]
    refine ⟨keysRise_tins _ k v (keysRise_tdel m k h.1) fun e he => (tdel_keys m k e he).2, fun e he => ?_⟩
    rcases mem_tins _ k v e he with rfl | he
    · exact hv
    · exact h.2 e (tdel_keys m k e he).1

theorem tmod_canonical [DecidableEq α] [Inhabited α] (m : SMap α) (k : Nat) (f : α → α) (h : canonical m = true) :
    canonical (tmod m k f) = true := tset_canonical m k _ h

theorem tdel_canonical [DecidableEq α] [Inhabited α] (m : SMap α) (k : Nat) (h : canonical m = true) :
    canonical (tdel m k) = true := by
  simp only [canonical, Bool.and_eq_true, List.all_eq_true, decide_eq_true_eq] at h ⊢
  exact ⟨keysRise_tdel m k h.1, fun e he => h.2 e (tdel_keys m k e he).1⟩

/-- Two canonical tables that hold the same at every key are the same table. -/
theorem canonical_ext [DecidableEq α] [Inhabited α] (m n : SMap α) (hm : canonical m = true) (hn : canonical n = true)
    (h : ∀ k, tget m k = tget n k) : m = n := by
  have low : ∀ (m : SMap α) (k : Nat), (∀ e ∈ m, k < e.1) → tget m k = default := by
    intro m k
    induction m with
    | nil => intro _; rfl
    | cons e r ih =>
      intro h
      have h1 := h e (by simp)
      have : ¬ e.1 = k := by omega
      simp only [tget, this, if_false]
      exact ih fun x hx => h x (by simp [hx])
  simp only [canonical, Bool.and_eq_true, List.all_eq_true, decide_eq_true_eq] at hm hn
  induction m generalizing n with
  | nil =>
    cases n with
    | nil => rfl
    | cons e r =>
      have := h e.1
      simp only [tget, if_true] at this
      exact absurd this.symm (hn.2 e (by simp))
  | cons e r ih =>
    cases n with
    | nil =>
      have := h e.1
      simp only [tget, if_true] at this
      exact absurd this (hm.2 e (by simp))
    | cons f q =>
      have he := (keysRise_cons e r).1 hm.1
      have hf := (keysRise_cons f q).1 hn.1
      have hk : e.1 = f.1 := by
        rcases Nat.lt_trichotomy e.1 f.1 with hl | hl | hl
        · have h1 := h e.1
          have h2 : tget (f :: q) e.1 = default := low _ _ (fun x hx => by
            rcases List.mem_cons.1 hx with rfl | hx
            · exact hl
            · exact Nat.lt_trans hl (hf.1 x hx))
          simp only [tget, if_true] at h1
          exact absurd (h1.trans h2) (hm.2 e (by simp))
        · exact hl
        · have h1 := h f.1
          have h2 : tget (e :: r) f.1 = default := low _ _ (fun x hx => by
            rcases List.mem_cons.1 hx with rfl | hx
            · exact hl
            · exact Nat.lt_trans hl (he.1 x hx))
          simp only [tget, if_true] at h1
          exact absurd (h1.symm.trans h2) (hn.2 f (by simp))
      have hv : e.2 = f.2 := by
        have h1 := h e.1
        simp only [tget, if_true, hk] at h1
        exact h1
      have hr : r = q := by
        refine ih q (fun k => ?_) ⟨he.2, fun x hx => hm.2 x (by simp [hx])⟩ ⟨hf.2, fun x hx => hn.2 x (by simp [hx])⟩
        by_cases hek : e.1 = k
        · rw [low r k fun x hx => hek ▸ he.1 x hx, low q k fun x hx => hek ▸ hk ▸ hf.1 x hx]
        · have h1 := h k
          have hfk : ¬ f.1 = k := hk ▸ hek
          simpa only [tget, hek, hfk, if_false] using h1
      obtain ⟨a, b⟩ := e
      obtain ⟨c, d⟩ := f
      simp only at hk hv
      rw [hk, hv, hr]

/-! ### Byte memories -/

/-- A stored byte string keeps the canonical form. -/
theorem wrBytes_canonical (m : SMap Byte) (a : Nat) (bs : List Byte) (h : canonical m = true) : canonical (wrBytes m a bs) = true := by
  induction bs generalizing m a with
  | nil => exact h
  | cons b r ih => exact ih _ _ (tset_canonical m a b h)

/-- Bytes outside a stored string are as before. -/
theorem tget_wrBytes_out (m : SMap Byte) (a k : Nat) (bs : List Byte) (h : k < a ∨ a + bs.length ≤ k) :
    tget (wrBytes m a bs) k = tget m k := by
  induction bs generalizing m a with
  | nil => rfl
  | cons b r ih =>
    simp only [List.length_cons] at h
    simp only [wrBytes]
    rw [ih _ _ (by omega), tget_tset_ne _ _ (by omega)]

/-- Byte i of a stored string reads back. -/
theorem tget_wrBytes_in (m : SMap Byte) (a i : Nat) (bs : List Byte) (h : i < bs.length) :
    tget (wrBytes m a bs) (a + i) = bs.getD i 0 := by
  induction bs generalizing m a i with
  | nil => exact absurd h (by simp)
  | cons b r ih =>
    simp only [wrBytes]
    cases i with
    | zero => simpa using tget_wrBytes_out (tset m a b) (a + 1) a r (by omega) |>.trans (by simp)
    | succ j =>
      have := ih (tset m a b) (a + 1) j (by simpa using h)
      rw [show a + (j + 1) = a + 1 + j by omega, this]
      simp

theorem rdBytes_length (m : SMap Byte) (a n : Nat) : (rdBytes m a n).length = n := by
  induction n generalizing a with
  | zero => rfl
  | succ n ih => simp [rdBytes, ih]

/-- A stored byte string reads back. -/
theorem rdBytes_wrBytes (m : SMap Byte) (a : Nat) (bs : List Byte) : rdBytes (wrBytes m a bs) a bs.length = bs := by
  induction bs generalizing m a with
  | nil => rfl
  | cons b r ih =>
    simp only [List.length_cons, rdBytes, wrBytes, ih]
    rw [tget_wrBytes_out _ _ _ _ (by omega)]
    simp

theorem toLE_length (n v : Nat) : (toLE n v).length = n := by
  induction n generalizing v with
  | zero => rfl
  | succ n ih => simp [toLE, ih]

/-- The little-endian bytes of a number give it back. -/
theorem leNat_toLE (n v : Nat) (h : v < 256 ^ n) : leNat (toLE n v) = v := by
  induction n generalizing v with
  | zero => simp at h; simp [toLE, leNat, h]
  | succ n ih =>
    simp only [toLE, leNat, BitVec.toNat_ofNat]
    rw [ih _ (by rw [Nat.pow_succ] at h; exact Nat.div_lt_of_lt_mul (by omega))]
    omega

end Sys2Proof.Machine
end

