-- ==== Sys2Proof/Laws/State.lean ====
section
/-!
SUPPORT. What each update of the unit leaves alone, one lemma per field; and what logging, counting events and raising an interrupt
can change at most.
-/
namespace Sys2Proof.Machine

variable (c : Chip)

@[simp] theorem Chip.setReg_clk (o : Nat) (w : Word) : (c.setReg o w).clk = c.clk := (rfl)
@[simp] theorem Chip.setReg_cyc (o : Nat) (w : Word) : (c.setReg o w).cyc = c.cyc := (rfl)
@[simp] theorem Chip.setReg_tick (o : Nat) (w : Word) : (c.setReg o w).tick = c.tick := (rfl)
@[simp] theorem Chip.setReg_areg (o : Nat) (w : Word) : (c.setReg o w).areg = c.areg := (rfl)
@[simp] theorem Chip.setReg_regNext (o : Nat) (w : Word) : (c.setReg o w).regNext = c.regNext := (rfl)
@[simp] theorem Chip.setReg_latch (o : Nat) (w : Word) : (c.setReg o w).latch = c.latch := (rfl)
@[simp] theorem Chip.setReg_bus (o : Nat) (w : Word) : (c.setReg o w).bus = c.bus := (rfl)
@[simp] theorem Chip.setReg_mbx (o : Nat) (w : Word) : (c.setReg o w).mbx = c.mbx := (rfl)
@[simp] theorem Chip.setReg_posted (o : Nat) (w : Word) : (c.setReg o w).posted = c.posted := (rfl)
@[simp] theorem Chip.setReg_req (o : Nat) (w : Word) : (c.setReg o w).req = c.req := (rfl)
@[simp] theorem Chip.setReg_aux (o : Nat) (w : Word) : (c.setReg o w).aux = c.aux := (rfl)
@[simp] theorem Chip.setReg_prm (o : Nat) (w : Word) : (c.setReg o w).prm = c.prm := (rfl)
@[simp] theorem Chip.setReg_ring (o : Nat) (w : Word) : (c.setReg o w).ring = c.ring := (rfl)
@[simp] theorem Chip.setReg_cons (o : Nat) (w : Word) : (c.setReg o w).cons = c.cons := (rfl)
@[simp] theorem Chip.setReg_tnt (o : Nat) (w : Word) : (c.setReg o w).tnt = c.tnt := (rfl)
@[simp] theorem Chip.setReg_replay (o : Nat) (w : Word) : (c.setReg o w).replay = c.replay := (rfl)
@[simp] theorem Chip.setReg_recseq (o : Nat) (w : Word) : (c.setReg o w).recseq = c.recseq := (rfl)
@[simp] theorem Chip.setReg_adpMem (o : Nat) (w : Word) : (c.setReg o w).adpMem = c.adpMem := (rfl)
@[simp] theorem Chip.setReg_adpDir (o : Nat) (w : Word) : (c.setReg o w).adpDir = c.adpDir := (rfl)
@[simp] theorem Chip.setReg_delta (o : Nat) (w : Word) : (c.setReg o w).delta = c.delta := (rfl)
@[simp] theorem Chip.setReg_trie (o : Nat) (w : Word) : (c.setReg o w).trie = c.trie := (rfl)
@[simp] theorem Chip.setReg_staging (o : Nat) (w : Word) : (c.setReg o w).staging = c.staging := (rfl)
@[simp] theorem Chip.setReg_statics (o : Nat) (w : Word) : (c.setReg o w).statics = c.statics := (rfl)
@[simp] theorem Chip.setReg_deny (o : Nat) (w : Word) : (c.setReg o w).deny = c.deny := (rfl)
@[simp] theorem Chip.setReg_grammar (o : Nat) (w : Word) : (c.setReg o w).grammar = c.grammar := (rfl)
@[simp] theorem Chip.setReg_dir (o : Nat) (w : Word) : (c.setReg o w).dir = c.dir := (rfl)
@[simp] theorem Chip.setReg_page (o : Nat) (w : Word) : (c.setReg o w).page = c.page := (rfl)
@[simp] theorem Chip.setReg_lagoon (o : Nat) (w : Word) : (c.setReg o w).lagoon = c.lagoon := (rfl)
@[simp] theorem Chip.setReg_scratch (o : Nat) (w : Word) : (c.setReg o w).scratch = c.scratch := (rfl)
@[simp] theorem Chip.setReg_lane (o : Nat) (w : Word) : (c.setReg o w).lane = c.lane := (rfl)
@[simp] theorem Chip.setReg_acc (o : Nat) (w : Word) : (c.setReg o w).acc = c.acc := (rfl)
@[simp] theorem Chip.setReg_wide (o : Nat) (w : Word) : (c.setReg o w).wide = c.wide := (rfl)
@[simp] theorem Chip.setReg_colScale (o : Nat) (w : Word) : (c.setReg o w).colScale = c.colScale := (rfl)
@[simp] theorem Chip.setReg_atoll (o : Nat) (w : Word) : (c.setReg o w).atoll = c.atoll := (rfl)
@[simp] theorem Chip.setReg_bank (o : Nat) (w : Word) : (c.setReg o w).bank = c.bank := (rfl)
@[simp] theorem Chip.setReg_bankSel (o : Nat) (w : Word) : (c.setReg o w).bankSel = c.bankSel := (rfl)
@[simp] theorem Chip.setReg_plan (o : Nat) (w : Word) : (c.setReg o w).plan = c.plan := (rfl)
@[simp] theorem Chip.setReg_stp (o : Nat) (w : Word) : (c.setReg o w).stp = c.stp := (rfl)
@[simp] theorem Chip.setReg_inputs (o : Nat) (w : Word) : (c.setReg o w).inputs = c.inputs := (rfl)
@[simp] theorem Chip.setReg_fw (o : Nat) (w : Word) : (c.setReg o w).fw = c.fw := (rfl)
@[simp] theorem Chip.setReg_merge (o : Nat) (w : Word) : (c.setReg o w).merge = c.merge := (rfl)
@[simp] theorem Chip.setReg_mir (o : Nat) (w : Word) : (c.setReg o w).mir = c.mir := (rfl)
@[simp] theorem Chip.setReg_mirRx (o : Nat) (w : Word) : (c.setReg o w).mirRx = c.mirRx := (rfl)
@[simp] theorem Chip.setReg_lock (o : Nat) (w : Word) : (c.setReg o w).lock = c.lock := (rfl)
@[simp] theorem Chip.setReg_pmc (o : Nat) (w : Word) : (c.setReg o w).pmc = c.pmc := (rfl)
@[simp] theorem Chip.setReg_dbg (o : Nat) (w : Word) : (c.setReg o w).dbg = c.dbg := (rfl)
@[simp] theorem Chip.setReg_log (o : Nat) (w : Word) : (c.setReg o w).log = c.log := (rfl)
@[simp] theorem Chip.setReg_rpr (o : Nat) (w : Word) : (c.setReg o w).rpr = c.rpr := (rfl)
@[simp] theorem Chip.setReg_fab (o : Nat) (w : Word) : (c.setReg o w).fab = c.fab := (rfl)
@[simp] theorem Chip.setReg_mch (o : Nat) (w : Word) : (c.setReg o w).mch = c.mch := (rfl)
@[simp] theorem Chip.setReg_pwr (o : Nat) (w : Word) : (c.setReg o w).pwr = c.pwr := (rfl)
@[simp] theorem Chip.setReg_psram (o : Nat) (w : Word) : (c.setReg o w).psram = c.psram := (rfl)
@[simp] theorem Chip.setReg_out (o : Nat) (w : Word) : (c.setReg o w).out = c.out := (rfl)
@[simp] theorem Chip.setReg_fresh (o : Nat) (w : Word) : (c.setReg o w).fresh = c.fresh := (rfl)

@[simp] theorem Chip.setAtl_clk (p o : Nat) (w : Word) : (c.setAtl p o w).clk = c.clk := (rfl)
@[simp] theorem Chip.setAtl_cyc (p o : Nat) (w : Word) : (c.setAtl p o w).cyc = c.cyc := (rfl)
@[simp] theorem Chip.setAtl_tick (p o : Nat) (w : Word) : (c.setAtl p o w).tick = c.tick := (rfl)
@[simp] theorem Chip.setAtl_ureg (p o : Nat) (w : Word) : (c.setAtl p o w).ureg = c.ureg := (rfl)
@[simp] theorem Chip.setAtl_regNext (p o : Nat) (w : Word) : (c.setAtl p o w).regNext = c.regNext := (rfl)
@[simp] theorem Chip.setAtl_latch (p o : Nat) (w : Word) : (c.setAtl p o w).latch = c.latch := (rfl)
@[simp] theorem Chip.setAtl_bus (p o : Nat) (w : Word) : (c.setAtl p o w).bus = c.bus := (rfl)
@[simp] theorem Chip.setAtl_mbx (p o : Nat) (w : Word) : (c.setAtl p o w).mbx = c.mbx := (rfl)
@[simp] theorem Chip.setAtl_posted (p o : Nat) (w : Word) : (c.setAtl p o w).posted = c.posted := (rfl)
@[simp] theorem Chip.setAtl_req (p o : Nat) (w : Word) : (c.setAtl p o w).req = c.req := (rfl)
@[simp] theorem Chip.setAtl_aux (p o : Nat) (w : Word) : (c.setAtl p o w).aux = c.aux := (rfl)
@[simp] theorem Chip.setAtl_prm (p o : Nat) (w : Word) : (c.setAtl p o w).prm = c.prm := (rfl)
@[simp] theorem Chip.setAtl_ring (p o : Nat) (w : Word) : (c.setAtl p o w).ring = c.ring := (rfl)
@[simp] theorem Chip.setAtl_cons (p o : Nat) (w : Word) : (c.setAtl p o w).cons = c.cons := (rfl)
@[simp] theorem Chip.setAtl_tnt (p o : Nat) (w : Word) : (c.setAtl p o w).tnt = c.tnt := (rfl)
@[simp] theorem Chip.setAtl_replay (p o : Nat) (w : Word) : (c.setAtl p o w).replay = c.replay := (rfl)
@[simp] theorem Chip.setAtl_recseq (p o : Nat) (w : Word) : (c.setAtl p o w).recseq = c.recseq := (rfl)
@[simp] theorem Chip.setAtl_adpMem (p o : Nat) (w : Word) : (c.setAtl p o w).adpMem = c.adpMem := (rfl)
@[simp] theorem Chip.setAtl_adpDir (p o : Nat) (w : Word) : (c.setAtl p o w).adpDir = c.adpDir := (rfl)
@[simp] theorem Chip.setAtl_delta (p o : Nat) (w : Word) : (c.setAtl p o w).delta = c.delta := (rfl)
@[simp] theorem Chip.setAtl_trie (p o : Nat) (w : Word) : (c.setAtl p o w).trie = c.trie := (rfl)
@[simp] theorem Chip.setAtl_staging (p o : Nat) (w : Word) : (c.setAtl p o w).staging = c.staging := (rfl)
@[simp] theorem Chip.setAtl_statics (p o : Nat) (w : Word) : (c.setAtl p o w).statics = c.statics := (rfl)
@[simp] theorem Chip.setAtl_deny (p o : Nat) (w : Word) : (c.setAtl p o w).deny = c.deny := (rfl)
@[simp] theorem Chip.setAtl_grammar (p o : Nat) (w : Word) : (c.setAtl p o w).grammar = c.grammar := (rfl)
@[simp] theorem Chip.setAtl_dir (p o : Nat) (w : Word) : (c.setAtl p o w).dir = c.dir := (rfl)
@[simp] theorem Chip.setAtl_page (p o : Nat) (w : Word) : (c.setAtl p o w).page = c.page := (rfl)
@[simp] theorem Chip.setAtl_lagoon (p o : Nat) (w : Word) : (c.setAtl p o w).lagoon = c.lagoon := (rfl)
@[simp] theorem Chip.setAtl_scratch (p o : Nat) (w : Word) : (c.setAtl p o w).scratch = c.scratch := (rfl)
@[simp] theorem Chip.setAtl_lane (p o : Nat) (w : Word) : (c.setAtl p o w).lane = c.lane := (rfl)
@[simp] theorem Chip.setAtl_acc (p o : Nat) (w : Word) : (c.setAtl p o w).acc = c.acc := (rfl)
@[simp] theorem Chip.setAtl_wide (p o : Nat) (w : Word) : (c.setAtl p o w).wide = c.wide := (rfl)
@[simp] theorem Chip.setAtl_colScale (p o : Nat) (w : Word) : (c.setAtl p o w).colScale = c.colScale := (rfl)
@[simp] theorem Chip.setAtl_atoll (p o : Nat) (w : Word) : (c.setAtl p o w).atoll = c.atoll := (rfl)
@[simp] theorem Chip.setAtl_bank (p o : Nat) (w : Word) : (c.setAtl p o w).bank = c.bank := (rfl)
@[simp] theorem Chip.setAtl_bankSel (p o : Nat) (w : Word) : (c.setAtl p o w).bankSel = c.bankSel := (rfl)
@[simp] theorem Chip.setAtl_plan (p o : Nat) (w : Word) : (c.setAtl p o w).plan = c.plan := (rfl)
@[simp] theorem Chip.setAtl_stp (p o : Nat) (w : Word) : (c.setAtl p o w).stp = c.stp := (rfl)
@[simp] theorem Chip.setAtl_inputs (p o : Nat) (w : Word) : (c.setAtl p o w).inputs = c.inputs := (rfl)
@[simp] theorem Chip.setAtl_fw (p o : Nat) (w : Word) : (c.setAtl p o w).fw = c.fw := (rfl)
@[simp] theorem Chip.setAtl_merge (p o : Nat) (w : Word) : (c.setAtl p o w).merge = c.merge := (rfl)
@[simp] theorem Chip.setAtl_mir (p o : Nat) (w : Word) : (c.setAtl p o w).mir = c.mir := (rfl)
@[simp] theorem Chip.setAtl_mirRx (p o : Nat) (w : Word) : (c.setAtl p o w).mirRx = c.mirRx := (rfl)
@[simp] theorem Chip.setAtl_lock (p o : Nat) (w : Word) : (c.setAtl p o w).lock = c.lock := (rfl)
@[simp] theorem Chip.setAtl_pmc (p o : Nat) (w : Word) : (c.setAtl p o w).pmc = c.pmc := (rfl)
@[simp] theorem Chip.setAtl_dbg (p o : Nat) (w : Word) : (c.setAtl p o w).dbg = c.dbg := (rfl)
@[simp] theorem Chip.setAtl_log (p o : Nat) (w : Word) : (c.setAtl p o w).log = c.log := (rfl)
@[simp] theorem Chip.setAtl_rpr (p o : Nat) (w : Word) : (c.setAtl p o w).rpr = c.rpr := (rfl)
@[simp] theorem Chip.setAtl_fab (p o : Nat) (w : Word) : (c.setAtl p o w).fab = c.fab := (rfl)
@[simp] theorem Chip.setAtl_mch (p o : Nat) (w : Word) : (c.setAtl p o w).mch = c.mch := (rfl)
@[simp] theorem Chip.setAtl_pwr (p o : Nat) (w : Word) : (c.setAtl p o w).pwr = c.pwr := (rfl)
@[simp] theorem Chip.setAtl_psram (p o : Nat) (w : Word) : (c.setAtl p o w).psram = c.psram := (rfl)
@[simp] theorem Chip.setAtl_out (p o : Nat) (w : Word) : (c.setAtl p o w).out = c.out := (rfl)
@[simp] theorem Chip.setAtl_fresh (p o : Nat) (w : Word) : (c.setAtl p o w).fresh = c.fresh := (rfl)

@[simp] theorem Chip.setNext_clk (o : Nat) (w : Word) : (c.setNext o w).clk = c.clk := (rfl)
@[simp] theorem Chip.setNext_cyc (o : Nat) (w : Word) : (c.setNext o w).cyc = c.cyc := (rfl)
@[simp] theorem Chip.setNext_tick (o : Nat) (w : Word) : (c.setNext o w).tick = c.tick := (rfl)
@[simp] theorem Chip.setNext_ureg (o : Nat) (w : Word) : (c.setNext o w).ureg = c.ureg := (rfl)
@[simp] theorem Chip.setNext_areg (o : Nat) (w : Word) : (c.setNext o w).areg = c.areg := (rfl)
@[simp] theorem Chip.setNext_latch (o : Nat) (w : Word) : (c.setNext o w).latch = c.latch := (rfl)
@[simp] theorem Chip.setNext_bus (o : Nat) (w : Word) : (c.setNext o w).bus = c.bus := (rfl)
@[simp] theorem Chip.setNext_mbx (o : Nat) (w : Word) : (c.setNext o w).mbx = c.mbx := (rfl)
@[simp] theorem Chip.setNext_posted (o : Nat) (w : Word) : (c.setNext o w).posted = c.posted := (rfl)
@[simp] theorem Chip.setNext_req (o : Nat) (w : Word) : (c.setNext o w).req = c.req := (rfl)
@[simp] theorem Chip.setNext_aux (o : Nat) (w : Word) : (c.setNext o w).aux = c.aux := (rfl)
@[simp] theorem Chip.setNext_prm (o : Nat) (w : Word) : (c.setNext o w).prm = c.prm := (rfl)
@[simp] theorem Chip.setNext_ring (o : Nat) (w : Word) : (c.setNext o w).ring = c.ring := (rfl)
@[simp] theorem Chip.setNext_cons (o : Nat) (w : Word) : (c.setNext o w).cons = c.cons := (rfl)
@[simp] theorem Chip.setNext_tnt (o : Nat) (w : Word) : (c.setNext o w).tnt = c.tnt := (rfl)
@[simp] theorem Chip.setNext_replay (o : Nat) (w : Word) : (c.setNext o w).replay = c.replay := (rfl)
@[simp] theorem Chip.setNext_recseq (o : Nat) (w : Word) : (c.setNext o w).recseq = c.recseq := (rfl)
@[simp] theorem Chip.setNext_adpMem (o : Nat) (w : Word) : (c.setNext o w).adpMem = c.adpMem := (rfl)
@[simp] theorem Chip.setNext_adpDir (o : Nat) (w : Word) : (c.setNext o w).adpDir = c.adpDir := (rfl)
@[simp] theorem Chip.setNext_delta (o : Nat) (w : Word) : (c.setNext o w).delta = c.delta := (rfl)
@[simp] theorem Chip.setNext_trie (o : Nat) (w : Word) : (c.setNext o w).trie = c.trie := (rfl)
@[simp] theorem Chip.setNext_staging (o : Nat) (w : Word) : (c.setNext o w).staging = c.staging := (rfl)
@[simp] theorem Chip.setNext_statics (o : Nat) (w : Word) : (c.setNext o w).statics = c.statics := (rfl)
@[simp] theorem Chip.setNext_deny (o : Nat) (w : Word) : (c.setNext o w).deny = c.deny := (rfl)
@[simp] theorem Chip.setNext_grammar (o : Nat) (w : Word) : (c.setNext o w).grammar = c.grammar := (rfl)
@[simp] theorem Chip.setNext_dir (o : Nat) (w : Word) : (c.setNext o w).dir = c.dir := (rfl)
@[simp] theorem Chip.setNext_page (o : Nat) (w : Word) : (c.setNext o w).page = c.page := (rfl)
@[simp] theorem Chip.setNext_lagoon (o : Nat) (w : Word) : (c.setNext o w).lagoon = c.lagoon := (rfl)
@[simp] theorem Chip.setNext_scratch (o : Nat) (w : Word) : (c.setNext o w).scratch = c.scratch := (rfl)
@[simp] theorem Chip.setNext_lane (o : Nat) (w : Word) : (c.setNext o w).lane = c.lane := (rfl)
@[simp] theorem Chip.setNext_acc (o : Nat) (w : Word) : (c.setNext o w).acc = c.acc := (rfl)
@[simp] theorem Chip.setNext_wide (o : Nat) (w : Word) : (c.setNext o w).wide = c.wide := (rfl)
@[simp] theorem Chip.setNext_colScale (o : Nat) (w : Word) : (c.setNext o w).colScale = c.colScale := (rfl)
@[simp] theorem Chip.setNext_atoll (o : Nat) (w : Word) : (c.setNext o w).atoll = c.atoll := (rfl)
@[simp] theorem Chip.setNext_bank (o : Nat) (w : Word) : (c.setNext o w).bank = c.bank := (rfl)
@[simp] theorem Chip.setNext_bankSel (o : Nat) (w : Word) : (c.setNext o w).bankSel = c.bankSel := (rfl)
@[simp] theorem Chip.setNext_plan (o : Nat) (w : Word) : (c.setNext o w).plan = c.plan := (rfl)
@[simp] theorem Chip.setNext_stp (o : Nat) (w : Word) : (c.setNext o w).stp = c.stp := (rfl)
@[simp] theorem Chip.setNext_inputs (o : Nat) (w : Word) : (c.setNext o w).inputs = c.inputs := (rfl)
@[simp] theorem Chip.setNext_fw (o : Nat) (w : Word) : (c.setNext o w).fw = c.fw := (rfl)
@[simp] theorem Chip.setNext_merge (o : Nat) (w : Word) : (c.setNext o w).merge = c.merge := (rfl)
@[simp] theorem Chip.setNext_mir (o : Nat) (w : Word) : (c.setNext o w).mir = c.mir := (rfl)
@[simp] theorem Chip.setNext_mirRx (o : Nat) (w : Word) : (c.setNext o w).mirRx = c.mirRx := (rfl)
@[simp] theorem Chip.setNext_lock (o : Nat) (w : Word) : (c.setNext o w).lock = c.lock := (rfl)
@[simp] theorem Chip.setNext_pmc (o : Nat) (w : Word) : (c.setNext o w).pmc = c.pmc := (rfl)
@[simp] theorem Chip.setNext_dbg (o : Nat) (w : Word) : (c.setNext o w).dbg = c.dbg := (rfl)
@[simp] theorem Chip.setNext_log (o : Nat) (w : Word) : (c.setNext o w).log = c.log := (rfl)
@[simp] theorem Chip.setNext_rpr (o : Nat) (w : Word) : (c.setNext o w).rpr = c.rpr := (rfl)
@[simp] theorem Chip.setNext_fab (o : Nat) (w : Word) : (c.setNext o w).fab = c.fab := (rfl)
@[simp] theorem Chip.setNext_mch (o : Nat) (w : Word) : (c.setNext o w).mch = c.mch := (rfl)
@[simp] theorem Chip.setNext_pwr (o : Nat) (w : Word) : (c.setNext o w).pwr = c.pwr := (rfl)
@[simp] theorem Chip.setNext_psram (o : Nat) (w : Word) : (c.setNext o w).psram = c.psram := (rfl)
@[simp] theorem Chip.setNext_out (o : Nat) (w : Word) : (c.setNext o w).out = c.out := (rfl)
@[simp] theorem Chip.setNext_fresh (o : Nat) (w : Word) : (c.setNext o w).fresh = c.fresh := (rfl)

@[simp] theorem Chip.modLn_clk (g : Nat) (f : Lane → Lane) : (c.modLn g f).clk = c.clk := (rfl)
@[simp] theorem Chip.modLn_cyc (g : Nat) (f : Lane → Lane) : (c.modLn g f).cyc = c.cyc := (rfl)
@[simp] theorem Chip.modLn_tick (g : Nat) (f : Lane → Lane) : (c.modLn g f).tick = c.tick := (rfl)
@[simp] theorem Chip.modLn_ureg (g : Nat) (f : Lane → Lane) : (c.modLn g f).ureg = c.ureg := (rfl)
@[simp] theorem Chip.modLn_areg (g : Nat) (f : Lane → Lane) : (c.modLn g f).areg = c.areg := (rfl)
@[simp] theorem Chip.modLn_regNext (g : Nat) (f : Lane → Lane) : (c.modLn g f).regNext = c.regNext := (rfl)
@[simp] theorem Chip.modLn_latch (g : Nat) (f : Lane → Lane) : (c.modLn g f).latch = c.latch := (rfl)
@[simp] theorem Chip.modLn_bus (g : Nat) (f : Lane → Lane) : (c.modLn g f).bus = c.bus := (rfl)
@[simp] theorem Chip.modLn_mbx (g : Nat) (f : Lane → Lane) : (c.modLn g f).mbx = c.mbx := (rfl)
@[simp] theorem Chip.modLn_posted (g : Nat) (f : Lane → Lane) : (c.modLn g f).posted = c.posted := (rfl)
@[simp] theorem Chip.modLn_req (g : Nat) (f : Lane → Lane) : (c.modLn g f).req = c.req := (rfl)
@[simp] theorem Chip.modLn_aux (g : Nat) (f : Lane → Lane) : (c.modLn g f).aux = c.aux := (rfl)
@[simp] theorem Chip.modLn_prm (g : Nat) (f : Lane → Lane) : (c.modLn g f).prm = c.prm := (rfl)
@[simp] theorem Chip.modLn_ring (g : Nat) (f : Lane → Lane) : (c.modLn g f).ring = c.ring := (rfl)
@[simp] theorem Chip.modLn_cons (g : Nat) (f : Lane → Lane) : (c.modLn g f).cons = c.cons := (rfl)
@[simp] theorem Chip.modLn_tnt (g : Nat) (f : Lane → Lane) : (c.modLn g f).tnt = c.tnt := (rfl)
@[simp] theorem Chip.modLn_replay (g : Nat) (f : Lane → Lane) : (c.modLn g f).replay = c.replay := (rfl)
@[simp] theorem Chip.modLn_recseq (g : Nat) (f : Lane → Lane) : (c.modLn g f).recseq = c.recseq := (rfl)
@[simp] theorem Chip.modLn_adpMem (g : Nat) (f : Lane → Lane) : (c.modLn g f).adpMem = c.adpMem := (rfl)
@[simp] theorem Chip.modLn_adpDir (g : Nat) (f : Lane → Lane) : (c.modLn g f).adpDir = c.adpDir := (rfl)
@[simp] theorem Chip.modLn_delta (g : Nat) (f : Lane → Lane) : (c.modLn g f).delta = c.delta := (rfl)
@[simp] theorem Chip.modLn_trie (g : Nat) (f : Lane → Lane) : (c.modLn g f).trie = c.trie := (rfl)
@[simp] theorem Chip.modLn_staging (g : Nat) (f : Lane → Lane) : (c.modLn g f).staging = c.staging := (rfl)
@[simp] theorem Chip.modLn_statics (g : Nat) (f : Lane → Lane) : (c.modLn g f).statics = c.statics := (rfl)
@[simp] theorem Chip.modLn_deny (g : Nat) (f : Lane → Lane) : (c.modLn g f).deny = c.deny := (rfl)
@[simp] theorem Chip.modLn_grammar (g : Nat) (f : Lane → Lane) : (c.modLn g f).grammar = c.grammar := (rfl)
@[simp] theorem Chip.modLn_dir (g : Nat) (f : Lane → Lane) : (c.modLn g f).dir = c.dir := (rfl)
@[simp] theorem Chip.modLn_page (g : Nat) (f : Lane → Lane) : (c.modLn g f).page = c.page := (rfl)
@[simp] theorem Chip.modLn_lagoon (g : Nat) (f : Lane → Lane) : (c.modLn g f).lagoon = c.lagoon := (rfl)
@[simp] theorem Chip.modLn_scratch (g : Nat) (f : Lane → Lane) : (c.modLn g f).scratch = c.scratch := (rfl)
@[simp] theorem Chip.modLn_acc (g : Nat) (f : Lane → Lane) : (c.modLn g f).acc = c.acc := (rfl)
@[simp] theorem Chip.modLn_wide (g : Nat) (f : Lane → Lane) : (c.modLn g f).wide = c.wide := (rfl)
@[simp] theorem Chip.modLn_colScale (g : Nat) (f : Lane → Lane) : (c.modLn g f).colScale = c.colScale := (rfl)
@[simp] theorem Chip.modLn_atoll (g : Nat) (f : Lane → Lane) : (c.modLn g f).atoll = c.atoll := (rfl)
@[simp] theorem Chip.modLn_bank (g : Nat) (f : Lane → Lane) : (c.modLn g f).bank = c.bank := (rfl)
@[simp] theorem Chip.modLn_bankSel (g : Nat) (f : Lane → Lane) : (c.modLn g f).bankSel = c.bankSel := (rfl)
@[simp] theorem Chip.modLn_plan (g : Nat) (f : Lane → Lane) : (c.modLn g f).plan = c.plan := (rfl)
@[simp] theorem Chip.modLn_stp (g : Nat) (f : Lane → Lane) : (c.modLn g f).stp = c.stp := (rfl)
@[simp] theorem Chip.modLn_inputs (g : Nat) (f : Lane → Lane) : (c.modLn g f).inputs = c.inputs := (rfl)
@[simp] theorem Chip.modLn_fw (g : Nat) (f : Lane → Lane) : (c.modLn g f).fw = c.fw := (rfl)
@[simp] theorem Chip.modLn_merge (g : Nat) (f : Lane → Lane) : (c.modLn g f).merge = c.merge := (rfl)
@[simp] theorem Chip.modLn_mir (g : Nat) (f : Lane → Lane) : (c.modLn g f).mir = c.mir := (rfl)
@[simp] theorem Chip.modLn_mirRx (g : Nat) (f : Lane → Lane) : (c.modLn g f).mirRx = c.mirRx := (rfl)
@[simp] theorem Chip.modLn_lock (g : Nat) (f : Lane → Lane) : (c.modLn g f).lock = c.lock := (rfl)
@[simp] theorem Chip.modLn_pmc (g : Nat) (f : Lane → Lane) : (c.modLn g f).pmc = c.pmc := (rfl)
@[simp] theorem Chip.modLn_dbg (g : Nat) (f : Lane → Lane) : (c.modLn g f).dbg = c.dbg := (rfl)
@[simp] theorem Chip.modLn_log (g : Nat) (f : Lane → Lane) : (c.modLn g f).log = c.log := (rfl)
@[simp] theorem Chip.modLn_rpr (g : Nat) (f : Lane → Lane) : (c.modLn g f).rpr = c.rpr := (rfl)
@[simp] theorem Chip.modLn_fab (g : Nat) (f : Lane → Lane) : (c.modLn g f).fab = c.fab := (rfl)
@[simp] theorem Chip.modLn_mch (g : Nat) (f : Lane → Lane) : (c.modLn g f).mch = c.mch := (rfl)
@[simp] theorem Chip.modLn_pwr (g : Nat) (f : Lane → Lane) : (c.modLn g f).pwr = c.pwr := (rfl)
@[simp] theorem Chip.modLn_psram (g : Nat) (f : Lane → Lane) : (c.modLn g f).psram = c.psram := (rfl)
@[simp] theorem Chip.modLn_out (g : Nat) (f : Lane → Lane) : (c.modLn g f).out = c.out := (rfl)
@[simp] theorem Chip.modLn_fresh (g : Nat) (f : Lane → Lane) : (c.modLn g f).fresh = c.fresh := (rfl)

@[simp] theorem Chip.modAtl_clk (a : Nat) (f : AtollSt → AtollSt) : (c.modAtl a f).clk = c.clk := (rfl)
@[simp] theorem Chip.modAtl_cyc (a : Nat) (f : AtollSt → AtollSt) : (c.modAtl a f).cyc = c.cyc := (rfl)
@[simp] theorem Chip.modAtl_tick (a : Nat) (f : AtollSt → AtollSt) : (c.modAtl a f).tick = c.tick := (rfl)
@[simp] theorem Chip.modAtl_ureg (a : Nat) (f : AtollSt → AtollSt) : (c.modAtl a f).ureg = c.ureg := (rfl)
@[simp] theorem Chip.modAtl_areg (a : Nat) (f : AtollSt → AtollSt) : (c.modAtl a f).areg = c.areg := (rfl)
@[simp] theorem Chip.modAtl_regNext (a : Nat) (f : AtollSt → AtollSt) : (c.modAtl a f).regNext = c.regNext := (rfl)
@[simp] theorem Chip.modAtl_latch (a : Nat) (f : AtollSt → AtollSt) : (c.modAtl a f).latch = c.latch := (rfl)
@[simp] theorem Chip.modAtl_bus (a : Nat) (f : AtollSt → AtollSt) : (c.modAtl a f).bus = c.bus := (rfl)
@[simp] theorem Chip.modAtl_mbx (a : Nat) (f : AtollSt → AtollSt) : (c.modAtl a f).mbx = c.mbx := (rfl)
@[simp] theorem Chip.modAtl_posted (a : Nat) (f : AtollSt → AtollSt) : (c.modAtl a f).posted = c.posted := (rfl)
@[simp] theorem Chip.modAtl_req (a : Nat) (f : AtollSt → AtollSt) : (c.modAtl a f).req = c.req := (rfl)
@[simp] theorem Chip.modAtl_aux (a : Nat) (f : AtollSt → AtollSt) : (c.modAtl a f).aux = c.aux := (rfl)
@[simp] theorem Chip.modAtl_prm (a : Nat) (f : AtollSt → AtollSt) : (c.modAtl a f).prm = c.prm := (rfl)
@[simp] theorem Chip.modAtl_ring (a : Nat) (f : AtollSt → AtollSt) : (c.modAtl a f).ring = c.ring := (rfl)
@[simp] theorem Chip.modAtl_cons (a : Nat) (f : AtollSt → AtollSt) : (c.modAtl a f).cons = c.cons := (rfl)
@[simp] theorem Chip.modAtl_tnt (a : Nat) (f : AtollSt → AtollSt) : (c.modAtl a f).tnt = c.tnt := (rfl)
@[simp] theorem Chip.modAtl_replay (a : Nat) (f : AtollSt → AtollSt) : (c.modAtl a f).replay = c.replay := (rfl)
@[simp] theorem Chip.modAtl_recseq (a : Nat) (f : AtollSt → AtollSt) : (c.modAtl a f).recseq = c.recseq := (rfl)
@[simp] theorem Chip.modAtl_adpMem (a : Nat) (f : AtollSt → AtollSt) : (c.modAtl a f).adpMem = c.adpMem := (rfl)
@[simp] theorem Chip.modAtl_adpDir (a : Nat) (f : AtollSt → AtollSt) : (c.modAtl a f).adpDir = c.adpDir := (rfl)
@[simp] theorem Chip.modAtl_delta (a : Nat) (f : AtollSt → AtollSt) : (c.modAtl a f).delta = c.delta := (rfl)
@[simp] theorem Chip.modAtl_trie (a : Nat) (f : AtollSt → AtollSt) : (c.modAtl a f).trie = c.trie := (rfl)
@[simp] theorem Chip.modAtl_staging (a : Nat) (f : AtollSt → AtollSt) : (c.modAtl a f).staging = c.staging := (rfl)
@[simp] theorem Chip.modAtl_statics (a : Nat) (f : AtollSt → AtollSt) : (c.modAtl a f).statics = c.statics := (rfl)
@[simp] theorem Chip.modAtl_deny (a : Nat) (f : AtollSt → AtollSt) : (c.modAtl a f).deny = c.deny := (rfl)
@[simp] theorem Chip.modAtl_grammar (a : Nat) (f : AtollSt → AtollSt) : (c.modAtl a f).grammar = c.grammar := (rfl)
@[simp] theorem Chip.modAtl_dir (a : Nat) (f : AtollSt → AtollSt) : (c.modAtl a f).dir = c.dir := (rfl)
@[simp] theorem Chip.modAtl_page (a : Nat) (f : AtollSt → AtollSt) : (c.modAtl a f).page = c.page := (rfl)
@[simp] theorem Chip.modAtl_lagoon (a : Nat) (f : AtollSt → AtollSt) : (c.modAtl a f).lagoon = c.lagoon := (rfl)
@[simp] theorem Chip.modAtl_scratch (a : Nat) (f : AtollSt → AtollSt) : (c.modAtl a f).scratch = c.scratch := (rfl)
@[simp] theorem Chip.modAtl_lane (a : Nat) (f : AtollSt → AtollSt) : (c.modAtl a f).lane = c.lane := (rfl)
@[simp] theorem Chip.modAtl_acc (a : Nat) (f : AtollSt → AtollSt) : (c.modAtl a f).acc = c.acc := (rfl)
@[simp] theorem Chip.modAtl_wide (a : Nat) (f : AtollSt → AtollSt) : (c.modAtl a f).wide = c.wide := (rfl)
@[simp] theorem Chip.modAtl_colScale (a : Nat) (f : AtollSt → AtollSt) : (c.modAtl a f).colScale = c.colScale := (rfl)
@[simp] theorem Chip.modAtl_bank (a : Nat) (f : AtollSt → AtollSt) : (c.modAtl a f).bank = c.bank := (rfl)
@[simp] theorem Chip.modAtl_bankSel (a : Nat) (f : AtollSt → AtollSt) : (c.modAtl a f).bankSel = c.bankSel := (rfl)
@[simp] theorem Chip.modAtl_plan (a : Nat) (f : AtollSt → AtollSt) : (c.modAtl a f).plan = c.plan := (rfl)
@[simp] theorem Chip.modAtl_stp (a : Nat) (f : AtollSt → AtollSt) : (c.modAtl a f).stp = c.stp := (rfl)
@[simp] theorem Chip.modAtl_inputs (a : Nat) (f : AtollSt → AtollSt) : (c.modAtl a f).inputs = c.inputs := (rfl)
@[simp] theorem Chip.modAtl_fw (a : Nat) (f : AtollSt → AtollSt) : (c.modAtl a f).fw = c.fw := (rfl)
@[simp] theorem Chip.modAtl_merge (a : Nat) (f : AtollSt → AtollSt) : (c.modAtl a f).merge = c.merge := (rfl)
@[simp] theorem Chip.modAtl_mir (a : Nat) (f : AtollSt → AtollSt) : (c.modAtl a f).mir = c.mir := (rfl)
@[simp] theorem Chip.modAtl_mirRx (a : Nat) (f : AtollSt → AtollSt) : (c.modAtl a f).mirRx = c.mirRx := (rfl)
@[simp] theorem Chip.modAtl_lock (a : Nat) (f : AtollSt → AtollSt) : (c.modAtl a f).lock = c.lock := (rfl)
@[simp] theorem Chip.modAtl_pmc (a : Nat) (f : AtollSt → AtollSt) : (c.modAtl a f).pmc = c.pmc := (rfl)
@[simp] theorem Chip.modAtl_dbg (a : Nat) (f : AtollSt → AtollSt) : (c.modAtl a f).dbg = c.dbg := (rfl)
@[simp] theorem Chip.modAtl_log (a : Nat) (f : AtollSt → AtollSt) : (c.modAtl a f).log = c.log := (rfl)
@[simp] theorem Chip.modAtl_rpr (a : Nat) (f : AtollSt → AtollSt) : (c.modAtl a f).rpr = c.rpr := (rfl)
@[simp] theorem Chip.modAtl_fab (a : Nat) (f : AtollSt → AtollSt) : (c.modAtl a f).fab = c.fab := (rfl)
@[simp] theorem Chip.modAtl_mch (a : Nat) (f : AtollSt → AtollSt) : (c.modAtl a f).mch = c.mch := (rfl)
@[simp] theorem Chip.modAtl_pwr (a : Nat) (f : AtollSt → AtollSt) : (c.modAtl a f).pwr = c.pwr := (rfl)
@[simp] theorem Chip.modAtl_psram (a : Nat) (f : AtollSt → AtollSt) : (c.modAtl a f).psram = c.psram := (rfl)
@[simp] theorem Chip.modAtl_out (a : Nat) (f : AtollSt → AtollSt) : (c.modAtl a f).out = c.out := (rfl)
@[simp] theorem Chip.modAtl_fresh (a : Nat) (f : AtollSt → AtollSt) : (c.modAtl a f).fresh = c.fresh := (rfl)

@[simp] theorem Chip.modRq_clk (q : Nat) (f : ReqEntry → ReqEntry) : (c.modRq q f).clk = c.clk := (rfl)
@[simp] theorem Chip.modRq_cyc (q : Nat) (f : ReqEntry → ReqEntry) : (c.modRq q f).cyc = c.cyc := (rfl)
@[simp] theorem Chip.modRq_tick (q : Nat) (f : ReqEntry → ReqEntry) : (c.modRq q f).tick = c.tick := (rfl)
@[simp] theorem Chip.modRq_ureg (q : Nat) (f : ReqEntry → ReqEntry) : (c.modRq q f).ureg = c.ureg := (rfl)
@[simp] theorem Chip.modRq_areg (q : Nat) (f : ReqEntry → ReqEntry) : (c.modRq q f).areg = c.areg := (rfl)
@[simp] theorem Chip.modRq_regNext (q : Nat) (f : ReqEntry → ReqEntry) : (c.modRq q f).regNext = c.regNext := (rfl)
@[simp] theorem Chip.modRq_latch (q : Nat) (f : ReqEntry → ReqEntry) : (c.modRq q f).latch = c.latch := (rfl)
@[simp] theorem Chip.modRq_bus (q : Nat) (f : ReqEntry → ReqEntry) : (c.modRq q f).bus = c.bus := (rfl)
@[simp] theorem Chip.modRq_mbx (q : Nat) (f : ReqEntry → ReqEntry) : (c.modRq q f).mbx = c.mbx := (rfl)
@[simp] theorem Chip.modRq_posted (q : Nat) (f : ReqEntry → ReqEntry) : (c.modRq q f).posted = c.posted := (rfl)
@[simp] theorem Chip.modRq_aux (q : Nat) (f : ReqEntry → ReqEntry) : (c.modRq q f).aux = c.aux := (rfl)
@[simp] theorem Chip.modRq_prm (q : Nat) (f : ReqEntry → ReqEntry) : (c.modRq q f).prm = c.prm := (rfl)
@[simp] theorem Chip.modRq_ring (q : Nat) (f : ReqEntry → ReqEntry) : (c.modRq q f).ring = c.ring := (rfl)
@[simp] theorem Chip.modRq_cons (q : Nat) (f : ReqEntry → ReqEntry) : (c.modRq q f).cons = c.cons := (rfl)
@[simp] theorem Chip.modRq_tnt (q : Nat) (f : ReqEntry → ReqEntry) : (c.modRq q f).tnt = c.tnt := (rfl)
@[simp] theorem Chip.modRq_replay (q : Nat) (f : ReqEntry → ReqEntry) : (c.modRq q f).replay = c.replay := (rfl)
@[simp] theorem Chip.modRq_recseq (q : Nat) (f : ReqEntry → ReqEntry) : (c.modRq q f).recseq = c.recseq := (rfl)
@[simp] theorem Chip.modRq_adpMem (q : Nat) (f : ReqEntry → ReqEntry) : (c.modRq q f).adpMem = c.adpMem := (rfl)
@[simp] theorem Chip.modRq_adpDir (q : Nat) (f : ReqEntry → ReqEntry) : (c.modRq q f).adpDir = c.adpDir := (rfl)
@[simp] theorem Chip.modRq_delta (q : Nat) (f : ReqEntry → ReqEntry) : (c.modRq q f).delta = c.delta := (rfl)
@[simp] theorem Chip.modRq_trie (q : Nat) (f : ReqEntry → ReqEntry) : (c.modRq q f).trie = c.trie := (rfl)
@[simp] theorem Chip.modRq_staging (q : Nat) (f : ReqEntry → ReqEntry) : (c.modRq q f).staging = c.staging := (rfl)
@[simp] theorem Chip.modRq_statics (q : Nat) (f : ReqEntry → ReqEntry) : (c.modRq q f).statics = c.statics := (rfl)
@[simp] theorem Chip.modRq_deny (q : Nat) (f : ReqEntry → ReqEntry) : (c.modRq q f).deny = c.deny := (rfl)
@[simp] theorem Chip.modRq_grammar (q : Nat) (f : ReqEntry → ReqEntry) : (c.modRq q f).grammar = c.grammar := (rfl)
@[simp] theorem Chip.modRq_dir (q : Nat) (f : ReqEntry → ReqEntry) : (c.modRq q f).dir = c.dir := (rfl)
@[simp] theorem Chip.modRq_page (q : Nat) (f : ReqEntry → ReqEntry) : (c.modRq q f).page = c.page := (rfl)
@[simp] theorem Chip.modRq_lagoon (q : Nat) (f : ReqEntry → ReqEntry) : (c.modRq q f).lagoon = c.lagoon := (rfl)
@[simp] theorem Chip.modRq_scratch (q : Nat) (f : ReqEntry → ReqEntry) : (c.modRq q f).scratch = c.scratch := (rfl)
@[simp] theorem Chip.modRq_lane (q : Nat) (f : ReqEntry → ReqEntry) : (c.modRq q f).lane = c.lane := (rfl)
@[simp] theorem Chip.modRq_acc (q : Nat) (f : ReqEntry → ReqEntry) : (c.modRq q f).acc = c.acc := (rfl)
@[simp] theorem Chip.modRq_wide (q : Nat) (f : ReqEntry → ReqEntry) : (c.modRq q f).wide = c.wide := (rfl)
@[simp] theorem Chip.modRq_colScale (q : Nat) (f : ReqEntry → ReqEntry) : (c.modRq q f).colScale = c.colScale := (rfl)
@[simp] theorem Chip.modRq_atoll (q : Nat) (f : ReqEntry → ReqEntry) : (c.modRq q f).atoll = c.atoll := (rfl)
@[simp] theorem Chip.modRq_bank (q : Nat) (f : ReqEntry → ReqEntry) : (c.modRq q f).bank = c.bank := (rfl)
@[simp] theorem Chip.modRq_bankSel (q : Nat) (f : ReqEntry → ReqEntry) : (c.modRq q f).bankSel = c.bankSel := (rfl)
@[simp] theorem Chip.modRq_plan (q : Nat) (f : ReqEntry → ReqEntry) : (c.modRq q f).plan = c.plan := (rfl)
@[simp] theorem Chip.modRq_stp (q : Nat) (f : ReqEntry → ReqEntry) : (c.modRq q f).stp = c.stp := (rfl)
@[simp] theorem Chip.modRq_inputs (q : Nat) (f : ReqEntry → ReqEntry) : (c.modRq q f).inputs = c.inputs := (rfl)
@[simp] theorem Chip.modRq_fw (q : Nat) (f : ReqEntry → ReqEntry) : (c.modRq q f).fw = c.fw := (rfl)
@[simp] theorem Chip.modRq_merge (q : Nat) (f : ReqEntry → ReqEntry) : (c.modRq q f).merge = c.merge := (rfl)
@[simp] theorem Chip.modRq_mir (q : Nat) (f : ReqEntry → ReqEntry) : (c.modRq q f).mir = c.mir := (rfl)
@[simp] theorem Chip.modRq_mirRx (q : Nat) (f : ReqEntry → ReqEntry) : (c.modRq q f).mirRx = c.mirRx := (rfl)
@[simp] theorem Chip.modRq_lock (q : Nat) (f : ReqEntry → ReqEntry) : (c.modRq q f).lock = c.lock := (rfl)
@[simp] theorem Chip.modRq_pmc (q : Nat) (f : ReqEntry → ReqEntry) : (c.modRq q f).pmc = c.pmc := (rfl)
@[simp] theorem Chip.modRq_dbg (q : Nat) (f : ReqEntry → ReqEntry) : (c.modRq q f).dbg = c.dbg := (rfl)
@[simp] theorem Chip.modRq_log (q : Nat) (f : ReqEntry → ReqEntry) : (c.modRq q f).log = c.log := (rfl)
@[simp] theorem Chip.modRq_rpr (q : Nat) (f : ReqEntry → ReqEntry) : (c.modRq q f).rpr = c.rpr := (rfl)
@[simp] theorem Chip.modRq_fab (q : Nat) (f : ReqEntry → ReqEntry) : (c.modRq q f).fab = c.fab := (rfl)
@[simp] theorem Chip.modRq_mch (q : Nat) (f : ReqEntry → ReqEntry) : (c.modRq q f).mch = c.mch := (rfl)
@[simp] theorem Chip.modRq_pwr (q : Nat) (f : ReqEntry → ReqEntry) : (c.modRq q f).pwr = c.pwr := (rfl)
@[simp] theorem Chip.modRq_psram (q : Nat) (f : ReqEntry → ReqEntry) : (c.modRq q f).psram = c.psram := (rfl)
@[simp] theorem Chip.modRq_out (q : Nat) (f : ReqEntry → ReqEntry) : (c.modRq q f).out = c.out := (rfl)
@[simp] theorem Chip.modRq_fresh (q : Nat) (f : ReqEntry → ReqEntry) : (c.modRq q f).fresh = c.fresh := (rfl)

@[simp] theorem Chip.modAx_clk (q : Nat) (f : ReqAux → ReqAux) : (c.modAx q f).clk = c.clk := (rfl)
@[simp] theorem Chip.modAx_cyc (q : Nat) (f : ReqAux → ReqAux) : (c.modAx q f).cyc = c.cyc := (rfl)
@[simp] theorem Chip.modAx_tick (q : Nat) (f : ReqAux → ReqAux) : (c.modAx q f).tick = c.tick := (rfl)
@[simp] theorem Chip.modAx_ureg (q : Nat) (f : ReqAux → ReqAux) : (c.modAx q f).ureg = c.ureg := (rfl)
@[simp] theorem Chip.modAx_areg (q : Nat) (f : ReqAux → ReqAux) : (c.modAx q f).areg = c.areg := (rfl)
@[simp] theorem Chip.modAx_regNext (q : Nat) (f : ReqAux → ReqAux) : (c.modAx q f).regNext = c.regNext := (rfl)
@[simp] theorem Chip.modAx_latch (q : Nat) (f : ReqAux → ReqAux) : (c.modAx q f).latch = c.latch := (rfl)
@[simp] theorem Chip.modAx_bus (q : Nat) (f : ReqAux → ReqAux) : (c.modAx q f).bus = c.bus := (rfl)
@[simp] theorem Chip.modAx_mbx (q : Nat) (f : ReqAux → ReqAux) : (c.modAx q f).mbx = c.mbx := (rfl)
@[simp] theorem Chip.modAx_posted (q : Nat) (f : ReqAux → ReqAux) : (c.modAx q f).posted = c.posted := (rfl)
@[simp] theorem Chip.modAx_req (q : Nat) (f : ReqAux → ReqAux) : (c.modAx q f).req = c.req := (rfl)
@[simp] theorem Chip.modAx_prm (q : Nat) (f : ReqAux → ReqAux) : (c.modAx q f).prm = c.prm := (rfl)
@[simp] theorem Chip.modAx_ring (q : Nat) (f : ReqAux → ReqAux) : (c.modAx q f).ring = c.ring := (rfl)
@[simp] theorem Chip.modAx_cons (q : Nat) (f : ReqAux → ReqAux) : (c.modAx q f).cons = c.cons := (rfl)
@[simp] theorem Chip.modAx_tnt (q : Nat) (f : ReqAux → ReqAux) : (c.modAx q f).tnt = c.tnt := (rfl)
@[simp] theorem Chip.modAx_replay (q : Nat) (f : ReqAux → ReqAux) : (c.modAx q f).replay = c.replay := (rfl)
@[simp] theorem Chip.modAx_recseq (q : Nat) (f : ReqAux → ReqAux) : (c.modAx q f).recseq = c.recseq := (rfl)
@[simp] theorem Chip.modAx_adpMem (q : Nat) (f : ReqAux → ReqAux) : (c.modAx q f).adpMem = c.adpMem := (rfl)
@[simp] theorem Chip.modAx_adpDir (q : Nat) (f : ReqAux → ReqAux) : (c.modAx q f).adpDir = c.adpDir := (rfl)
@[simp] theorem Chip.modAx_delta (q : Nat) (f : ReqAux → ReqAux) : (c.modAx q f).delta = c.delta := (rfl)
@[simp] theorem Chip.modAx_trie (q : Nat) (f : ReqAux → ReqAux) : (c.modAx q f).trie = c.trie := (rfl)
@[simp] theorem Chip.modAx_staging (q : Nat) (f : ReqAux → ReqAux) : (c.modAx q f).staging = c.staging := (rfl)
@[simp] theorem Chip.modAx_statics (q : Nat) (f : ReqAux → ReqAux) : (c.modAx q f).statics = c.statics := (rfl)
@[simp] theorem Chip.modAx_deny (q : Nat) (f : ReqAux → ReqAux) : (c.modAx q f).deny = c.deny := (rfl)
@[simp] theorem Chip.modAx_grammar (q : Nat) (f : ReqAux → ReqAux) : (c.modAx q f).grammar = c.grammar := (rfl)
@[simp] theorem Chip.modAx_dir (q : Nat) (f : ReqAux → ReqAux) : (c.modAx q f).dir = c.dir := (rfl)
@[simp] theorem Chip.modAx_page (q : Nat) (f : ReqAux → ReqAux) : (c.modAx q f).page = c.page := (rfl)
@[simp] theorem Chip.modAx_lagoon (q : Nat) (f : ReqAux → ReqAux) : (c.modAx q f).lagoon = c.lagoon := (rfl)
@[simp] theorem Chip.modAx_scratch (q : Nat) (f : ReqAux → ReqAux) : (c.modAx q f).scratch = c.scratch := (rfl)
@[simp] theorem Chip.modAx_lane (q : Nat) (f : ReqAux → ReqAux) : (c.modAx q f).lane = c.lane := (rfl)
@[simp] theorem Chip.modAx_acc (q : Nat) (f : ReqAux → ReqAux) : (c.modAx q f).acc = c.acc := (rfl)
@[simp] theorem Chip.modAx_wide (q : Nat) (f : ReqAux → ReqAux) : (c.modAx q f).wide = c.wide := (rfl)
@[simp] theorem Chip.modAx_colScale (q : Nat) (f : ReqAux → ReqAux) : (c.modAx q f).colScale = c.colScale := (rfl)
@[simp] theorem Chip.modAx_atoll (q : Nat) (f : ReqAux → ReqAux) : (c.modAx q f).atoll = c.atoll := (rfl)
@[simp] theorem Chip.modAx_bank (q : Nat) (f : ReqAux → ReqAux) : (c.modAx q f).bank = c.bank := (rfl)
@[simp] theorem Chip.modAx_bankSel (q : Nat) (f : ReqAux → ReqAux) : (c.modAx q f).bankSel = c.bankSel := (rfl)
@[simp] theorem Chip.modAx_plan (q : Nat) (f : ReqAux → ReqAux) : (c.modAx q f).plan = c.plan := (rfl)
@[simp] theorem Chip.modAx_stp (q : Nat) (f : ReqAux → ReqAux) : (c.modAx q f).stp = c.stp := (rfl)
@[simp] theorem Chip.modAx_inputs (q : Nat) (f : ReqAux → ReqAux) : (c.modAx q f).inputs = c.inputs := (rfl)
@[simp] theorem Chip.modAx_fw (q : Nat) (f : ReqAux → ReqAux) : (c.modAx q f).fw = c.fw := (rfl)
@[simp] theorem Chip.modAx_merge (q : Nat) (f : ReqAux → ReqAux) : (c.modAx q f).merge = c.merge := (rfl)
@[simp] theorem Chip.modAx_mir (q : Nat) (f : ReqAux → ReqAux) : (c.modAx q f).mir = c.mir := (rfl)
@[simp] theorem Chip.modAx_mirRx (q : Nat) (f : ReqAux → ReqAux) : (c.modAx q f).mirRx = c.mirRx := (rfl)
@[simp] theorem Chip.modAx_lock (q : Nat) (f : ReqAux → ReqAux) : (c.modAx q f).lock = c.lock := (rfl)
@[simp] theorem Chip.modAx_pmc (q : Nat) (f : ReqAux → ReqAux) : (c.modAx q f).pmc = c.pmc := (rfl)
@[simp] theorem Chip.modAx_dbg (q : Nat) (f : ReqAux → ReqAux) : (c.modAx q f).dbg = c.dbg := (rfl)
@[simp] theorem Chip.modAx_log (q : Nat) (f : ReqAux → ReqAux) : (c.modAx q f).log = c.log := (rfl)
@[simp] theorem Chip.modAx_rpr (q : Nat) (f : ReqAux → ReqAux) : (c.modAx q f).rpr = c.rpr := (rfl)
@[simp] theorem Chip.modAx_fab (q : Nat) (f : ReqAux → ReqAux) : (c.modAx q f).fab = c.fab := (rfl)
@[simp] theorem Chip.modAx_mch (q : Nat) (f : ReqAux → ReqAux) : (c.modAx q f).mch = c.mch := (rfl)
@[simp] theorem Chip.modAx_pwr (q : Nat) (f : ReqAux → ReqAux) : (c.modAx q f).pwr = c.pwr := (rfl)
@[simp] theorem Chip.modAx_psram (q : Nat) (f : ReqAux → ReqAux) : (c.modAx q f).psram = c.psram := (rfl)
@[simp] theorem Chip.modAx_out (q : Nat) (f : ReqAux → ReqAux) : (c.modAx q f).out = c.out := (rfl)
@[simp] theorem Chip.modAx_fresh (q : Nat) (f : ReqAux → ReqAux) : (c.modAx q f).fresh = c.fresh := (rfl)

@[simp] theorem Chip.modRing_clk (d : Nat) (f : RingDesc → RingDesc) : (c.modRing d f).clk = c.clk := (rfl)
@[simp] theorem Chip.modRing_cyc (d : Nat) (f : RingDesc → RingDesc) : (c.modRing d f).cyc = c.cyc := (rfl)
@[simp] theorem Chip.modRing_tick (d : Nat) (f : RingDesc → RingDesc) : (c.modRing d f).tick = c.tick := (rfl)
@[simp] theorem Chip.modRing_ureg (d : Nat) (f : RingDesc → RingDesc) : (c.modRing d f).ureg = c.ureg := (rfl)
@[simp] theorem Chip.modRing_areg (d : Nat) (f : RingDesc → RingDesc) : (c.modRing d f).areg = c.areg := (rfl)
@[simp] theorem Chip.modRing_regNext (d : Nat) (f : RingDesc → RingDesc) : (c.modRing d f).regNext = c.regNext := (rfl)
@[simp] theorem Chip.modRing_latch (d : Nat) (f : RingDesc → RingDesc) : (c.modRing d f).latch = c.latch := (rfl)
@[simp] theorem Chip.modRing_bus (d : Nat) (f : RingDesc → RingDesc) : (c.modRing d f).bus = c.bus := (rfl)
@[simp] theorem Chip.modRing_mbx (d : Nat) (f : RingDesc → RingDesc) : (c.modRing d f).mbx = c.mbx := (rfl)
@[simp] theorem Chip.modRing_posted (d : Nat) (f : RingDesc → RingDesc) : (c.modRing d f).posted = c.posted := (rfl)
@[simp] theorem Chip.modRing_req (d : Nat) (f : RingDesc → RingDesc) : (c.modRing d f).req = c.req := (rfl)
@[simp] theorem Chip.modRing_aux (d : Nat) (f : RingDesc → RingDesc) : (c.modRing d f).aux = c.aux := (rfl)
@[simp] theorem Chip.modRing_prm (d : Nat) (f : RingDesc → RingDesc) : (c.modRing d f).prm = c.prm := (rfl)
@[simp] theorem Chip.modRing_cons (d : Nat) (f : RingDesc → RingDesc) : (c.modRing d f).cons = c.cons := (rfl)
@[simp] theorem Chip.modRing_tnt (d : Nat) (f : RingDesc → RingDesc) : (c.modRing d f).tnt = c.tnt := (rfl)
@[simp] theorem Chip.modRing_replay (d : Nat) (f : RingDesc → RingDesc) : (c.modRing d f).replay = c.replay := (rfl)
@[simp] theorem Chip.modRing_recseq (d : Nat) (f : RingDesc → RingDesc) : (c.modRing d f).recseq = c.recseq := (rfl)
@[simp] theorem Chip.modRing_adpMem (d : Nat) (f : RingDesc → RingDesc) : (c.modRing d f).adpMem = c.adpMem := (rfl)
@[simp] theorem Chip.modRing_adpDir (d : Nat) (f : RingDesc → RingDesc) : (c.modRing d f).adpDir = c.adpDir := (rfl)
@[simp] theorem Chip.modRing_delta (d : Nat) (f : RingDesc → RingDesc) : (c.modRing d f).delta = c.delta := (rfl)
@[simp] theorem Chip.modRing_trie (d : Nat) (f : RingDesc → RingDesc) : (c.modRing d f).trie = c.trie := (rfl)
@[simp] theorem Chip.modRing_staging (d : Nat) (f : RingDesc → RingDesc) : (c.modRing d f).staging = c.staging := (rfl)
@[simp] theorem Chip.modRing_statics (d : Nat) (f : RingDesc → RingDesc) : (c.modRing d f).statics = c.statics := (rfl)
@[simp] theorem Chip.modRing_deny (d : Nat) (f : RingDesc → RingDesc) : (c.modRing d f).deny = c.deny := (rfl)
@[simp] theorem Chip.modRing_grammar (d : Nat) (f : RingDesc → RingDesc) : (c.modRing d f).grammar = c.grammar := (rfl)
@[simp] theorem Chip.modRing_dir (d : Nat) (f : RingDesc → RingDesc) : (c.modRing d f).dir = c.dir := (rfl)
@[simp] theorem Chip.modRing_page (d : Nat) (f : RingDesc → RingDesc) : (c.modRing d f).page = c.page := (rfl)
@[simp] theorem Chip.modRing_lagoon (d : Nat) (f : RingDesc → RingDesc) : (c.modRing d f).lagoon = c.lagoon := (rfl)
@[simp] theorem Chip.modRing_scratch (d : Nat) (f : RingDesc → RingDesc) : (c.modRing d f).scratch = c.scratch := (rfl)
@[simp] theorem Chip.modRing_lane (d : Nat) (f : RingDesc → RingDesc) : (c.modRing d f).lane = c.lane := (rfl)
@[simp] theorem Chip.modRing_acc (d : Nat) (f : RingDesc → RingDesc) : (c.modRing d f).acc = c.acc := (rfl)
@[simp] theorem Chip.modRing_wide (d : Nat) (f : RingDesc → RingDesc) : (c.modRing d f).wide = c.wide := (rfl)
@[simp] theorem Chip.modRing_colScale (d : Nat) (f : RingDesc → RingDesc) : (c.modRing d f).colScale = c.colScale := (rfl)
@[simp] theorem Chip.modRing_atoll (d : Nat) (f : RingDesc → RingDesc) : (c.modRing d f).atoll = c.atoll := (rfl)
@[simp] theorem Chip.modRing_bank (d : Nat) (f : RingDesc → RingDesc) : (c.modRing d f).bank = c.bank := (rfl)
@[simp] theorem Chip.modRing_bankSel (d : Nat) (f : RingDesc → RingDesc) : (c.modRing d f).bankSel = c.bankSel := (rfl)
@[simp] theorem Chip.modRing_plan (d : Nat) (f : RingDesc → RingDesc) : (c.modRing d f).plan = c.plan := (rfl)
@[simp] theorem Chip.modRing_stp (d : Nat) (f : RingDesc → RingDesc) : (c.modRing d f).stp = c.stp := (rfl)
@[simp] theorem Chip.modRing_inputs (d : Nat) (f : RingDesc → RingDesc) : (c.modRing d f).inputs = c.inputs := (rfl)
@[simp] theorem Chip.modRing_fw (d : Nat) (f : RingDesc → RingDesc) : (c.modRing d f).fw = c.fw := (rfl)
@[simp] theorem Chip.modRing_merge (d : Nat) (f : RingDesc → RingDesc) : (c.modRing d f).merge = c.merge := (rfl)
@[simp] theorem Chip.modRing_mir (d : Nat) (f : RingDesc → RingDesc) : (c.modRing d f).mir = c.mir := (rfl)
@[simp] theorem Chip.modRing_mirRx (d : Nat) (f : RingDesc → RingDesc) : (c.modRing d f).mirRx = c.mirRx := (rfl)
@[simp] theorem Chip.modRing_lock (d : Nat) (f : RingDesc → RingDesc) : (c.modRing d f).lock = c.lock := (rfl)
@[simp] theorem Chip.modRing_pmc (d : Nat) (f : RingDesc → RingDesc) : (c.modRing d f).pmc = c.pmc := (rfl)
@[simp] theorem Chip.modRing_dbg (d : Nat) (f : RingDesc → RingDesc) : (c.modRing d f).dbg = c.dbg := (rfl)
@[simp] theorem Chip.modRing_log (d : Nat) (f : RingDesc → RingDesc) : (c.modRing d f).log = c.log := (rfl)
@[simp] theorem Chip.modRing_rpr (d : Nat) (f : RingDesc → RingDesc) : (c.modRing d f).rpr = c.rpr := (rfl)
@[simp] theorem Chip.modRing_fab (d : Nat) (f : RingDesc → RingDesc) : (c.modRing d f).fab = c.fab := (rfl)
@[simp] theorem Chip.modRing_mch (d : Nat) (f : RingDesc → RingDesc) : (c.modRing d f).mch = c.mch := (rfl)
@[simp] theorem Chip.modRing_pwr (d : Nat) (f : RingDesc → RingDesc) : (c.modRing d f).pwr = c.pwr := (rfl)
@[simp] theorem Chip.modRing_psram (d : Nat) (f : RingDesc → RingDesc) : (c.modRing d f).psram = c.psram := (rfl)
@[simp] theorem Chip.modRing_out (d : Nat) (f : RingDesc → RingDesc) : (c.modRing d f).out = c.out := (rfl)
@[simp] theorem Chip.modRing_fresh (d : Nat) (f : RingDesc → RingDesc) : (c.modRing d f).fresh = c.fresh := (rfl)

@[simp] theorem Chip.modMbx_clk (m : Nat) (f : Mailbox → Mailbox) : (c.modMbx m f).clk = c.clk := (rfl)
@[simp] theorem Chip.modMbx_cyc (m : Nat) (f : Mailbox → Mailbox) : (c.modMbx m f).cyc = c.cyc := (rfl)
@[simp] theorem Chip.modMbx_tick (m : Nat) (f : Mailbox → Mailbox) : (c.modMbx m f).tick = c.tick := (rfl)
@[simp] theorem Chip.modMbx_ureg (m : Nat) (f : Mailbox → Mailbox) : (c.modMbx m f).ureg = c.ureg := (rfl)
@[simp] theorem Chip.modMbx_areg (m : Nat) (f : Mailbox → Mailbox) : (c.modMbx m f).areg = c.areg := (rfl)
@[simp] theorem Chip.modMbx_regNext (m : Nat) (f : Mailbox → Mailbox) : (c.modMbx m f).regNext = c.regNext := (rfl)
@[simp] theorem Chip.modMbx_latch (m : Nat) (f : Mailbox → Mailbox) : (c.modMbx m f).latch = c.latch := (rfl)
@[simp] theorem Chip.modMbx_bus (m : Nat) (f : Mailbox → Mailbox) : (c.modMbx m f).bus = c.bus := (rfl)
@[simp] theorem Chip.modMbx_posted (m : Nat) (f : Mailbox → Mailbox) : (c.modMbx m f).posted = c.posted := (rfl)
@[simp] theorem Chip.modMbx_req (m : Nat) (f : Mailbox → Mailbox) : (c.modMbx m f).req = c.req := (rfl)
@[simp] theorem Chip.modMbx_aux (m : Nat) (f : Mailbox → Mailbox) : (c.modMbx m f).aux = c.aux := (rfl)
@[simp] theorem Chip.modMbx_prm (m : Nat) (f : Mailbox → Mailbox) : (c.modMbx m f).prm = c.prm := (rfl)
@[simp] theorem Chip.modMbx_ring (m : Nat) (f : Mailbox → Mailbox) : (c.modMbx m f).ring = c.ring := (rfl)
@[simp] theorem Chip.modMbx_cons (m : Nat) (f : Mailbox → Mailbox) : (c.modMbx m f).cons = c.cons := (rfl)
@[simp] theorem Chip.modMbx_tnt (m : Nat) (f : Mailbox → Mailbox) : (c.modMbx m f).tnt = c.tnt := (rfl)
@[simp] theorem Chip.modMbx_replay (m : Nat) (f : Mailbox → Mailbox) : (c.modMbx m f).replay = c.replay := (rfl)
@[simp] theorem Chip.modMbx_recseq (m : Nat) (f : Mailbox → Mailbox) : (c.modMbx m f).recseq = c.recseq := (rfl)
@[simp] theorem Chip.modMbx_adpMem (m : Nat) (f : Mailbox → Mailbox) : (c.modMbx m f).adpMem = c.adpMem := (rfl)
@[simp] theorem Chip.modMbx_adpDir (m : Nat) (f : Mailbox → Mailbox) : (c.modMbx m f).adpDir = c.adpDir := (rfl)
@[simp] theorem Chip.modMbx_delta (m : Nat) (f : Mailbox → Mailbox) : (c.modMbx m f).delta = c.delta := (rfl)
@[simp] theorem Chip.modMbx_trie (m : Nat) (f : Mailbox → Mailbox) : (c.modMbx m f).trie = c.trie := (rfl)
@[simp] theorem Chip.modMbx_staging (m : Nat) (f : Mailbox → Mailbox) : (c.modMbx m f).staging = c.staging := (rfl)
@[simp] theorem Chip.modMbx_statics (m : Nat) (f : Mailbox → Mailbox) : (c.modMbx m f).statics = c.statics := (rfl)
@[simp] theorem Chip.modMbx_deny (m : Nat) (f : Mailbox → Mailbox) : (c.modMbx m f).deny = c.deny := (rfl)
@[simp] theorem Chip.modMbx_grammar (m : Nat) (f : Mailbox → Mailbox) : (c.modMbx m f).grammar = c.grammar := (rfl)
@[simp] theorem Chip.modMbx_dir (m : Nat) (f : Mailbox → Mailbox) : (c.modMbx m f).dir = c.dir := (rfl)
@[simp] theorem Chip.modMbx_page (m : Nat) (f : Mailbox → Mailbox) : (c.modMbx m f).page = c.page := (rfl)
@[simp] theorem Chip.modMbx_lagoon (m : Nat) (f : Mailbox → Mailbox) : (c.modMbx m f).lagoon = c.lagoon := (rfl)
@[simp] theorem Chip.modMbx_scratch (m : Nat) (f : Mailbox → Mailbox) : (c.modMbx m f).scratch = c.scratch := (rfl)
@[simp] theorem Chip.modMbx_lane (m : Nat) (f : Mailbox → Mailbox) : (c.modMbx m f).lane = c.lane := (rfl)
@[simp] theorem Chip.modMbx_acc (m : Nat) (f : Mailbox → Mailbox) : (c.modMbx m f).acc = c.acc := (rfl)
@[simp] theorem Chip.modMbx_wide (m : Nat) (f : Mailbox → Mailbox) : (c.modMbx m f).wide = c.wide := (rfl)
@[simp] theorem Chip.modMbx_colScale (m : Nat) (f : Mailbox → Mailbox) : (c.modMbx m f).colScale = c.colScale := (rfl)
@[simp] theorem Chip.modMbx_atoll (m : Nat) (f : Mailbox → Mailbox) : (c.modMbx m f).atoll = c.atoll := (rfl)
@[simp] theorem Chip.modMbx_bank (m : Nat) (f : Mailbox → Mailbox) : (c.modMbx m f).bank = c.bank := (rfl)
@[simp] theorem Chip.modMbx_bankSel (m : Nat) (f : Mailbox → Mailbox) : (c.modMbx m f).bankSel = c.bankSel := (rfl)
@[simp] theorem Chip.modMbx_plan (m : Nat) (f : Mailbox → Mailbox) : (c.modMbx m f).plan = c.plan := (rfl)
@[simp] theorem Chip.modMbx_stp (m : Nat) (f : Mailbox → Mailbox) : (c.modMbx m f).stp = c.stp := (rfl)
@[simp] theorem Chip.modMbx_inputs (m : Nat) (f : Mailbox → Mailbox) : (c.modMbx m f).inputs = c.inputs := (rfl)
@[simp] theorem Chip.modMbx_fw (m : Nat) (f : Mailbox → Mailbox) : (c.modMbx m f).fw = c.fw := (rfl)
@[simp] theorem Chip.modMbx_merge (m : Nat) (f : Mailbox → Mailbox) : (c.modMbx m f).merge = c.merge := (rfl)
@[simp] theorem Chip.modMbx_mir (m : Nat) (f : Mailbox → Mailbox) : (c.modMbx m f).mir = c.mir := (rfl)
@[simp] theorem Chip.modMbx_mirRx (m : Nat) (f : Mailbox → Mailbox) : (c.modMbx m f).mirRx = c.mirRx := (rfl)
@[simp] theorem Chip.modMbx_lock (m : Nat) (f : Mailbox → Mailbox) : (c.modMbx m f).lock = c.lock := (rfl)
@[simp] theorem Chip.modMbx_pmc (m : Nat) (f : Mailbox → Mailbox) : (c.modMbx m f).pmc = c.pmc := (rfl)
@[simp] theorem Chip.modMbx_dbg (m : Nat) (f : Mailbox → Mailbox) : (c.modMbx m f).dbg = c.dbg := (rfl)
@[simp] theorem Chip.modMbx_log (m : Nat) (f : Mailbox → Mailbox) : (c.modMbx m f).log = c.log := (rfl)
@[simp] theorem Chip.modMbx_rpr (m : Nat) (f : Mailbox → Mailbox) : (c.modMbx m f).rpr = c.rpr := (rfl)
@[simp] theorem Chip.modMbx_fab (m : Nat) (f : Mailbox → Mailbox) : (c.modMbx m f).fab = c.fab := (rfl)
@[simp] theorem Chip.modMbx_mch (m : Nat) (f : Mailbox → Mailbox) : (c.modMbx m f).mch = c.mch := (rfl)
@[simp] theorem Chip.modMbx_pwr (m : Nat) (f : Mailbox → Mailbox) : (c.modMbx m f).pwr = c.pwr := (rfl)
@[simp] theorem Chip.modMbx_psram (m : Nat) (f : Mailbox → Mailbox) : (c.modMbx m f).psram = c.psram := (rfl)
@[simp] theorem Chip.modMbx_out (m : Nat) (f : Mailbox → Mailbox) : (c.modMbx m f).out = c.out := (rfl)
@[simp] theorem Chip.modMbx_fresh (m : Nat) (f : Mailbox → Mailbox) : (c.modMbx m f).fresh = c.fresh := (rfl)

@[simp] theorem Chip.modTnt_clk (t : Nat) (f : Tenant → Tenant) : (c.modTnt t f).clk = c.clk := (rfl)
@[simp] theorem Chip.modTnt_cyc (t : Nat) (f : Tenant → Tenant) : (c.modTnt t f).cyc = c.cyc := (rfl)
@[simp] theorem Chip.modTnt_tick (t : Nat) (f : Tenant → Tenant) : (c.modTnt t f).tick = c.tick := (rfl)
@[simp] theorem Chip.modTnt_ureg (t : Nat) (f : Tenant → Tenant) : (c.modTnt t f).ureg = c.ureg := (rfl)
@[simp] theorem Chip.modTnt_areg (t : Nat) (f : Tenant → Tenant) : (c.modTnt t f).areg = c.areg := (rfl)
@[simp] theorem Chip.modTnt_regNext (t : Nat) (f : Tenant → Tenant) : (c.modTnt t f).regNext = c.regNext := (rfl)
@[simp] theorem Chip.modTnt_latch (t : Nat) (f : Tenant → Tenant) : (c.modTnt t f).latch = c.latch := (rfl)
@[simp] theorem Chip.modTnt_bus (t : Nat) (f : Tenant → Tenant) : (c.modTnt t f).bus = c.bus := (rfl)
@[simp] theorem Chip.modTnt_mbx (t : Nat) (f : Tenant → Tenant) : (c.modTnt t f).mbx = c.mbx := (rfl)
@[simp] theorem Chip.modTnt_posted (t : Nat) (f : Tenant → Tenant) : (c.modTnt t f).posted = c.posted := (rfl)
@[simp] theorem Chip.modTnt_req (t : Nat) (f : Tenant → Tenant) : (c.modTnt t f).req = c.req := (rfl)
@[simp] theorem Chip.modTnt_aux (t : Nat) (f : Tenant → Tenant) : (c.modTnt t f).aux = c.aux := (rfl)
@[simp] theorem Chip.modTnt_prm (t : Nat) (f : Tenant → Tenant) : (c.modTnt t f).prm = c.prm := (rfl)
@[simp] theorem Chip.modTnt_ring (t : Nat) (f : Tenant → Tenant) : (c.modTnt t f).ring = c.ring := (rfl)
@[simp] theorem Chip.modTnt_cons (t : Nat) (f : Tenant → Tenant) : (c.modTnt t f).cons = c.cons := (rfl)
@[simp] theorem Chip.modTnt_replay (t : Nat) (f : Tenant → Tenant) : (c.modTnt t f).replay = c.replay := (rfl)
@[simp] theorem Chip.modTnt_recseq (t : Nat) (f : Tenant → Tenant) : (c.modTnt t f).recseq = c.recseq := (rfl)
@[simp] theorem Chip.modTnt_adpMem (t : Nat) (f : Tenant → Tenant) : (c.modTnt t f).adpMem = c.adpMem := (rfl)
@[simp] theorem Chip.modTnt_adpDir (t : Nat) (f : Tenant → Tenant) : (c.modTnt t f).adpDir = c.adpDir := (rfl)
@[simp] theorem Chip.modTnt_delta (t : Nat) (f : Tenant → Tenant) : (c.modTnt t f).delta = c.delta := (rfl)
@[simp] theorem Chip.modTnt_trie (t : Nat) (f : Tenant → Tenant) : (c.modTnt t f).trie = c.trie := (rfl)
@[simp] theorem Chip.modTnt_staging (t : Nat) (f : Tenant → Tenant) : (c.modTnt t f).staging = c.staging := (rfl)
@[simp] theorem Chip.modTnt_statics (t : Nat) (f : Tenant → Tenant) : (c.modTnt t f).statics = c.statics := (rfl)
@[simp] theorem Chip.modTnt_deny (t : Nat) (f : Tenant → Tenant) : (c.modTnt t f).deny = c.deny := (rfl)
@[simp] theorem Chip.modTnt_grammar (t : Nat) (f : Tenant → Tenant) : (c.modTnt t f).grammar = c.grammar := (rfl)
@[simp] theorem Chip.modTnt_dir (t : Nat) (f : Tenant → Tenant) : (c.modTnt t f).dir = c.dir := (rfl)
@[simp] theorem Chip.modTnt_page (t : Nat) (f : Tenant → Tenant) : (c.modTnt t f).page = c.page := (rfl)
@[simp] theorem Chip.modTnt_lagoon (t : Nat) (f : Tenant → Tenant) : (c.modTnt t f).lagoon = c.lagoon := (rfl)
@[simp] theorem Chip.modTnt_scratch (t : Nat) (f : Tenant → Tenant) : (c.modTnt t f).scratch = c.scratch := (rfl)
@[simp] theorem Chip.modTnt_lane (t : Nat) (f : Tenant → Tenant) : (c.modTnt t f).lane = c.lane := (rfl)
@[simp] theorem Chip.modTnt_acc (t : Nat) (f : Tenant → Tenant) : (c.modTnt t f).acc = c.acc := (rfl)
@[simp] theorem Chip.modTnt_wide (t : Nat) (f : Tenant → Tenant) : (c.modTnt t f).wide = c.wide := (rfl)
@[simp] theorem Chip.modTnt_colScale (t : Nat) (f : Tenant → Tenant) : (c.modTnt t f).colScale = c.colScale := (rfl)
@[simp] theorem Chip.modTnt_atoll (t : Nat) (f : Tenant → Tenant) : (c.modTnt t f).atoll = c.atoll := (rfl)
@[simp] theorem Chip.modTnt_bank (t : Nat) (f : Tenant → Tenant) : (c.modTnt t f).bank = c.bank := (rfl)
@[simp] theorem Chip.modTnt_bankSel (t : Nat) (f : Tenant → Tenant) : (c.modTnt t f).bankSel = c.bankSel := (rfl)
@[simp] theorem Chip.modTnt_plan (t : Nat) (f : Tenant → Tenant) : (c.modTnt t f).plan = c.plan := (rfl)
@[simp] theorem Chip.modTnt_stp (t : Nat) (f : Tenant → Tenant) : (c.modTnt t f).stp = c.stp := (rfl)
@[simp] theorem Chip.modTnt_inputs (t : Nat) (f : Tenant → Tenant) : (c.modTnt t f).inputs = c.inputs := (rfl)
@[simp] theorem Chip.modTnt_fw (t : Nat) (f : Tenant → Tenant) : (c.modTnt t f).fw = c.fw := (rfl)
@[simp] theorem Chip.modTnt_merge (t : Nat) (f : Tenant → Tenant) : (c.modTnt t f).merge = c.merge := (rfl)
@[simp] theorem Chip.modTnt_mir (t : Nat) (f : Tenant → Tenant) : (c.modTnt t f).mir = c.mir := (rfl)
@[simp] theorem Chip.modTnt_mirRx (t : Nat) (f : Tenant → Tenant) : (c.modTnt t f).mirRx = c.mirRx := (rfl)
@[simp] theorem Chip.modTnt_lock (t : Nat) (f : Tenant → Tenant) : (c.modTnt t f).lock = c.lock := (rfl)
@[simp] theorem Chip.modTnt_pmc (t : Nat) (f : Tenant → Tenant) : (c.modTnt t f).pmc = c.pmc := (rfl)
@[simp] theorem Chip.modTnt_dbg (t : Nat) (f : Tenant → Tenant) : (c.modTnt t f).dbg = c.dbg := (rfl)
@[simp] theorem Chip.modTnt_log (t : Nat) (f : Tenant → Tenant) : (c.modTnt t f).log = c.log := (rfl)
@[simp] theorem Chip.modTnt_rpr (t : Nat) (f : Tenant → Tenant) : (c.modTnt t f).rpr = c.rpr := (rfl)
@[simp] theorem Chip.modTnt_fab (t : Nat) (f : Tenant → Tenant) : (c.modTnt t f).fab = c.fab := (rfl)
@[simp] theorem Chip.modTnt_mch (t : Nat) (f : Tenant → Tenant) : (c.modTnt t f).mch = c.mch := (rfl)
@[simp] theorem Chip.modTnt_pwr (t : Nat) (f : Tenant → Tenant) : (c.modTnt t f).pwr = c.pwr := (rfl)
@[simp] theorem Chip.modTnt_psram (t : Nat) (f : Tenant → Tenant) : (c.modTnt t f).psram = c.psram := (rfl)
@[simp] theorem Chip.modTnt_out (t : Nat) (f : Tenant → Tenant) : (c.modTnt t f).out = c.out := (rfl)
@[simp] theorem Chip.modTnt_fresh (t : Nat) (f : Tenant → Tenant) : (c.modTnt t f).fresh = c.fresh := (rfl)

@[simp] theorem Chip.modFab_clk (p : Nat) (f : FabPort → FabPort) : (c.modFab p f).clk = c.clk := (rfl)
@[simp] theorem Chip.modFab_cyc (p : Nat) (f : FabPort → FabPort) : (c.modFab p f).cyc = c.cyc := (rfl)
@[simp] theorem Chip.modFab_tick (p : Nat) (f : FabPort → FabPort) : (c.modFab p f).tick = c.tick := (rfl)
@[simp] theorem Chip.modFab_ureg (p : Nat) (f : FabPort → FabPort) : (c.modFab p f).ureg = c.ureg := (rfl)
@[simp] theorem Chip.modFab_areg (p : Nat) (f : FabPort → FabPort) : (c.modFab p f).areg = c.areg := (rfl)
@[simp] theorem Chip.modFab_regNext (p : Nat) (f : FabPort → FabPort) : (c.modFab p f).regNext = c.regNext := (rfl)
@[simp] theorem Chip.modFab_latch (p : Nat) (f : FabPort → FabPort) : (c.modFab p f).latch = c.latch := (rfl)
@[simp] theorem Chip.modFab_bus (p : Nat) (f : FabPort → FabPort) : (c.modFab p f).bus = c.bus := (rfl)
@[simp] theorem Chip.modFab_mbx (p : Nat) (f : FabPort → FabPort) : (c.modFab p f).mbx = c.mbx := (rfl)
@[simp] theorem Chip.modFab_posted (p : Nat) (f : FabPort → FabPort) : (c.modFab p f).posted = c.posted := (rfl)
@[simp] theorem Chip.modFab_req (p : Nat) (f : FabPort → FabPort) : (c.modFab p f).req = c.req := (rfl)
@[simp] theorem Chip.modFab_aux (p : Nat) (f : FabPort → FabPort) : (c.modFab p f).aux = c.aux := (rfl)
@[simp] theorem Chip.modFab_prm (p : Nat) (f : FabPort → FabPort) : (c.modFab p f).prm = c.prm := (rfl)
@[simp] theorem Chip.modFab_ring (p : Nat) (f : FabPort → FabPort) : (c.modFab p f).ring = c.ring := (rfl)
@[simp] theorem Chip.modFab_cons (p : Nat) (f : FabPort → FabPort) : (c.modFab p f).cons = c.cons := (rfl)
@[simp] theorem Chip.modFab_tnt (p : Nat) (f : FabPort → FabPort) : (c.modFab p f).tnt = c.tnt := (rfl)
@[simp] theorem Chip.modFab_replay (p : Nat) (f : FabPort → FabPort) : (c.modFab p f).replay = c.replay := (rfl)
@[simp] theorem Chip.modFab_recseq (p : Nat) (f : FabPort → FabPort) : (c.modFab p f).recseq = c.recseq := (rfl)
@[simp] theorem Chip.modFab_adpMem (p : Nat) (f : FabPort → FabPort) : (c.modFab p f).adpMem = c.adpMem := (rfl)
@[simp] theorem Chip.modFab_adpDir (p : Nat) (f : FabPort → FabPort) : (c.modFab p f).adpDir = c.adpDir := (rfl)
@[simp] theorem Chip.modFab_delta (p : Nat) (f : FabPort → FabPort) : (c.modFab p f).delta = c.delta := (rfl)
@[simp] theorem Chip.modFab_trie (p : Nat) (f : FabPort → FabPort) : (c.modFab p f).trie = c.trie := (rfl)
@[simp] theorem Chip.modFab_staging (p : Nat) (f : FabPort → FabPort) : (c.modFab p f).staging = c.staging := (rfl)
@[simp] theorem Chip.modFab_statics (p : Nat) (f : FabPort → FabPort) : (c.modFab p f).statics = c.statics := (rfl)
@[simp] theorem Chip.modFab_deny (p : Nat) (f : FabPort → FabPort) : (c.modFab p f).deny = c.deny := (rfl)
@[simp] theorem Chip.modFab_grammar (p : Nat) (f : FabPort → FabPort) : (c.modFab p f).grammar = c.grammar := (rfl)
@[simp] theorem Chip.modFab_dir (p : Nat) (f : FabPort → FabPort) : (c.modFab p f).dir = c.dir := (rfl)
@[simp] theorem Chip.modFab_page (p : Nat) (f : FabPort → FabPort) : (c.modFab p f).page = c.page := (rfl)
@[simp] theorem Chip.modFab_lagoon (p : Nat) (f : FabPort → FabPort) : (c.modFab p f).lagoon = c.lagoon := (rfl)
@[simp] theorem Chip.modFab_scratch (p : Nat) (f : FabPort → FabPort) : (c.modFab p f).scratch = c.scratch := (rfl)
@[simp] theorem Chip.modFab_lane (p : Nat) (f : FabPort → FabPort) : (c.modFab p f).lane = c.lane := (rfl)
@[simp] theorem Chip.modFab_acc (p : Nat) (f : FabPort → FabPort) : (c.modFab p f).acc = c.acc := (rfl)
@[simp] theorem Chip.modFab_wide (p : Nat) (f : FabPort → FabPort) : (c.modFab p f).wide = c.wide := (rfl)
@[simp] theorem Chip.modFab_colScale (p : Nat) (f : FabPort → FabPort) : (c.modFab p f).colScale = c.colScale := (rfl)
@[simp] theorem Chip.modFab_atoll (p : Nat) (f : FabPort → FabPort) : (c.modFab p f).atoll = c.atoll := (rfl)
@[simp] theorem Chip.modFab_bank (p : Nat) (f : FabPort → FabPort) : (c.modFab p f).bank = c.bank := (rfl)
@[simp] theorem Chip.modFab_bankSel (p : Nat) (f : FabPort → FabPort) : (c.modFab p f).bankSel = c.bankSel := (rfl)
@[simp] theorem Chip.modFab_plan (p : Nat) (f : FabPort → FabPort) : (c.modFab p f).plan = c.plan := (rfl)
@[simp] theorem Chip.modFab_stp (p : Nat) (f : FabPort → FabPort) : (c.modFab p f).stp = c.stp := (rfl)
@[simp] theorem Chip.modFab_inputs (p : Nat) (f : FabPort → FabPort) : (c.modFab p f).inputs = c.inputs := (rfl)
@[simp] theorem Chip.modFab_fw (p : Nat) (f : FabPort → FabPort) : (c.modFab p f).fw = c.fw := (rfl)
@[simp] theorem Chip.modFab_merge (p : Nat) (f : FabPort → FabPort) : (c.modFab p f).merge = c.merge := (rfl)
@[simp] theorem Chip.modFab_mir (p : Nat) (f : FabPort → FabPort) : (c.modFab p f).mir = c.mir := (rfl)
@[simp] theorem Chip.modFab_mirRx (p : Nat) (f : FabPort → FabPort) : (c.modFab p f).mirRx = c.mirRx := (rfl)
@[simp] theorem Chip.modFab_lock (p : Nat) (f : FabPort → FabPort) : (c.modFab p f).lock = c.lock := (rfl)
@[simp] theorem Chip.modFab_pmc (p : Nat) (f : FabPort → FabPort) : (c.modFab p f).pmc = c.pmc := (rfl)
@[simp] theorem Chip.modFab_dbg (p : Nat) (f : FabPort → FabPort) : (c.modFab p f).dbg = c.dbg := (rfl)
@[simp] theorem Chip.modFab_log (p : Nat) (f : FabPort → FabPort) : (c.modFab p f).log = c.log := (rfl)
@[simp] theorem Chip.modFab_rpr (p : Nat) (f : FabPort → FabPort) : (c.modFab p f).rpr = c.rpr := (rfl)
@[simp] theorem Chip.modFab_mch (p : Nat) (f : FabPort → FabPort) : (c.modFab p f).mch = c.mch := (rfl)
@[simp] theorem Chip.modFab_pwr (p : Nat) (f : FabPort → FabPort) : (c.modFab p f).pwr = c.pwr := (rfl)
@[simp] theorem Chip.modFab_psram (p : Nat) (f : FabPort → FabPort) : (c.modFab p f).psram = c.psram := (rfl)
@[simp] theorem Chip.modFab_out (p : Nat) (f : FabPort → FabPort) : (c.modFab p f).out = c.out := (rfl)
@[simp] theorem Chip.modFab_fresh (p : Nat) (f : FabPort → FabPort) : (c.modFab p f).fresh = c.fresh := (rfl)

@[simp] theorem Chip.modMir_clk (q : Nat) (f : MirrorEnt → MirrorEnt) : (c.modMir q f).clk = c.clk := (rfl)
@[simp] theorem Chip.modMir_cyc (q : Nat) (f : MirrorEnt → MirrorEnt) : (c.modMir q f).cyc = c.cyc := (rfl)
@[simp] theorem Chip.modMir_tick (q : Nat) (f : MirrorEnt → MirrorEnt) : (c.modMir q f).tick = c.tick := (rfl)
@[simp] theorem Chip.modMir_ureg (q : Nat) (f : MirrorEnt → MirrorEnt) : (c.modMir q f).ureg = c.ureg := (rfl)
@[simp] theorem Chip.modMir_areg (q : Nat) (f : MirrorEnt → MirrorEnt) : (c.modMir q f).areg = c.areg := (rfl)
@[simp] theorem Chip.modMir_regNext (q : Nat) (f : MirrorEnt → MirrorEnt) : (c.modMir q f).regNext = c.regNext := (rfl)
@[simp] theorem Chip.modMir_latch (q : Nat) (f : MirrorEnt → MirrorEnt) : (c.modMir q f).latch = c.latch := (rfl)
@[simp] theorem Chip.modMir_bus (q : Nat) (f : MirrorEnt → MirrorEnt) : (c.modMir q f).bus = c.bus := (rfl)
@[simp] theorem Chip.modMir_mbx (q : Nat) (f : MirrorEnt → MirrorEnt) : (c.modMir q f).mbx = c.mbx := (rfl)
@[simp] theorem Chip.modMir_posted (q : Nat) (f : MirrorEnt → MirrorEnt) : (c.modMir q f).posted = c.posted := (rfl)
@[simp] theorem Chip.modMir_req (q : Nat) (f : MirrorEnt → MirrorEnt) : (c.modMir q f).req = c.req := (rfl)
@[simp] theorem Chip.modMir_aux (q : Nat) (f : MirrorEnt → MirrorEnt) : (c.modMir q f).aux = c.aux := (rfl)
@[simp] theorem Chip.modMir_prm (q : Nat) (f : MirrorEnt → MirrorEnt) : (c.modMir q f).prm = c.prm := (rfl)
@[simp] theorem Chip.modMir_ring (q : Nat) (f : MirrorEnt → MirrorEnt) : (c.modMir q f).ring = c.ring := (rfl)
@[simp] theorem Chip.modMir_cons (q : Nat) (f : MirrorEnt → MirrorEnt) : (c.modMir q f).cons = c.cons := (rfl)
@[simp] theorem Chip.modMir_tnt (q : Nat) (f : MirrorEnt → MirrorEnt) : (c.modMir q f).tnt = c.tnt := (rfl)
@[simp] theorem Chip.modMir_replay (q : Nat) (f : MirrorEnt → MirrorEnt) : (c.modMir q f).replay = c.replay := (rfl)
@[simp] theorem Chip.modMir_recseq (q : Nat) (f : MirrorEnt → MirrorEnt) : (c.modMir q f).recseq = c.recseq := (rfl)
@[simp] theorem Chip.modMir_adpMem (q : Nat) (f : MirrorEnt → MirrorEnt) : (c.modMir q f).adpMem = c.adpMem := (rfl)
@[simp] theorem Chip.modMir_adpDir (q : Nat) (f : MirrorEnt → MirrorEnt) : (c.modMir q f).adpDir = c.adpDir := (rfl)
@[simp] theorem Chip.modMir_delta (q : Nat) (f : MirrorEnt → MirrorEnt) : (c.modMir q f).delta = c.delta := (rfl)
@[simp] theorem Chip.modMir_trie (q : Nat) (f : MirrorEnt → MirrorEnt) : (c.modMir q f).trie = c.trie := (rfl)
@[simp] theorem Chip.modMir_staging (q : Nat) (f : MirrorEnt → MirrorEnt) : (c.modMir q f).staging = c.staging := (rfl)
@[simp] theorem Chip.modMir_statics (q : Nat) (f : MirrorEnt → MirrorEnt) : (c.modMir q f).statics = c.statics := (rfl)
@[simp] theorem Chip.modMir_deny (q : Nat) (f : MirrorEnt → MirrorEnt) : (c.modMir q f).deny = c.deny := (rfl)
@[simp] theorem Chip.modMir_grammar (q : Nat) (f : MirrorEnt → MirrorEnt) : (c.modMir q f).grammar = c.grammar := (rfl)
@[simp] theorem Chip.modMir_dir (q : Nat) (f : MirrorEnt → MirrorEnt) : (c.modMir q f).dir = c.dir := (rfl)
@[simp] theorem Chip.modMir_page (q : Nat) (f : MirrorEnt → MirrorEnt) : (c.modMir q f).page = c.page := (rfl)
@[simp] theorem Chip.modMir_lagoon (q : Nat) (f : MirrorEnt → MirrorEnt) : (c.modMir q f).lagoon = c.lagoon := (rfl)
@[simp] theorem Chip.modMir_scratch (q : Nat) (f : MirrorEnt → MirrorEnt) : (c.modMir q f).scratch = c.scratch := (rfl)
@[simp] theorem Chip.modMir_lane (q : Nat) (f : MirrorEnt → MirrorEnt) : (c.modMir q f).lane = c.lane := (rfl)
@[simp] theorem Chip.modMir_acc (q : Nat) (f : MirrorEnt → MirrorEnt) : (c.modMir q f).acc = c.acc := (rfl)
@[simp] theorem Chip.modMir_wide (q : Nat) (f : MirrorEnt → MirrorEnt) : (c.modMir q f).wide = c.wide := (rfl)
@[simp] theorem Chip.modMir_colScale (q : Nat) (f : MirrorEnt → MirrorEnt) : (c.modMir q f).colScale = c.colScale := (rfl)
@[simp] theorem Chip.modMir_atoll (q : Nat) (f : MirrorEnt → MirrorEnt) : (c.modMir q f).atoll = c.atoll := (rfl)
@[simp] theorem Chip.modMir_bank (q : Nat) (f : MirrorEnt → MirrorEnt) : (c.modMir q f).bank = c.bank := (rfl)
@[simp] theorem Chip.modMir_bankSel (q : Nat) (f : MirrorEnt → MirrorEnt) : (c.modMir q f).bankSel = c.bankSel := (rfl)
@[simp] theorem Chip.modMir_plan (q : Nat) (f : MirrorEnt → MirrorEnt) : (c.modMir q f).plan = c.plan := (rfl)
@[simp] theorem Chip.modMir_stp (q : Nat) (f : MirrorEnt → MirrorEnt) : (c.modMir q f).stp = c.stp := (rfl)
@[simp] theorem Chip.modMir_inputs (q : Nat) (f : MirrorEnt → MirrorEnt) : (c.modMir q f).inputs = c.inputs := (rfl)
@[simp] theorem Chip.modMir_fw (q : Nat) (f : MirrorEnt → MirrorEnt) : (c.modMir q f).fw = c.fw := (rfl)
@[simp] theorem Chip.modMir_merge (q : Nat) (f : MirrorEnt → MirrorEnt) : (c.modMir q f).merge = c.merge := (rfl)
@[simp] theorem Chip.modMir_mirRx (q : Nat) (f : MirrorEnt → MirrorEnt) : (c.modMir q f).mirRx = c.mirRx := (rfl)
@[simp] theorem Chip.modMir_lock (q : Nat) (f : MirrorEnt → MirrorEnt) : (c.modMir q f).lock = c.lock := (rfl)
@[simp] theorem Chip.modMir_pmc (q : Nat) (f : MirrorEnt → MirrorEnt) : (c.modMir q f).pmc = c.pmc := (rfl)
@[simp] theorem Chip.modMir_dbg (q : Nat) (f : MirrorEnt → MirrorEnt) : (c.modMir q f).dbg = c.dbg := (rfl)
@[simp] theorem Chip.modMir_log (q : Nat) (f : MirrorEnt → MirrorEnt) : (c.modMir q f).log = c.log := (rfl)
@[simp] theorem Chip.modMir_rpr (q : Nat) (f : MirrorEnt → MirrorEnt) : (c.modMir q f).rpr = c.rpr := (rfl)
@[simp] theorem Chip.modMir_fab (q : Nat) (f : MirrorEnt → MirrorEnt) : (c.modMir q f).fab = c.fab := (rfl)
@[simp] theorem Chip.modMir_mch (q : Nat) (f : MirrorEnt → MirrorEnt) : (c.modMir q f).mch = c.mch := (rfl)
@[simp] theorem Chip.modMir_pwr (q : Nat) (f : MirrorEnt → MirrorEnt) : (c.modMir q f).pwr = c.pwr := (rfl)
@[simp] theorem Chip.modMir_psram (q : Nat) (f : MirrorEnt → MirrorEnt) : (c.modMir q f).psram = c.psram := (rfl)
@[simp] theorem Chip.modMir_out (q : Nat) (f : MirrorEnt → MirrorEnt) : (c.modMir q f).out = c.out := (rfl)
@[simp] theorem Chip.modMir_fresh (q : Nat) (f : MirrorEnt → MirrorEnt) : (c.modMir q f).fresh = c.fresh := (rfl)

@[simp] theorem Chip.mapRows_clk (p : Row → Bool) (f : Row → Row) : (c.mapRows p f).clk = c.clk := (rfl)
@[simp] theorem Chip.mapRows_cyc (p : Row → Bool) (f : Row → Row) : (c.mapRows p f).cyc = c.cyc := (rfl)
@[simp] theorem Chip.mapRows_tick (p : Row → Bool) (f : Row → Row) : (c.mapRows p f).tick = c.tick := (rfl)
@[simp] theorem Chip.mapRows_ureg (p : Row → Bool) (f : Row → Row) : (c.mapRows p f).ureg = c.ureg := (rfl)
@[simp] theorem Chip.mapRows_areg (p : Row → Bool) (f : Row → Row) : (c.mapRows p f).areg = c.areg := (rfl)
@[simp] theorem Chip.mapRows_regNext (p : Row → Bool) (f : Row → Row) : (c.mapRows p f).regNext = c.regNext := (rfl)
@[simp] theorem Chip.mapRows_latch (p : Row → Bool) (f : Row → Row) : (c.mapRows p f).latch = c.latch := (rfl)
@[simp] theorem Chip.mapRows_bus (p : Row → Bool) (f : Row → Row) : (c.mapRows p f).bus = c.bus := (rfl)
@[simp] theorem Chip.mapRows_mbx (p : Row → Bool) (f : Row → Row) : (c.mapRows p f).mbx = c.mbx := (rfl)
@[simp] theorem Chip.mapRows_posted (p : Row → Bool) (f : Row → Row) : (c.mapRows p f).posted = c.posted := (rfl)
@[simp] theorem Chip.mapRows_req (p : Row → Bool) (f : Row → Row) : (c.mapRows p f).req = c.req := (rfl)
@[simp] theorem Chip.mapRows_aux (p : Row → Bool) (f : Row → Row) : (c.mapRows p f).aux = c.aux := (rfl)
@[simp] theorem Chip.mapRows_prm (p : Row → Bool) (f : Row → Row) : (c.mapRows p f).prm = c.prm := (rfl)
@[simp] theorem Chip.mapRows_ring (p : Row → Bool) (f : Row → Row) : (c.mapRows p f).ring = c.ring := (rfl)
@[simp] theorem Chip.mapRows_cons (p : Row → Bool) (f : Row → Row) : (c.mapRows p f).cons = c.cons := (rfl)
@[simp] theorem Chip.mapRows_tnt (p : Row → Bool) (f : Row → Row) : (c.mapRows p f).tnt = c.tnt := (rfl)
@[simp] theorem Chip.mapRows_replay (p : Row → Bool) (f : Row → Row) : (c.mapRows p f).replay = c.replay := (rfl)
@[simp] theorem Chip.mapRows_recseq (p : Row → Bool) (f : Row → Row) : (c.mapRows p f).recseq = c.recseq := (rfl)
@[simp] theorem Chip.mapRows_adpMem (p : Row → Bool) (f : Row → Row) : (c.mapRows p f).adpMem = c.adpMem := (rfl)
@[simp] theorem Chip.mapRows_adpDir (p : Row → Bool) (f : Row → Row) : (c.mapRows p f).adpDir = c.adpDir := (rfl)
@[simp] theorem Chip.mapRows_delta (p : Row → Bool) (f : Row → Row) : (c.mapRows p f).delta = c.delta := (rfl)
@[simp] theorem Chip.mapRows_trie (p : Row → Bool) (f : Row → Row) : (c.mapRows p f).trie = c.trie := (rfl)
@[simp] theorem Chip.mapRows_staging (p : Row → Bool) (f : Row → Row) : (c.mapRows p f).staging = c.staging := (rfl)
@[simp] theorem Chip.mapRows_statics (p : Row → Bool) (f : Row → Row) : (c.mapRows p f).statics = c.statics := (rfl)
@[simp] theorem Chip.mapRows_deny (p : Row → Bool) (f : Row → Row) : (c.mapRows p f).deny = c.deny := (rfl)
@[simp] theorem Chip.mapRows_grammar (p : Row → Bool) (f : Row → Row) : (c.mapRows p f).grammar = c.grammar := (rfl)
@[simp] theorem Chip.mapRows_dir (p : Row → Bool) (f : Row → Row) : (c.mapRows p f).dir = c.dir := (rfl)
@[simp] theorem Chip.mapRows_page (p : Row → Bool) (f : Row → Row) : (c.mapRows p f).page = c.page := (rfl)
@[simp] theorem Chip.mapRows_lagoon (p : Row → Bool) (f : Row → Row) : (c.mapRows p f).lagoon = c.lagoon := (rfl)
@[simp] theorem Chip.mapRows_scratch (p : Row → Bool) (f : Row → Row) : (c.mapRows p f).scratch = c.scratch := (rfl)
@[simp] theorem Chip.mapRows_lane (p : Row → Bool) (f : Row → Row) : (c.mapRows p f).lane = c.lane := (rfl)
@[simp] theorem Chip.mapRows_acc (p : Row → Bool) (f : Row → Row) : (c.mapRows p f).acc = c.acc := (rfl)
@[simp] theorem Chip.mapRows_wide (p : Row → Bool) (f : Row → Row) : (c.mapRows p f).wide = c.wide := (rfl)
@[simp] theorem Chip.mapRows_colScale (p : Row → Bool) (f : Row → Row) : (c.mapRows p f).colScale = c.colScale := (rfl)
@[simp] theorem Chip.mapRows_atoll (p : Row → Bool) (f : Row → Row) : (c.mapRows p f).atoll = c.atoll := (rfl)
@[simp] theorem Chip.mapRows_bank (p : Row → Bool) (f : Row → Row) : (c.mapRows p f).bank = c.bank := (rfl)
@[simp] theorem Chip.mapRows_bankSel (p : Row → Bool) (f : Row → Row) : (c.mapRows p f).bankSel = c.bankSel := (rfl)
@[simp] theorem Chip.mapRows_plan (p : Row → Bool) (f : Row → Row) : (c.mapRows p f).plan = c.plan := (rfl)
@[simp] theorem Chip.mapRows_inputs (p : Row → Bool) (f : Row → Row) : (c.mapRows p f).inputs = c.inputs := (rfl)
@[simp] theorem Chip.mapRows_fw (p : Row → Bool) (f : Row → Row) : (c.mapRows p f).fw = c.fw := (rfl)
@[simp] theorem Chip.mapRows_merge (p : Row → Bool) (f : Row → Row) : (c.mapRows p f).merge = c.merge := (rfl)
@[simp] theorem Chip.mapRows_mir (p : Row → Bool) (f : Row → Row) : (c.mapRows p f).mir = c.mir := (rfl)
@[simp] theorem Chip.mapRows_mirRx (p : Row → Bool) (f : Row → Row) : (c.mapRows p f).mirRx = c.mirRx := (rfl)
@[simp] theorem Chip.mapRows_lock (p : Row → Bool) (f : Row → Row) : (c.mapRows p f).lock = c.lock := (rfl)
@[simp] theorem Chip.mapRows_pmc (p : Row → Bool) (f : Row → Row) : (c.mapRows p f).pmc = c.pmc := (rfl)
@[simp] theorem Chip.mapRows_dbg (p : Row → Bool) (f : Row → Row) : (c.mapRows p f).dbg = c.dbg := (rfl)
@[simp] theorem Chip.mapRows_log (p : Row → Bool) (f : Row → Row) : (c.mapRows p f).log = c.log := (rfl)
@[simp] theorem Chip.mapRows_rpr (p : Row → Bool) (f : Row → Row) : (c.mapRows p f).rpr = c.rpr := (rfl)
@[simp] theorem Chip.mapRows_fab (p : Row → Bool) (f : Row → Row) : (c.mapRows p f).fab = c.fab := (rfl)
@[simp] theorem Chip.mapRows_mch (p : Row → Bool) (f : Row → Row) : (c.mapRows p f).mch = c.mch := (rfl)
@[simp] theorem Chip.mapRows_pwr (p : Row → Bool) (f : Row → Row) : (c.mapRows p f).pwr = c.pwr := (rfl)
@[simp] theorem Chip.mapRows_psram (p : Row → Bool) (f : Row → Row) : (c.mapRows p f).psram = c.psram := (rfl)
@[simp] theorem Chip.mapRows_out (p : Row → Bool) (f : Row → Row) : (c.mapRows p f).out = c.out := (rfl)
@[simp] theorem Chip.mapRows_fresh (p : Row → Bool) (f : Row → Row) : (c.mapRows p f).fresh = c.fresh := (rfl)

@[simp] theorem Chip.emit_clk (m : OutMsg) : (c.emit m).clk = c.clk := (rfl)
@[simp] theorem Chip.emit_cyc (m : OutMsg) : (c.emit m).cyc = c.cyc := (rfl)
@[simp] theorem Chip.emit_tick (m : OutMsg) : (c.emit m).tick = c.tick := (rfl)
@[simp] theorem Chip.emit_ureg (m : OutMsg) : (c.emit m).ureg = c.ureg := (rfl)
@[simp] theorem Chip.emit_areg (m : OutMsg) : (c.emit m).areg = c.areg := (rfl)
@[simp] theorem Chip.emit_regNext (m : OutMsg) : (c.emit m).regNext = c.regNext := (rfl)
@[simp] theorem Chip.emit_latch (m : OutMsg) : (c.emit m).latch = c.latch := (rfl)
@[simp] theorem Chip.emit_bus (m : OutMsg) : (c.emit m).bus = c.bus := (rfl)
@[simp] theorem Chip.emit_mbx (m : OutMsg) : (c.emit m).mbx = c.mbx := (rfl)
@[simp] theorem Chip.emit_posted (m : OutMsg) : (c.emit m).posted = c.posted := (rfl)
@[simp] theorem Chip.emit_req (m : OutMsg) : (c.emit m).req = c.req := (rfl)
@[simp] theorem Chip.emit_aux (m : OutMsg) : (c.emit m).aux = c.aux := (rfl)
@[simp] theorem Chip.emit_prm (m : OutMsg) : (c.emit m).prm = c.prm := (rfl)
@[simp] theorem Chip.emit_ring (m : OutMsg) : (c.emit m).ring = c.ring := (rfl)
@[simp] theorem Chip.emit_cons (m : OutMsg) : (c.emit m).cons = c.cons := (rfl)
@[simp] theorem Chip.emit_tnt (m : OutMsg) : (c.emit m).tnt = c.tnt := (rfl)
@[simp] theorem Chip.emit_replay (m : OutMsg) : (c.emit m).replay = c.replay := (rfl)
@[simp] theorem Chip.emit_recseq (m : OutMsg) : (c.emit m).recseq = c.recseq := (rfl)
@[simp] theorem Chip.emit_adpMem (m : OutMsg) : (c.emit m).adpMem = c.adpMem := (rfl)
@[simp] theorem Chip.emit_adpDir (m : OutMsg) : (c.emit m).adpDir = c.adpDir := (rfl)
@[simp] theorem Chip.emit_delta (m : OutMsg) : (c.emit m).delta = c.delta := (rfl)
@[simp] theorem Chip.emit_trie (m : OutMsg) : (c.emit m).trie = c.trie := (rfl)
@[simp] theorem Chip.emit_staging (m : OutMsg) : (c.emit m).staging = c.staging := (rfl)
@[simp] theorem Chip.emit_statics (m : OutMsg) : (c.emit m).statics = c.statics := (rfl)
@[simp] theorem Chip.emit_deny (m : OutMsg) : (c.emit m).deny = c.deny := (rfl)
@[simp] theorem Chip.emit_grammar (m : OutMsg) : (c.emit m).grammar = c.grammar := (rfl)
@[simp] theorem Chip.emit_dir (m : OutMsg) : (c.emit m).dir = c.dir := (rfl)
@[simp] theorem Chip.emit_page (m : OutMsg) : (c.emit m).page = c.page := (rfl)
@[simp] theorem Chip.emit_lagoon (m : OutMsg) : (c.emit m).lagoon = c.lagoon := (rfl)
@[simp] theorem Chip.emit_scratch (m : OutMsg) : (c.emit m).scratch = c.scratch := (rfl)
@[simp] theorem Chip.emit_lane (m : OutMsg) : (c.emit m).lane = c.lane := (rfl)
@[simp] theorem Chip.emit_acc (m : OutMsg) : (c.emit m).acc = c.acc := (rfl)
@[simp] theorem Chip.emit_wide (m : OutMsg) : (c.emit m).wide = c.wide := (rfl)
@[simp] theorem Chip.emit_colScale (m : OutMsg) : (c.emit m).colScale = c.colScale := (rfl)
@[simp] theorem Chip.emit_atoll (m : OutMsg) : (c.emit m).atoll = c.atoll := (rfl)
@[simp] theorem Chip.emit_bank (m : OutMsg) : (c.emit m).bank = c.bank := (rfl)
@[simp] theorem Chip.emit_bankSel (m : OutMsg) : (c.emit m).bankSel = c.bankSel := (rfl)
@[simp] theorem Chip.emit_plan (m : OutMsg) : (c.emit m).plan = c.plan := (rfl)
@[simp] theorem Chip.emit_stp (m : OutMsg) : (c.emit m).stp = c.stp := (rfl)
@[simp] theorem Chip.emit_inputs (m : OutMsg) : (c.emit m).inputs = c.inputs := (rfl)
@[simp] theorem Chip.emit_fw (m : OutMsg) : (c.emit m).fw = c.fw := (rfl)
@[simp] theorem Chip.emit_merge (m : OutMsg) : (c.emit m).merge = c.merge := (rfl)
@[simp] theorem Chip.emit_mir (m : OutMsg) : (c.emit m).mir = c.mir := (rfl)
@[simp] theorem Chip.emit_mirRx (m : OutMsg) : (c.emit m).mirRx = c.mirRx := (rfl)
@[simp] theorem Chip.emit_lock (m : OutMsg) : (c.emit m).lock = c.lock := (rfl)
@[simp] theorem Chip.emit_pmc (m : OutMsg) : (c.emit m).pmc = c.pmc := (rfl)
@[simp] theorem Chip.emit_dbg (m : OutMsg) : (c.emit m).dbg = c.dbg := (rfl)
@[simp] theorem Chip.emit_log (m : OutMsg) : (c.emit m).log = c.log := (rfl)
@[simp] theorem Chip.emit_rpr (m : OutMsg) : (c.emit m).rpr = c.rpr := (rfl)
@[simp] theorem Chip.emit_fab (m : OutMsg) : (c.emit m).fab = c.fab := (rfl)
@[simp] theorem Chip.emit_mch (m : OutMsg) : (c.emit m).mch = c.mch := (rfl)
@[simp] theorem Chip.emit_pwr (m : OutMsg) : (c.emit m).pwr = c.pwr := (rfl)
@[simp] theorem Chip.emit_psram (m : OutMsg) : (c.emit m).psram = c.psram := (rfl)
@[simp] theorem Chip.emit_fresh (m : OutMsg) : (c.emit m).fresh = c.fresh := (rfl)

@[simp] theorem Chip.mark_clk (k : Nat) (w : Word) : (c.mark k w).clk = c.clk := (rfl)
@[simp] theorem Chip.mark_tick (k : Nat) (w : Word) : (c.mark k w).tick = c.tick := (rfl)
@[simp] theorem Chip.mark_ureg (k : Nat) (w : Word) : (c.mark k w).ureg = c.ureg := (rfl)
@[simp] theorem Chip.mark_areg (k : Nat) (w : Word) : (c.mark k w).areg = c.areg := (rfl)
@[simp] theorem Chip.mark_regNext (k : Nat) (w : Word) : (c.mark k w).regNext = c.regNext := (rfl)
@[simp] theorem Chip.mark_latch (k : Nat) (w : Word) : (c.mark k w).latch = c.latch := (rfl)
@[simp] theorem Chip.mark_bus (k : Nat) (w : Word) : (c.mark k w).bus = c.bus := (rfl)
@[simp] theorem Chip.mark_mbx (k : Nat) (w : Word) : (c.mark k w).mbx = c.mbx := (rfl)
@[simp] theorem Chip.mark_posted (k : Nat) (w : Word) : (c.mark k w).posted = c.posted := (rfl)
@[simp] theorem Chip.mark_req (k : Nat) (w : Word) : (c.mark k w).req = c.req := (rfl)
@[simp] theorem Chip.mark_aux (k : Nat) (w : Word) : (c.mark k w).aux = c.aux := (rfl)
@[simp] theorem Chip.mark_prm (k : Nat) (w : Word) : (c.mark k w).prm = c.prm := (rfl)
@[simp] theorem Chip.mark_ring (k : Nat) (w : Word) : (c.mark k w).ring = c.ring := (rfl)
@[simp] theorem Chip.mark_cons (k : Nat) (w : Word) : (c.mark k w).cons = c.cons := (rfl)
@[simp] theorem Chip.mark_tnt (k : Nat) (w : Word) : (c.mark k w).tnt = c.tnt := (rfl)
@[simp] theorem Chip.mark_replay (k : Nat) (w : Word) : (c.mark k w).replay = c.replay := (rfl)
@[simp] theorem Chip.mark_recseq (k : Nat) (w : Word) : (c.mark k w).recseq = c.recseq := (rfl)
@[simp] theorem Chip.mark_adpMem (k : Nat) (w : Word) : (c.mark k w).adpMem = c.adpMem := (rfl)
@[simp] theorem Chip.mark_adpDir (k : Nat) (w : Word) : (c.mark k w).adpDir = c.adpDir := (rfl)
@[simp] theorem Chip.mark_delta (k : Nat) (w : Word) : (c.mark k w).delta = c.delta := (rfl)
@[simp] theorem Chip.mark_trie (k : Nat) (w : Word) : (c.mark k w).trie = c.trie := (rfl)
@[simp] theorem Chip.mark_staging (k : Nat) (w : Word) : (c.mark k w).staging = c.staging := (rfl)
@[simp] theorem Chip.mark_statics (k : Nat) (w : Word) : (c.mark k w).statics = c.statics := (rfl)
@[simp] theorem Chip.mark_deny (k : Nat) (w : Word) : (c.mark k w).deny = c.deny := (rfl)
@[simp] theorem Chip.mark_grammar (k : Nat) (w : Word) : (c.mark k w).grammar = c.grammar := (rfl)
@[simp] theorem Chip.mark_dir (k : Nat) (w : Word) : (c.mark k w).dir = c.dir := (rfl)
@[simp] theorem Chip.mark_page (k : Nat) (w : Word) : (c.mark k w).page = c.page := (rfl)
@[simp] theorem Chip.mark_lagoon (k : Nat) (w : Word) : (c.mark k w).lagoon = c.lagoon := (rfl)
@[simp] theorem Chip.mark_scratch (k : Nat) (w : Word) : (c.mark k w).scratch = c.scratch := (rfl)
@[simp] theorem Chip.mark_lane (k : Nat) (w : Word) : (c.mark k w).lane = c.lane := (rfl)
@[simp] theorem Chip.mark_acc (k : Nat) (w : Word) : (c.mark k w).acc = c.acc := (rfl)
@[simp] theorem Chip.mark_wide (k : Nat) (w : Word) : (c.mark k w).wide = c.wide := (rfl)
@[simp] theorem Chip.mark_colScale (k : Nat) (w : Word) : (c.mark k w).colScale = c.colScale := (rfl)
@[simp] theorem Chip.mark_atoll (k : Nat) (w : Word) : (c.mark k w).atoll = c.atoll := (rfl)
@[simp] theorem Chip.mark_bank (k : Nat) (w : Word) : (c.mark k w).bank = c.bank := (rfl)
@[simp] theorem Chip.mark_bankSel (k : Nat) (w : Word) : (c.mark k w).bankSel = c.bankSel := (rfl)
@[simp] theorem Chip.mark_plan (k : Nat) (w : Word) : (c.mark k w).plan = c.plan := (rfl)
@[simp] theorem Chip.mark_stp (k : Nat) (w : Word) : (c.mark k w).stp = c.stp := (rfl)
@[simp] theorem Chip.mark_inputs (k : Nat) (w : Word) : (c.mark k w).inputs = c.inputs := (rfl)
@[simp] theorem Chip.mark_fw (k : Nat) (w : Word) : (c.mark k w).fw = c.fw := (rfl)
@[simp] theorem Chip.mark_merge (k : Nat) (w : Word) : (c.mark k w).merge = c.merge := (rfl)
@[simp] theorem Chip.mark_mir (k : Nat) (w : Word) : (c.mark k w).mir = c.mir := (rfl)
@[simp] theorem Chip.mark_mirRx (k : Nat) (w : Word) : (c.mark k w).mirRx = c.mirRx := (rfl)
@[simp] theorem Chip.mark_lock (k : Nat) (w : Word) : (c.mark k w).lock = c.lock := (rfl)
@[simp] theorem Chip.mark_pmc (k : Nat) (w : Word) : (c.mark k w).pmc = c.pmc := (rfl)
@[simp] theorem Chip.mark_dbg (k : Nat) (w : Word) : (c.mark k w).dbg = c.dbg := (rfl)
@[simp] theorem Chip.mark_log (k : Nat) (w : Word) : (c.mark k w).log = c.log := (rfl)
@[simp] theorem Chip.mark_rpr (k : Nat) (w : Word) : (c.mark k w).rpr = c.rpr := (rfl)
@[simp] theorem Chip.mark_fab (k : Nat) (w : Word) : (c.mark k w).fab = c.fab := (rfl)
@[simp] theorem Chip.mark_mch (k : Nat) (w : Word) : (c.mark k w).mch = c.mch := (rfl)
@[simp] theorem Chip.mark_pwr (k : Nat) (w : Word) : (c.mark k w).pwr = c.pwr := (rfl)
@[simp] theorem Chip.mark_psram (k : Nat) (w : Word) : (c.mark k w).psram = c.psram := (rfl)
@[simp] theorem Chip.mark_out (k : Nat) (w : Word) : (c.mark k w).out = c.out := (rfl)
@[simp] theorem Chip.mark_fresh (k : Nat) (w : Word) : (c.mark k w).fresh = c.fresh := (rfl)

/-! ### What an event can change -/

variable {c}

theorem tidy_canonical (m : SMap Word) : canonical (tidy m) = true := by
  induction m with
  | nil => rfl
  | cons e r ih => exact tset_canonical _ _ _ ih

@[simp] theorem tget_tidy (m : SMap Word) (k : Nat) : tget (tidy m) k = tget m k := by
  induction m with
  | nil => rfl
  | cons e r ih =>
    show tget (tset (tidy r) e.1 e.2) k = _
    rw [tget_tset, ih]
    by_cases h : e.1 = k
    · subst h; simp [tget]
    · simp [tget, h, Ne.symm h]

/-- A register that no event can change reads as before. -/
theorem tget_quiet (m : SMap Word) (k : Nat) : tget (quiet m) k = if eventReg k then default else tget m k := by
  unfold quiet
  rw [tget_tidy, tget_filter]

/-- Two register files that differ in event registers at most are alike without those. -/
theorem quiet_ext {m n : SMap Word} (h : ∀ k, eventReg k = false → tget m k = tget n k) : quiet m = quiet n := by
  refine canonical_ext _ _ (tidy_canonical _) (tidy_canonical _) fun k => ?_
  rw [tget_quiet, tget_quiet]
  cases hk : eventReg k
  · exact h k hk
  · rfl

theorem quiet_tset (m : SMap Word) (o : Nat) (w : Word) (h : eventReg o = true) : quiet (tset m o w) = quiet m :=
  quiet_ext fun k hk => tget_tset_ne _ _ fun e => by rw [e, h] at hk; cases hk

theorem Chip.setReg_calm (o : Nat) (w : Word) (h : eventReg o = true) : (c.setReg o w).calm = c.calm := by
  unfold Chip.calm Chip.setReg
  dsimp only
  rw [quiet_tset _ _ _ h]
@[simp] theorem Chip.mark_calm (k : Nat) (w : Word) : (c.mark k w).calm = c.calm := (rfl)
theorem Chip.orReg_calm (o : Nat) (w : Word) (h : eventReg o = true) : (c.orReg o w).calm = c.calm :=
  (Chip.mark_calm _ _).trans (Chip.setReg_calm _ _ h)
theorem Chip.count_calm (o n : Nat) (h : eventReg o = true) : (c.count o n).calm = c.calm := Chip.setReg_calm _ _ h
theorem Chip.emit_msix_calm (v : Byte) : (c.emit (.msix v)).calm = c.calm := by
  unfold Chip.calm Chip.emit
  simp [OutMsg.isMsix]

theorem Chip.cyc_calm (x : Chip) (y : CycSt) : ({ x with cyc := y } : Chip).calm = x.calm := (rfl)
@[simp] theorem Chip.msix_calm (n : Nat) : (c.msix n).calm = c.calm := by
  unfold Chip.msix
  split
  · rfl
  · exact (Chip.cyc_calm _ _).trans (Chip.emit_msix_calm _)

@[simp] theorem Chip.irq_calm (n : Nat) : (c.irq n).calm = c.calm := by
  unfold Chip.irq
  dsimp only
  split
  · exact Chip.orReg_calm _ _ rfl
  · exact (Chip.msix_calm _).trans (Chip.orReg_calm _ _ rfl)

@[simp] theorem Chip.logPut_calm (e : LogEnt) : (c.logPut e).calm = c.calm := by
  unfold Chip.logPut
  extract_lets x reg old d
  have h : d.calm = c.calm := by
    show (if _ then _ else _ : Chip).calm = _
    split
    · exact Chip.count_calm _ _ rfl
    · rfl
  split <;> exact h

theorem Chip.log_calm (x : Chip) (l : LogSt) : ({ x with log := l } : Chip).calm = x.calm := (rfl)
@[simp] theorem Chip.logStep_calm : c.logStep.calm = c.calm := Chip.log_calm c _
@[simp] theorem Chip.logLast_calm (e : LogEnt) : (c.logLast e).calm = c.calm :=
  (Chip.mark_calm _ _).trans (Chip.log_calm c { c.log with lastChance := e, lcValid := true })
@[simp] theorem Chip.logSwitch_calm : c.logSwitch.calm = c.calm := (Chip.log_calm (c.count 0x194 _) _).trans (Chip.count_calm _ _ rfl)

@[simp] theorem Chip.logStore_calm (e : LogEnt) : (c.logStore e).calm = c.calm := by
  unfold Chip.logStore
  generalize hx : (c.logLast e).logSwitch.logStep = x
  have h : x.calm = c.calm := by rw [← hx]; simp
  split
  · rw [Chip.logStep_calm]
    split
    · exact Chip.count_calm _ _ rfl
    · simp
  · split
    · dsimp only
      split
      · exact (Chip.log_calm _ _).trans ((Chip.count_calm _ _ rfl).trans ((Chip.irq_calm _).trans h))
      · simp [h]
    · simp

@[simp] theorem Chip.logOne_calm (r : LogReq) : (c.logOne r).calm = c.calm := by
  have h1 : (if r.ev.late then c.count 0x040 1 else c).calm = c.calm := by
    split
    · exact Chip.count_calm _ _ rfl
    · rfl
  unfold Chip.logOne
  refine (Chip.logStore_calm _).trans ?_
  split
  · exact (Chip.irq_calm _).trans h1
  · exact h1

@[simp] theorem Chip.pmcWrap_calm (k : Nat) : (c.pmcWrap k).1.calm = c.calm := by
  unfold Chip.pmcWrap
  dsimp only
  split
  · exact Chip.irq_calm _
  · rfl

@[simp] theorem Chip.pmcAdd_calm (k n : Nat) : (c.pmcAdd k n).1.calm = c.calm := by
  unfold Chip.pmcAdd
  dsimp only
  split
  · rfl
  · split
    · split
      · rfl
      · exact Chip.pmcWrap_calm _
    · exact Chip.pmcWrap_calm _

@[simp] theorem Chip.pmcEvent_calm (lo hi code n : Nat) : (c.pmcEvent lo hi code n).1.calm = c.calm := by
  unfold Chip.pmcEvent
  generalize (c.pmc.ctr.filter _) = l
  suffices ∀ (acc : Chip × List LogReq), acc.1.calm = c.calm →
      (l.foldl (fun acc p => let r := acc.1.pmcAdd p.1 n; (r.1, acc.2 ++ r.2)) acc).1.calm = c.calm from this _ rfl
  induction l with
  | nil => exact fun _ h => h
  | cons e r ih => exact fun acc h => ih _ ((Chip.pmcAdd_calm _ _).trans h)

@[simp] theorem Chip.logAll_calm (n : Nat) (rs : List LogReq) : (Chip.logAll n c rs).calm = c.calm := by
  induction n generalizing c rs with
  | zero => cases rs <;> rfl
  | succ n ih =>
    cases rs with
    | nil => rfl
    | cons r rs => exact (ih _).trans ((Chip.pmcEvent_calm _ _ _ _).trans (Chip.logOne_calm _))

@[simp] theorem Chip.note_calm (e : Ev) (s a b d : Nat) : (c.note e s a b d).calm = c.calm := Chip.logAll_calm _ _

@[simp] theorem Chip.event_calm (code n : Nat) : (c.event code n).calm = c.calm := by
  unfold Chip.event
  split
  · rfl
  · exact (Chip.logAll_calm _ _).trans (Chip.pmcEvent_calm _ _ _ _)

@[simp] theorem Chip.eventAtl_calm (p code n : Nat) : (c.eventAtl p code n).calm = c.calm := by
  unfold Chip.eventAtl
  split
  · rfl
  · exact (Chip.logAll_calm _ _).trans (Chip.pmcEvent_calm _ _ _ _)

@[simp] theorem Chip.eventPort_calm (p code n : Nat) : (c.eventPort p code n).calm = c.calm := by
  unfold Chip.eventPort
  split
  · rfl
  · exact (Chip.logAll_calm _ _).trans (Chip.pmcEvent_calm _ _ _ _)

@[simp] theorem Chip.eventMch_calm (code n : Nat) : (c.eventMch code n).calm = c.calm :=
  (Chip.logAll_calm _ _).trans (Chip.pmcEvent_calm _ _ _ _)

@[simp] theorem Chip.noteOnce_calm (m : Nat) (e : Ev) (s a b d : Nat) : (c.noteOnce m e s a b d).calm = c.calm := by
  unfold Chip.noteOnce
  split
  · rfl
  · exact Chip.note_calm _ _ _ _ _

@[simp] theorem Chip.histAdd_calm (e b n : Nat) : (c.histAdd e b n).calm = c.calm := by
  unfold Chip.histAdd
  dsimp only
  split
  · exact (Chip.irq_calm _).trans (Chip.note_calm _ _ _ _ _)
  · rfl

@[simp] theorem Chip.sample_calm (m b : Nat) : (c.sample m b).calm = c.calm := by
  unfold Chip.sample
  generalize (c.pmc.hist.filter _) = l
  suffices ∀ x : Chip, x.calm = c.calm → (l.foldl (fun a p => a.histAdd p.1 b 1) x).calm = c.calm from this _ rfl
  induction l with
  | nil => exact fun _ h => h
  | cons e r ih => exact fun x h => ih _ ((Chip.histAdd_calm _ _ _).trans h)

/-- An update that leaves the calm part alone is the update of the four others. -/
theorem Chip.calm_eq {d : Chip} (h : d.calm = c.calm) : d = { c with ureg := d.ureg, pmc := d.pmc, log := d.log, out := d.out, cyc := d.cyc } := by
  obtain ⟨⟩ := c
  obtain ⟨⟩ := d
  simp only [Chip.calm, Chip.mk.injEq, true_and] at h ⊢
  simp_all

variable {d : Chip} (h : d.calm = c.calm)
include h

/-- Events leave every register of the unit control page but four alone. -/
theorem Chip.calm_reg {o : Nat} (ho : eventReg o = false) : d.reg o = c.reg o := by
  have hc : quiet d.ureg = quiet c.ureg := (congrArg Chip.ureg h : d.calm.ureg = c.calm.ureg)
  have hk : ∀ m : SMap Word, tget (quiet m) o = tget m o := fun m => by simp [tget_quiet, ho]
  unfold Chip.reg
  rw [← hk d.ureg, hc, hk]

/-- Events send MSI-X messages only. -/
theorem Chip.calm_out : (d.out.filter fun m => !m.isMsix) = c.out.filter fun m => !m.isMsix :=
  (congrArg Chip.out h : d.calm.out = c.calm.out)
theorem Chip.calm_clk : d.clk = c.clk := (congrArg Chip.clk h : d.calm.clk = c.calm.clk)
theorem Chip.calm_tick : d.tick = c.tick := (congrArg Chip.tick h : d.calm.tick = c.calm.tick)
theorem Chip.calm_areg : d.areg = c.areg := (congrArg Chip.areg h : d.calm.areg = c.calm.areg)
theorem Chip.calm_regNext : d.regNext = c.regNext := (congrArg Chip.regNext h : d.calm.regNext = c.calm.regNext)
theorem Chip.calm_latch : d.latch = c.latch := (congrArg Chip.latch h : d.calm.latch = c.calm.latch)
theorem Chip.calm_bus : d.bus = c.bus := (congrArg Chip.bus h : d.calm.bus = c.calm.bus)
theorem Chip.calm_mbx : d.mbx = c.mbx := (congrArg Chip.mbx h : d.calm.mbx = c.calm.mbx)
theorem Chip.calm_posted : d.posted = c.posted := (congrArg Chip.posted h : d.calm.posted = c.calm.posted)
theorem Chip.calm_req : d.req = c.req := (congrArg Chip.req h : d.calm.req = c.calm.req)
theorem Chip.calm_aux : d.aux = c.aux := (congrArg Chip.aux h : d.calm.aux = c.calm.aux)
theorem Chip.calm_prm : d.prm = c.prm := (congrArg Chip.prm h : d.calm.prm = c.calm.prm)
theorem Chip.calm_ring : d.ring = c.ring := (congrArg Chip.ring h : d.calm.ring = c.calm.ring)
theorem Chip.calm_cons : d.cons = c.cons := (congrArg Chip.cons h : d.calm.cons = c.calm.cons)
theorem Chip.calm_tnt : d.tnt = c.tnt := (congrArg Chip.tnt h : d.calm.tnt = c.calm.tnt)
theorem Chip.calm_replay : d.replay = c.replay := (congrArg Chip.replay h : d.calm.replay = c.calm.replay)
theorem Chip.calm_recseq : d.recseq = c.recseq := (congrArg Chip.recseq h : d.calm.recseq = c.calm.recseq)
theorem Chip.calm_adpMem : d.adpMem = c.adpMem := (congrArg Chip.adpMem h : d.calm.adpMem = c.calm.adpMem)
theorem Chip.calm_adpDir : d.adpDir = c.adpDir := (congrArg Chip.adpDir h : d.calm.adpDir = c.calm.adpDir)
theorem Chip.calm_delta : d.delta = c.delta := (congrArg Chip.delta h : d.calm.delta = c.calm.delta)
theorem Chip.calm_trie : d.trie = c.trie := (congrArg Chip.trie h : d.calm.trie = c.calm.trie)
theorem Chip.calm_staging : d.staging = c.staging := (congrArg Chip.staging h : d.calm.staging = c.calm.staging)
theorem Chip.calm_statics : d.statics = c.statics := (congrArg Chip.statics h : d.calm.statics = c.calm.statics)
theorem Chip.calm_deny : d.deny = c.deny := (congrArg Chip.deny h : d.calm.deny = c.calm.deny)
theorem Chip.calm_grammar : d.grammar = c.grammar := (congrArg Chip.grammar h : d.calm.grammar = c.calm.grammar)
theorem Chip.calm_dir : d.dir = c.dir := (congrArg Chip.dir h : d.calm.dir = c.calm.dir)
theorem Chip.calm_page : d.page = c.page := (congrArg Chip.page h : d.calm.page = c.calm.page)
theorem Chip.calm_lagoon : d.lagoon = c.lagoon := (congrArg Chip.lagoon h : d.calm.lagoon = c.calm.lagoon)
theorem Chip.calm_scratch : d.scratch = c.scratch := (congrArg Chip.scratch h : d.calm.scratch = c.calm.scratch)
theorem Chip.calm_lane : d.lane = c.lane := (congrArg Chip.lane h : d.calm.lane = c.calm.lane)
theorem Chip.calm_acc : d.acc = c.acc := (congrArg Chip.acc h : d.calm.acc = c.calm.acc)
theorem Chip.calm_wide : d.wide = c.wide := (congrArg Chip.wide h : d.calm.wide = c.calm.wide)
theorem Chip.calm_colScale : d.colScale = c.colScale := (congrArg Chip.colScale h : d.calm.colScale = c.calm.colScale)
theorem Chip.calm_atoll : d.atoll = c.atoll := (congrArg Chip.atoll h : d.calm.atoll = c.calm.atoll)
theorem Chip.calm_bank : d.bank = c.bank := (congrArg Chip.bank h : d.calm.bank = c.calm.bank)
theorem Chip.calm_bankSel : d.bankSel = c.bankSel := (congrArg Chip.bankSel h : d.calm.bankSel = c.calm.bankSel)
theorem Chip.calm_plan : d.plan = c.plan := (congrArg Chip.plan h : d.calm.plan = c.calm.plan)
theorem Chip.calm_stp : d.stp = c.stp := (congrArg Chip.stp h : d.calm.stp = c.calm.stp)
theorem Chip.calm_inputs : d.inputs = c.inputs := (congrArg Chip.inputs h : d.calm.inputs = c.calm.inputs)
theorem Chip.calm_fw : d.fw = c.fw := (congrArg Chip.fw h : d.calm.fw = c.calm.fw)
theorem Chip.calm_merge : d.merge = c.merge := (congrArg Chip.merge h : d.calm.merge = c.calm.merge)
theorem Chip.calm_mir : d.mir = c.mir := (congrArg Chip.mir h : d.calm.mir = c.calm.mir)
theorem Chip.calm_mirRx : d.mirRx = c.mirRx := (congrArg Chip.mirRx h : d.calm.mirRx = c.calm.mirRx)
theorem Chip.calm_lock : d.lock = c.lock := (congrArg Chip.lock h : d.calm.lock = c.calm.lock)
theorem Chip.calm_dbg : d.dbg = c.dbg := (congrArg Chip.dbg h : d.calm.dbg = c.calm.dbg)
theorem Chip.calm_rpr : d.rpr = c.rpr := (congrArg Chip.rpr h : d.calm.rpr = c.calm.rpr)
theorem Chip.calm_fab : d.fab = c.fab := (congrArg Chip.fab h : d.calm.fab = c.calm.fab)
theorem Chip.calm_mch : d.mch = c.mch := (congrArg Chip.mch h : d.calm.mch = c.calm.mch)
theorem Chip.calm_pwr : d.pwr = c.pwr := (congrArg Chip.pwr h : d.calm.pwr = c.calm.pwr)
theorem Chip.calm_psram : d.psram = c.psram := (congrArg Chip.psram h : d.calm.psram = c.calm.psram)
theorem Chip.calm_fresh : d.fresh = c.fresh := (congrArg Chip.fresh h : d.calm.fresh = c.calm.fresh)

end Sys2Proof.Machine

namespace Sys2Proof.Machine

variable {c d : Chip} (h : d.noStreams = c.noStreams)
include h

theorem Chip.noStreams_reg {o : Nat} (ho : eventReg o = false) : d.reg o = c.reg o := by
  have hc : quiet d.ureg = quiet c.ureg := (congrArg Chip.ureg h : d.noStreams.ureg = c.noStreams.ureg)
  have hk : ∀ m : SMap Word, tget (quiet m) o = tget m o := fun m => by simp [tget_quiet, ho]
  unfold Chip.reg
  rw [← hk d.ureg, hc, hk]
theorem Chip.noStreams_clk : d.clk = c.clk := (congrArg Chip.clk h : d.noStreams.clk = c.noStreams.clk)
theorem Chip.noStreams_tick : d.tick = c.tick := (congrArg Chip.tick h : d.noStreams.tick = c.noStreams.tick)
theorem Chip.noStreams_regNext : d.regNext = c.regNext := (congrArg Chip.regNext h : d.noStreams.regNext = c.noStreams.regNext)
theorem Chip.noStreams_latch : d.latch = c.latch := (congrArg Chip.latch h : d.noStreams.latch = c.noStreams.latch)
theorem Chip.noStreams_bus : d.bus = c.bus := (congrArg Chip.bus h : d.noStreams.bus = c.noStreams.bus)
theorem Chip.noStreams_mbx : d.mbx = c.mbx := (congrArg Chip.mbx h : d.noStreams.mbx = c.noStreams.mbx)
theorem Chip.noStreams_posted : d.posted = c.posted := (congrArg Chip.posted h : d.noStreams.posted = c.noStreams.posted)
theorem Chip.noStreams_req : d.req = c.req := (congrArg Chip.req h : d.noStreams.req = c.noStreams.req)
theorem Chip.noStreams_aux : d.aux = c.aux := (congrArg Chip.aux h : d.noStreams.aux = c.noStreams.aux)
theorem Chip.noStreams_prm : d.prm = c.prm := (congrArg Chip.prm h : d.noStreams.prm = c.noStreams.prm)
theorem Chip.noStreams_ring : d.ring = c.ring := (congrArg Chip.ring h : d.noStreams.ring = c.noStreams.ring)
theorem Chip.noStreams_cons : d.cons = c.cons := (congrArg Chip.cons h : d.noStreams.cons = c.noStreams.cons)
theorem Chip.noStreams_tnt : d.tnt = c.tnt := (congrArg Chip.tnt h : d.noStreams.tnt = c.noStreams.tnt)
theorem Chip.noStreams_replay : d.replay = c.replay := (congrArg Chip.replay h : d.noStreams.replay = c.noStreams.replay)
theorem Chip.noStreams_recseq : d.recseq = c.recseq := (congrArg Chip.recseq h : d.noStreams.recseq = c.noStreams.recseq)
theorem Chip.noStreams_adpMem : d.adpMem = c.adpMem := (congrArg Chip.adpMem h : d.noStreams.adpMem = c.noStreams.adpMem)
theorem Chip.noStreams_adpDir : d.adpDir = c.adpDir := (congrArg Chip.adpDir h : d.noStreams.adpDir = c.noStreams.adpDir)
theorem Chip.noStreams_delta : d.delta = c.delta := (congrArg Chip.delta h : d.noStreams.delta = c.noStreams.delta)
theorem Chip.noStreams_trie : d.trie = c.trie := (congrArg Chip.trie h : d.noStreams.trie = c.noStreams.trie)
theorem Chip.noStreams_staging : d.staging = c.staging := (congrArg Chip.staging h : d.noStreams.staging = c.noStreams.staging)
theorem Chip.noStreams_statics : d.statics = c.statics := (congrArg Chip.statics h : d.noStreams.statics = c.noStreams.statics)
theorem Chip.noStreams_deny : d.deny = c.deny := (congrArg Chip.deny h : d.noStreams.deny = c.noStreams.deny)
theorem Chip.noStreams_grammar : d.grammar = c.grammar := (congrArg Chip.grammar h : d.noStreams.grammar = c.noStreams.grammar)
theorem Chip.noStreams_dir : d.dir = c.dir := (congrArg Chip.dir h : d.noStreams.dir = c.noStreams.dir)
theorem Chip.noStreams_page : d.page = c.page := (congrArg Chip.page h : d.noStreams.page = c.noStreams.page)
theorem Chip.noStreams_lagoon : d.lagoon = c.lagoon := (congrArg Chip.lagoon h : d.noStreams.lagoon = c.noStreams.lagoon)
theorem Chip.noStreams_scratch : d.scratch = c.scratch := (congrArg Chip.scratch h : d.noStreams.scratch = c.noStreams.scratch)
theorem Chip.noStreams_acc : d.acc = c.acc := (congrArg Chip.acc h : d.noStreams.acc = c.noStreams.acc)
theorem Chip.noStreams_wide : d.wide = c.wide := (congrArg Chip.wide h : d.noStreams.wide = c.noStreams.wide)
theorem Chip.noStreams_colScale : d.colScale = c.colScale := (congrArg Chip.colScale h : d.noStreams.colScale = c.noStreams.colScale)
theorem Chip.noStreams_bank : d.bank = c.bank := (congrArg Chip.bank h : d.noStreams.bank = c.noStreams.bank)
theorem Chip.noStreams_bankSel : d.bankSel = c.bankSel := (congrArg Chip.bankSel h : d.noStreams.bankSel = c.noStreams.bankSel)
theorem Chip.noStreams_plan : d.plan = c.plan := (congrArg Chip.plan h : d.noStreams.plan = c.noStreams.plan)
theorem Chip.noStreams_stp : d.stp = c.stp := (congrArg Chip.stp h : d.noStreams.stp = c.noStreams.stp)
theorem Chip.noStreams_inputs : d.inputs = c.inputs := (congrArg Chip.inputs h : d.noStreams.inputs = c.noStreams.inputs)
theorem Chip.noStreams_fw : d.fw = c.fw := (congrArg Chip.fw h : d.noStreams.fw = c.noStreams.fw)
theorem Chip.noStreams_merge : d.merge = c.merge := (congrArg Chip.merge h : d.noStreams.merge = c.noStreams.merge)
theorem Chip.noStreams_mir : d.mir = c.mir := (congrArg Chip.mir h : d.noStreams.mir = c.noStreams.mir)
theorem Chip.noStreams_mirRx : d.mirRx = c.mirRx := (congrArg Chip.mirRx h : d.noStreams.mirRx = c.noStreams.mirRx)
theorem Chip.noStreams_lock : d.lock = c.lock := (congrArg Chip.lock h : d.noStreams.lock = c.noStreams.lock)
theorem Chip.noStreams_dbg : d.dbg = c.dbg := (congrArg Chip.dbg h : d.noStreams.dbg = c.noStreams.dbg)
theorem Chip.noStreams_rpr : d.rpr = c.rpr := (congrArg Chip.rpr h : d.noStreams.rpr = c.noStreams.rpr)
theorem Chip.noStreams_fab : d.fab = c.fab := (congrArg Chip.fab h : d.noStreams.fab = c.noStreams.fab)
theorem Chip.noStreams_mch : d.mch = c.mch := (congrArg Chip.mch h : d.noStreams.mch = c.noStreams.mch)
theorem Chip.noStreams_pwr : d.pwr = c.pwr := (congrArg Chip.pwr h : d.noStreams.pwr = c.noStreams.pwr)
theorem Chip.noStreams_psram : d.psram = c.psram := (congrArg Chip.psram h : d.noStreams.psram = c.noStreams.psram)
theorem Chip.noStreams_fresh : d.fresh = c.fresh := (congrArg Chip.fresh h : d.noStreams.fresh = c.noStreams.fresh)

end Sys2Proof.Machine
end

