-- ==== Sys2Proof/Laws/Lanes.lean ====
section
/-!
SUPPORT. What the shared operations of the two streams do: stepping, skipping, ending a phase, writing lane registers.
-/
namespace Sys2Proof.Machine

variable {c : Chip}

theorem Chip.calm_noStreams {d : Chip} (h : d.calm = c.calm) : d.noStreams = c.noStreams := by
  unfold Chip.noStreams
  rw [h]

@[simp] theorem Chip.setAtl_noStreams (p o : Nat) (w : Word) : (c.setAtl p o w).noStreams = c.noStreams := (rfl)
@[simp] theorem Chip.orAtl_noStreams (p o : Nat) (w : Word) : (c.orAtl p o w).noStreams = c.noStreams := (rfl)
@[simp] theorem Chip.modAtl_noStreams (a : Nat) (f : AtollSt → AtollSt) : (c.modAtl a f).noStreams = c.noStreams := (rfl)
@[simp] theorem Chip.modLn_noStreams (g : Nat) (f : Lane → Lane) : (c.modLn g f).noStreams = c.noStreams := (rfl)
@[simp] theorem Chip.note_noStreams (e : Ev) (s a b d : Nat) : (c.note e s a b d).noStreams = c.noStreams :=
  Chip.calm_noStreams (Chip.note_calm _ _ _ _ _)
@[simp] theorem Chip.eventAtl_noStreams (p code n : Nat) : (c.eventAtl p code n).noStreams = c.noStreams :=
  Chip.calm_noStreams (Chip.eventAtl_calm _ _ _)

/-- A fold of updates that each leave something alone leaves it alone. -/
theorem foldl_keeps {α β γ : Type} (p : β → γ) (f : β → α → β) (h : ∀ b x, p (f b x) = p b) (l : List α) (b : β) :
    p (l.foldl f b) = p b := by
  induction l generalizing b with
  | nil => rfl
  | cons x r ih => exact (ih _).trans (h b x)

@[simp] theorem Chip.setAllS_noStreams (a s : Nat) (v : Word) : (c.setAllS a s v).noStreams = c.noStreams := by
  unfold Chip.setAllS
  exact foldl_keeps Chip.noStreams _ (fun _ _ => Chip.modLn_noStreams _ _) _ _

@[simp] theorem Chip.startTile_noStreams (a n : Nat) : (c.startTile a n).noStreams = c.noStreams := by
  induction n generalizing c with
  | zero => rfl
  | succ n ih =>
    unfold Chip.startTile
    dsimp only
    split
    · rfl
    · exact ih.trans rfl

@[simp] theorem Chip.startLane_noStreams (a n : Nat) : (c.startLane a n).noStreams = c.noStreams := by
  induction n generalizing c with
  | zero => rfl
  | succ n ih =>
    unfold Chip.startLane
    dsimp only
    split
    · rfl
    · exact ih.trans rfl

@[simp] theorem Chip.endTile_noStreams (a : Nat) : (c.endTile a).noStreams = c.noStreams := by simp [Chip.endTile]
@[simp] theorem Chip.endLane_noStreams (a : Nat) : (c.endLane a).noStreams = c.noStreams := by simp [Chip.endLane]

@[simp] theorem Chip.skipped_noStreams (a : Nat) (tile : Bool) (cause desc : Nat) (w : DWord) :
    (c.skipped a tile cause desc w).noStreams = c.noStreams := by
  unfold Chip.skipped
  dsimp only
  generalize hx : c.skipRegs _ _ w = x
  have h : x.noStreams = c.noStreams := by rw [← hx]; simp [Chip.skipRegs]
  split <;> split <;> simp [h]

@[simp] theorem Chip.tileRange_noStreams (a : Nat) : (c.tileRange a).noStreams = c.noStreams := by
  unfold Chip.tileRange
  dsimp only
  split <;> simp

@[simp] theorem Chip.laneRange_noStreams (a : Nat) : (c.laneRange a).noStreams = c.noStreams := by
  unfold Chip.laneRange
  dsimp only
  split <;> simp

@[simp] theorem Chip.tileNext_noStreams (a : Nat) : (c.tileNext a).noStreams = c.noStreams := by
  simp [Chip.tileNext]

@[simp] theorem Chip.setIndex_noStreams (a : Nat) (i : Option Nat) (v : Word) : (c.setIndex a i v).noStreams = c.noStreams := by
  cases i <;> simp [Chip.setIndex]

@[simp] theorem Chip.laneGoto_noStreams (a n : Nat) (l : List LoopFrame) : (c.laneGoto a n l).noStreams = c.noStreams := by
  induction l with
  | nil => simp [Chip.laneGoto]
  | cons f r ih =>
    unfold Chip.laneGoto
    split
    · simp
    · split
      · exact ih
      · simp

@[simp] theorem Chip.laneNext_noStreams (a : Nat) : (c.laneNext a).noStreams = c.noStreams := by
  simp [Chip.laneNext]

/-- A word that meets no bad word takes its turn and touches nothing else (R381). -/
theorem Chip.laneTurn_noStreams (a : Nat) (f : LaneF) (h : f.sound) : (c.laneTurn a f).noStreams = c.noStreams := by
  simp [Chip.laneTurn, Chip.reads, Chip.straits, h.1, h.2]

@[simp] theorem Chip.laneSkip_noStreams (a cause desc op : Nat) (f : LaneF) : (c.laneSkip a cause desc op f).noStreams = c.noStreams := by
  simp [Chip.laneSkip]

/-- laneStep in full: nothing without the turn, a skip with cause 1 for a reserved field, else the word's own action. -/
theorem Chip.laneStep_ok (a op : Nat) (f : LaneF) (act : Chip → Chip) (hr : c.laneReady a = true) (hv : laneReserved op f = false) :
    c.laneStep a op f act = act (c.laneTurn a f) := by
  simp [Chip.laneStep, hr, hv]

theorem Chip.laneStep_reserved (a op : Nat) (f : LaneF) (act : Chip → Chip) (hr : c.laneReady a = true) (hv : laneReserved op f = true) :
    c.laneStep a op f act = ((c.laneTurn a f).skipped a false 1 0 (laneWord op f)).laneNext a := by
  simp [Chip.laneStep, hr, hv, Chip.laneSkip]

theorem Chip.laneStep_idle (a op : Nat) (f : LaneF) (act : Chip → Chip) (hr : c.laneReady a = false) : c.laneStep a op f act = c := by
  simp [Chip.laneStep, hr]

theorem Chip.laneTurn_lane (a : Nat) (f : LaneF) (h : f.sound) : (c.laneTurn a f).lane = c.lane := by
  unfold Chip.laneTurn
  rw [h.1, h.2]
  exact (Chip.calm_lane (Chip.eventAtl_calm _ _ _)).trans (Chip.modAtl_lane _ _ _)
theorem Chip.laneTurn_ln (a : Nat) (f : LaneF) (h : f.sound) (g : Nat) : (c.laneTurn a f).ln g = c.ln g := by
  simp [Chip.ln, Chip.laneTurn_lane a f h]

/-! ### Lane registers -/

theorem Chip.ln_modLn (g j : Nat) (f : Lane → Lane) : (c.modLn g f).ln j = if j = g then f (c.ln g) else c.ln j := by
  simp [Chip.ln, Chip.modLn, tget_tmod]

@[simp] theorem Chip.ln_modAtl (a g : Nat) (f : AtollSt → AtollSt) : (c.modAtl a f).ln g = c.ln g := by
  unfold Chip.ln
  rw [Chip.modAtl_lane]

/-- A fold over distinct lanes changes each listed lane once. -/
theorem Chip.ln_foldl (l : List Nat) (h : Nat → Lane → Lane) (hn : l.Nodup) (c : Chip) (g : Nat) :
    (l.foldl (fun x i => x.modLn i (h i)) c).ln g = if g ∈ l then h g (c.ln g) else c.ln g := by
  induction l generalizing c with
  | nil => simp
  | cons i r ih =>
    rw [List.nodup_cons] at hn
    simp only [List.foldl_cons, ih hn.2, Chip.ln_modLn, List.mem_cons]
    by_cases hg : g = i
    · subst hg; simp [hn.1]
    · simp [hg]

theorem Chip.foldl_modLn_eq (l : List Nat) (h : Nat → Lane → Lane) (c : Chip) :
    l.foldl (fun x i => x.modLn i (h i)) c = { c with lane := (l.foldl (fun x i => x.modLn i (h i)) c).lane } := by
  induction l generalizing c with
  | nil => rfl
  | cons i r ih => rw [List.foldl_cons, ih]; rfl

theorem atollLanes_nodup (a : Nat) : (atollLanes a).Nodup := by
  unfold atollLanes
  rw [List.Nodup, List.pairwise_map]
  refine List.Pairwise.imp ?_ List.nodup_range
  intro x y h
  simpa using h

theorem mem_atollLanes (a g : Nat) : g ∈ atollLanes a ↔ g / 256 = a := by
  simp only [atollLanes, List.mem_map, List.mem_range]
  constructor
  · rintro ⟨l, hl, rfl⟩; omega
  · rintro rfl; exact ⟨g % 256, by omega, by omega⟩

/-- eachLane: the lanes of the atoll in which the word writes. -/
theorem Chip.ln_eachLane (a : Nat) (f : LaneF) (h : Nat → Lane → Lane) (g : Nat) :
    (c.eachLane a f h).ln g = if g / 256 = a ∧ (c.ln g).outcome f = true then h g (c.ln g) else c.ln g := by
  unfold Chip.eachLane Chip.writers
  rw [Chip.ln_foldl _ _ ((atollLanes_nodup a).filter _)]
  simp [mem_atollLanes]

theorem Chip.eachLane_eq (a : Nat) (f : LaneF) (h : Nat → Lane → Lane) : c.eachLane a f h = { c with lane := (c.eachLane a f h).lane } :=
  Chip.foldl_modLn_eq _ _ _

@[simp] theorem Chip.eachLane_noStreams (a : Nat) (f : LaneF) (h : Nat → Lane → Lane) : (c.eachLane a f h).noStreams = c.noStreams := by
  unfold Chip.eachLane
  exact foldl_keeps Chip.noStreams _ (fun _ _ => Chip.modLn_noStreams _ _) _ _

/-- setAllS: every lane of the atoll. -/
theorem Chip.ln_setAllS (a s : Nat) (v : Word) (g : Nat) :
    (c.setAllS a s v).ln g = if g / 256 = a then { c.ln g with s := tset (c.ln g).s s v } else c.ln g := by
  have h := Chip.ln_foldl (atollLanes a) (fun _ x => { x with s := tset x.s s v }) (atollLanes_nodup a) c g
  simp only [mem_atollLanes] at h
  simpa [Chip.setAllS, atollLanes, List.foldl_map] using h

theorem Chip.setAllS_eq (a s : Nat) (v : Word) : c.setAllS a s v = { c with lane := (c.setAllS a s v).lane } := by
  have h := Chip.foldl_modLn_eq (atollLanes a) (fun _ x => { x with s := tset x.s s v }) c
  simpa [Chip.setAllS, atollLanes, List.foldl_map] using h

/-! ### Sequencers -/

theorem Chip.modAtl_congr (a : Nat) (f g : AtollSt → AtollSt) (h : f (c.atl a) = g (c.atl a)) : c.modAtl a f = c.modAtl a g := by
  unfold Chip.modAtl tmod
  unfold Chip.atl at h
  rw [h]

@[simp] theorem Chip.atl_modAtl (a : Nat) (f : AtollSt → AtollSt) : (c.modAtl a f).atl a = f (c.atl a) := by
  simp [Chip.atl, Chip.modAtl]

@[simp] theorem Chip.atl_setAllS (a b s : Nat) (v : Word) : (c.setAllS a s v).atl b = c.atl b := by
  unfold Chip.atl
  rw [Chip.setAllS_eq]

@[simp] theorem Chip.atl_setIndex (a b : Nat) (i : Option Nat) (v : Word) : (c.setIndex a i v).atl b = c.atl b := by
  cases i <;> simp [Chip.setIndex]

theorem Chip.modAtl_modAtl (a : Nat) (f g : AtollSt → AtollSt) : (c.modAtl a f).modAtl a g = c.modAtl a fun x => g (f x) := by
  simp [Chip.modAtl, tmod, tset_tset]

/-- Writing lane registers and changing a sequencer commute. -/
theorem Chip.setAllS_modAtl (a s : Nat) (v : Word) (f : AtollSt → AtollSt) :
    (c.modAtl a f).setAllS a s v = (c.setAllS a s v).modAtl a f := by
  have h : ∀ (l : List Nat) (c : Chip), l.foldl (fun c l => c.modLn (256 * a + l) fun x => { x with s := tset x.s s v }) (c.modAtl a f)
      = (l.foldl (fun c l => c.modLn (256 * a + l) fun x => { x with s := tset x.s s v }) c).modAtl a f := by
    intro l
    induction l with
    | nil => exact fun _ => rfl
    | cons i r ih => intro c; simp only [List.foldl_cons]; rw [← ih]; rfl
  unfold Chip.setAllS
  exact h _ _

theorem Chip.setIndex_modAtl (a : Nat) (i : Option Nat) (v : Word) (f : AtollSt → AtollSt) :
    (c.modAtl a f).setIndex a i v = (c.setIndex a i v).modAtl a f := by
  cases i
  · rfl
  · exact Chip.setAllS_modAtl _ _ _ _

/-- Where a stream goes does not depend on the loops that its sequencer holds, only on the list it is given. -/
theorem Chip.laneGoto_modAtl (a n : Nat) (l k : List LoopFrame) :
    (c.modAtl a fun y => { y with loops := k }).laneGoto a n l = c.laneGoto a n l := by
  induction l with
  | nil => simp [Chip.laneGoto, Chip.modAtl_modAtl]
  | cons x r ih =>
    unfold Chip.laneGoto
    split
    · simp [Chip.modAtl_modAtl]
    · split
      · exact ih
      · rw [Chip.setIndex_modAtl, Chip.modAtl_modAtl]

theorem Chip.laneTurn_atl (a : Nat) (f : LaneF) (h : f.sound) : (c.laneTurn a f).atl a = { c.atl a with laneWait := .none } := by
  unfold Chip.laneTurn
  rw [h.1, h.2]
  have ha : ∀ x : Chip, (x.eventAtl (c.physOf a) 0x110).atl a = x.atl a := fun x => by
    unfold Chip.atl
    rw [Chip.calm_atoll (Chip.eventAtl_calm _ _ _)]
  show ((c.modAtl a _).eventAtl _ _).atl a = _
  rw [ha, Chip.atl_modAtl]

end Sys2Proof.Machine
end

