-- ==== Sys2Proof/Laws/Elements.lean ====
section
/-!
SUPPORT. What reading, checking and writing operands of lane words depends on and changes (R291 to R295, R298).
-/
namespace Sys2Proof.Machine

variable {c d : Chip}

/-! ### Operands read the lanes, the scratchpads and the lagoons only -/

theorem Chip.dsc_congr (h : d.lane = c.lane) (g n : Nat) : d.dsc g n = c.dsc g n := by unfold Chip.dsc Chip.ln; rw [h]

theorem Chip.countOf_congr (h : d.lane = c.lane) (g : Nat) (o : Opnd) : d.countOf g o = c.countOf g o := by
  cases o <;> simp [Chip.countOf, Chip.dsc_congr h]

theorem Chip.etypeOf_congr (h : d.lane = c.lane) (g : Nat) (o : Opnd) : d.etypeOf g o = c.etypeOf g o := by
  cases o <;> simp [Chip.etypeOf, Chip.dsc_congr h]

theorem Chip.readEl_congr (h : d.lane = c.lane) (hs : d.scratch = c.scratch) (hl : d.lagoon = c.lagoon) (g : Nat) (o : Opnd) (i : Nat) :
    d.readEl g o i = c.readEl g o i := by
  have hn : ∀ g, d.ln g = c.ln g := fun g => by unfold Chip.ln; rw [h]
  cases o <;> simp [Chip.readEl, Chip.dsc_congr h, hs, hl, hn]

theorem Chip.descOkay_congr (hp : d.plan = c.plan) (x : Desc) (u : Use) : d.descOkay x u = c.descOkay x u := by
  unfold Chip.descOkay Chip.descPlaced Chip.laneRegions; rw [hp]

theorem Chip.useBad_congr (h : d.lane = c.lane) (hp : d.plan = c.plan) (g n : Nat) (u : Use) : d.useBad g n u = c.useBad g n u := by
  unfold Chip.useBad
  cases u.o <;> simp [Chip.dsc_congr h, Chip.descOkay_congr hp]

theorem Chip.firstBad_congr (h : d.lane = c.lane) (hp : d.plan = c.plan) (a : Nat) (n : Nat → Nat) (us : Nat → List Use) :
    d.firstBad a n us = c.firstBad a n us := by
  unfold Chip.firstBad
  simp [Chip.useBad_congr h hp]

theorem Chip.writers_congr (h : d.lane = c.lane) (a : Nat) (f : LaneF) : d.writers a f = c.writers a f := by
  unfold Chip.writers Chip.ln
  rw [h]

theorem Chip.indexBad_congr (h : d.lane = c.lane) (a : Nat) (o : Opnd) (i : Nat) : d.indexBad a o i = c.indexBad a o i := by
  unfold Chip.indexBad; simp [Chip.countOf_congr h]
/-! ### Writing an element -/

theorem Chip.dsc_writeEl (c : Chip) (g : Nat) (o : Opnd) (i v g' n : Nat) : (c.writeEl g o i v).dsc g' n = c.dsc g' n := by
  unfold Chip.dsc
  cases o with
  | desc m => unfold Chip.writeEl; dsimp only; split <;> rfl
  | vec w => unfold Chip.writeEl; rw [Chip.ln_modLn]; split <;> simp [*]
  | scal w => unfold Chip.writeEl; rw [Chip.ln_modLn]; split <;> simp [*]
  | _ => rfl

theorem Chip.elemAt_congr (h : ∀ g n, d.dsc g n = c.dsc g n) (g : Nat) (o : Opnd) (i : Nat) (l : Bool) (k : Nat) : d.elemAt g o i l k ↔ c.elemAt g o i l k := by
  cases o <;> simp [Chip.elemAt, h]

theorem Chip.writeEl_out (c : Chip) (g : Nat) (o : Opnd) (i v k : Nat) :
    (¬ c.elemAt g o i false k → tget (c.writeEl g o i v).scratch k = tget c.scratch k) ∧
    (¬ c.elemAt g o i true k → tget (c.writeEl g o i v).lagoon k = tget c.lagoon k) := by
  cases o with
  | desc n =>
    unfold Chip.writeEl Chip.elemAt
    dsimp only
    by_cases hs : (c.dsc g n).space = 0
    · simp only [hs, if_true]
      refine ⟨fun h => tget_wrBytes_out _ _ _ _ ?_, fun _ => by simp⟩
      rw [toLE_length]
      simp at h
      omega
    · simp only [hs, if_false]
      refine ⟨fun _ => by simp, fun h => tget_wrBytes_out _ _ _ _ ?_⟩
      rw [toLE_length]
      simp at h
      omega
  | vec w => exact ⟨fun _ => congrArg (tget · k) (Chip.modLn_scratch c _ _), fun _ => congrArg (tget · k) (Chip.modLn_lagoon c _ _)⟩
  | scal w => exact ⟨fun _ => congrArg (tget · k) (Chip.modLn_scratch c _ _), fun _ => congrArg (tget · k) (Chip.modLn_lagoon c _ _)⟩
  | _ => exact ⟨fun _ => rfl, fun _ => rfl⟩

theorem Chip.writeEl_rest (c : Chip) (g : Nat) (o : Opnd) (i v : Nat) :
    c.writeEl g o i v = { c with scratch := (c.writeEl g o i v).scratch, lagoon := (c.writeEl g o i v).lagoon, lane := (c.writeEl g o i v).lane } := by
  cases o with
  | desc n => unfold Chip.writeEl; dsimp only; split <;> rfl
  | vec w => rfl
  | scal w => rfl
  | _ => rfl

theorem rdBytes_congr (m n : SMap Byte) (a l : Nat) (h : ∀ k, a ≤ k → k < a + l → tget m k = tget n k) : rdBytes m a l = rdBytes n a l := by
  induction l generalizing a with
  | zero => rfl
  | succ l ih =>
    simp only [rdBytes]
    rw [h a (by omega) (by omega), ih (a + 1) fun k h1 h2 => h k (by omega) (by omega)]

theorem leNat_toLE_mod (n v : Nat) : leNat (toLE n v) = v % 256 ^ n := by
  induction n generalizing v with
  | zero => simp [toLE, leNat, Nat.mod_one]
  | succ n ih =>
    simp only [toLE, leNat, BitVec.toNat_ofNat, ih]
    have h := Nat.mod_mul (x := v) (a := 256) (b := 256 ^ n)
    rw [show 256 ^ (n + 1) = 256 * 256 ^ n from Nat.pow_succ', h]

theorem rdLE_wrBytes (m : SMap Byte) (a n v : Nat) : rdLE (wrBytes m a (toLE n v)) a n = v % 256 ^ n := by
  have := rdBytes_wrBytes m a (toLE n v)
  rw [toLE_length] at this
  unfold rdLE
  rw [this, leNat_toLE_mod]
/-! ### Writing a destination -/

theorem Chip.noLanes_of {u x : Chip} (h : u.noStreams = x.noStreams) : u.noLanes = x.noLanes := by unfold Chip.noLanes; rw [h]

theorem Chip.writeEl_noLanes (c : Chip) (g : Nat) (o : Opnd) (i v : Nat) : (c.writeEl g o i v).noLanes = c.noLanes := by
  rw [Chip.writeEl_rest]; rfl

theorem Chip.writeAll_noLanes (c : Chip) (a : Nat) (f : LaneF) (o : Opnd) (n : Nat → Nat) (val : Nat → Nat → Nat) :
    (c.writeAll a f o n val).noLanes = c.noLanes := by
  unfold Chip.writeAll
  exact foldl_keeps Chip.noLanes _ (fun x g => foldl_keeps Chip.noLanes _ (fun _ _ => Chip.writeEl_noLanes _ _ _ _ _) _ _) _ _

theorem Chip.readEl_funext (h : d.lane = c.lane) (hs : d.scratch = c.scratch) (hl : d.lagoon = c.lagoon) : d.readEl = c.readEl := by
  funext g o i; exact Chip.readEl_congr h hs hl g o i

theorem Chip.readFp_funext (h : d.lane = c.lane) (hs : d.scratch = c.scratch) (hl : d.lagoon = c.lagoon) : d.readFp = c.readFp := by
  funext g o i; unfold Chip.readFp; rw [Chip.readEl_congr h hs hl]

theorem Chip.etypeOf_funext (h : d.lane = c.lane) : d.etypeOf = c.etypeOf := by funext g o; exact Chip.etypeOf_congr h g o

end Sys2Proof.Machine
end

