-- ==== Sys2Proof/Laws/Events.lean ====
section
/-!
SUPPORT. What a unit with the same calm part shares: every field but the event registers, counters, log, interrupt messages and the
cycle's marks; and what the operations on registers read back as. The provers cite these instead of unfolding an event.
-/
namespace Sys2Proof.Machine

variable {x y : Chip}

/-- A register that no event can change. -/
theorem Chip.reg_of_calm (h : x.calm = y.calm) (o : Nat) (ho : eventReg o = false) : x.reg o = y.reg o := by
  have e : quiet x.ureg = quiet y.ureg := congrArg Chip.ureg h
  have g : tget (quiet x.ureg) o = tget (quiet y.ureg) o := by rw [e]
  rwa [tget_quiet, tget_quiet, ho] at g

theorem Chip.clk_of_calm (h : x.calm = y.calm) : x.clk = y.clk := (congrArg Chip.clk h : x.calm.clk = y.calm.clk)
theorem Chip.tick_of_calm (h : x.calm = y.calm) : x.tick = y.tick := (congrArg Chip.tick h : x.calm.tick = y.calm.tick)
theorem Chip.areg_of_calm (h : x.calm = y.calm) : x.areg = y.areg := (congrArg Chip.areg h : x.calm.areg = y.calm.areg)
theorem Chip.regNext_of_calm (h : x.calm = y.calm) : x.regNext = y.regNext := (congrArg Chip.regNext h : x.calm.regNext = y.calm.regNext)
theorem Chip.latch_of_calm (h : x.calm = y.calm) : x.latch = y.latch := (congrArg Chip.latch h : x.calm.latch = y.calm.latch)
theorem Chip.bus_of_calm (h : x.calm = y.calm) : x.bus = y.bus := (congrArg Chip.bus h : x.calm.bus = y.calm.bus)
theorem Chip.mbx_of_calm (h : x.calm = y.calm) : x.mbx = y.mbx := (congrArg Chip.mbx h : x.calm.mbx = y.calm.mbx)
theorem Chip.posted_of_calm (h : x.calm = y.calm) : x.posted = y.posted := (congrArg Chip.posted h : x.calm.posted = y.calm.posted)
theorem Chip.req_of_calm (h : x.calm = y.calm) : x.req = y.req := (congrArg Chip.req h : x.calm.req = y.calm.req)
theorem Chip.aux_of_calm (h : x.calm = y.calm) : x.aux = y.aux := (congrArg Chip.aux h : x.calm.aux = y.calm.aux)
theorem Chip.prm_of_calm (h : x.calm = y.calm) : x.prm = y.prm := (congrArg Chip.prm h : x.calm.prm = y.calm.prm)
theorem Chip.ring_of_calm (h : x.calm = y.calm) : x.ring = y.ring := (congrArg Chip.ring h : x.calm.ring = y.calm.ring)
theorem Chip.cons_of_calm (h : x.calm = y.calm) : x.cons = y.cons := (congrArg Chip.cons h : x.calm.cons = y.calm.cons)
theorem Chip.tnt_of_calm (h : x.calm = y.calm) : x.tnt = y.tnt := (congrArg Chip.tnt h : x.calm.tnt = y.calm.tnt)
theorem Chip.replay_of_calm (h : x.calm = y.calm) : x.replay = y.replay := (congrArg Chip.replay h : x.calm.replay = y.calm.replay)
theorem Chip.recseq_of_calm (h : x.calm = y.calm) : x.recseq = y.recseq := (congrArg Chip.recseq h : x.calm.recseq = y.calm.recseq)
theorem Chip.adpMem_of_calm (h : x.calm = y.calm) : x.adpMem = y.adpMem := (congrArg Chip.adpMem h : x.calm.adpMem = y.calm.adpMem)
theorem Chip.adpDir_of_calm (h : x.calm = y.calm) : x.adpDir = y.adpDir := (congrArg Chip.adpDir h : x.calm.adpDir = y.calm.adpDir)
theorem Chip.delta_of_calm (h : x.calm = y.calm) : x.delta = y.delta := (congrArg Chip.delta h : x.calm.delta = y.calm.delta)
theorem Chip.trie_of_calm (h : x.calm = y.calm) : x.trie = y.trie := (congrArg Chip.trie h : x.calm.trie = y.calm.trie)
theorem Chip.staging_of_calm (h : x.calm = y.calm) : x.staging = y.staging := (congrArg Chip.staging h : x.calm.staging = y.calm.staging)
theorem Chip.statics_of_calm (h : x.calm = y.calm) : x.statics = y.statics := (congrArg Chip.statics h : x.calm.statics = y.calm.statics)
theorem Chip.deny_of_calm (h : x.calm = y.calm) : x.deny = y.deny := (congrArg Chip.deny h : x.calm.deny = y.calm.deny)
theorem Chip.grammar_of_calm (h : x.calm = y.calm) : x.grammar = y.grammar := (congrArg Chip.grammar h : x.calm.grammar = y.calm.grammar)
theorem Chip.dir_of_calm (h : x.calm = y.calm) : x.dir = y.dir := (congrArg Chip.dir h : x.calm.dir = y.calm.dir)
theorem Chip.page_of_calm (h : x.calm = y.calm) : x.page = y.page := (congrArg Chip.page h : x.calm.page = y.calm.page)
theorem Chip.lagoon_of_calm (h : x.calm = y.calm) : x.lagoon = y.lagoon := (congrArg Chip.lagoon h : x.calm.lagoon = y.calm.lagoon)
theorem Chip.scratch_of_calm (h : x.calm = y.calm) : x.scratch = y.scratch := (congrArg Chip.scratch h : x.calm.scratch = y.calm.scratch)
theorem Chip.lane_of_calm (h : x.calm = y.calm) : x.lane = y.lane := (congrArg Chip.lane h : x.calm.lane = y.calm.lane)
theorem Chip.acc_of_calm (h : x.calm = y.calm) : x.acc = y.acc := (congrArg Chip.acc h : x.calm.acc = y.calm.acc)
theorem Chip.wide_of_calm (h : x.calm = y.calm) : x.wide = y.wide := (congrArg Chip.wide h : x.calm.wide = y.calm.wide)
theorem Chip.colScale_of_calm (h : x.calm = y.calm) : x.colScale = y.colScale := (congrArg Chip.colScale h : x.calm.colScale = y.calm.colScale)
theorem Chip.atoll_of_calm (h : x.calm = y.calm) : x.atoll = y.atoll := (congrArg Chip.atoll h : x.calm.atoll = y.calm.atoll)
theorem Chip.bank_of_calm (h : x.calm = y.calm) : x.bank = y.bank := (congrArg Chip.bank h : x.calm.bank = y.calm.bank)
theorem Chip.bankSel_of_calm (h : x.calm = y.calm) : x.bankSel = y.bankSel := (congrArg Chip.bankSel h : x.calm.bankSel = y.calm.bankSel)
theorem Chip.plan_of_calm (h : x.calm = y.calm) : x.plan = y.plan := (congrArg Chip.plan h : x.calm.plan = y.calm.plan)
theorem Chip.stp_of_calm (h : x.calm = y.calm) : x.stp = y.stp := (congrArg Chip.stp h : x.calm.stp = y.calm.stp)
theorem Chip.inputs_of_calm (h : x.calm = y.calm) : x.inputs = y.inputs := (congrArg Chip.inputs h : x.calm.inputs = y.calm.inputs)
theorem Chip.fw_of_calm (h : x.calm = y.calm) : x.fw = y.fw := (congrArg Chip.fw h : x.calm.fw = y.calm.fw)
theorem Chip.merge_of_calm (h : x.calm = y.calm) : x.merge = y.merge := (congrArg Chip.merge h : x.calm.merge = y.calm.merge)
theorem Chip.mir_of_calm (h : x.calm = y.calm) : x.mir = y.mir := (congrArg Chip.mir h : x.calm.mir = y.calm.mir)
theorem Chip.mirRx_of_calm (h : x.calm = y.calm) : x.mirRx = y.mirRx := (congrArg Chip.mirRx h : x.calm.mirRx = y.calm.mirRx)
theorem Chip.lock_of_calm (h : x.calm = y.calm) : x.lock = y.lock := (congrArg Chip.lock h : x.calm.lock = y.calm.lock)
theorem Chip.dbg_of_calm (h : x.calm = y.calm) : x.dbg = y.dbg := (congrArg Chip.dbg h : x.calm.dbg = y.calm.dbg)
theorem Chip.rpr_of_calm (h : x.calm = y.calm) : x.rpr = y.rpr := (congrArg Chip.rpr h : x.calm.rpr = y.calm.rpr)
theorem Chip.fab_of_calm (h : x.calm = y.calm) : x.fab = y.fab := (congrArg Chip.fab h : x.calm.fab = y.calm.fab)
theorem Chip.pwr_of_calm (h : x.calm = y.calm) : x.pwr = y.pwr := (congrArg Chip.pwr h : x.calm.pwr = y.calm.pwr)
theorem Chip.psram_of_calm (h : x.calm = y.calm) : x.psram = y.psram := (congrArg Chip.psram h : x.calm.psram = y.calm.psram)
theorem Chip.fresh_of_calm (h : x.calm = y.calm) : x.fresh = y.fresh := (congrArg Chip.fresh h : x.calm.fresh = y.calm.fresh)

variable (c : Chip)

/-! ### Registers -/

@[simp] theorem Chip.reg_setReg (o p : Nat) (w : Word) : (c.setReg o w).reg p = if p = o then w else c.reg p := by
  simp only [Chip.reg, Chip.setReg, tget_tset]
@[simp] theorem Chip.reg_mark (k p : Nat) (w : Word) : (c.mark k w).reg p = c.reg p := rfl
@[simp] theorem Chip.reg_orReg (o p : Nat) (w : Word) : (c.orReg o w).reg p = if p = o then c.reg o ||| w else c.reg p :=
  Chip.reg_setReg c o p _
@[simp] theorem Chip.reg_clrReg (o p : Nat) (w : Word) : (c.clrReg o w).reg p = if p = o then c.reg o &&& ~~~ w else c.reg p :=
  Chip.reg_setReg c o p _
@[simp] theorem Chip.reg_count (o p n : Nat) : (c.count o n).reg p = if p = o then sat32 (c.reg o) n else c.reg p :=
  Chip.reg_setReg c o p _

/-! ### Registers after an event -/

theorem Chip.reg_note (e : Ev) (s a b d : Nat) (o : Nat) (ho : eventReg o = false) : (c.note e s a b d).reg o = c.reg o := Chip.reg_of_calm (by simp) o ho
theorem Chip.reg_event (k n : Nat) (o : Nat) (ho : eventReg o = false) : (c.event k n).reg o = c.reg o := Chip.reg_of_calm (by simp) o ho
theorem Chip.reg_eventAtl (p k n : Nat) (o : Nat) (ho : eventReg o = false) : (c.eventAtl p k n).reg o = c.reg o := Chip.reg_of_calm (by simp) o ho
theorem Chip.reg_eventPort (p k n : Nat) (o : Nat) (ho : eventReg o = false) : (c.eventPort p k n).reg o = c.reg o := Chip.reg_of_calm (by simp) o ho
theorem Chip.reg_eventMch (k n : Nat) (o : Nat) (ho : eventReg o = false) : (c.eventMch k n).reg o = c.reg o := Chip.reg_of_calm (by simp) o ho
theorem Chip.reg_irq (n : Nat) (o : Nat) (ho : eventReg o = false) : (c.irq n).reg o = c.reg o := Chip.reg_of_calm (by simp) o ho
theorem Chip.reg_sample (m b : Nat) (o : Nat) (ho : eventReg o = false) : (c.sample m b).reg o = c.reg o := Chip.reg_of_calm (by simp) o ho
theorem Chip.reg_noteOnce (m : Nat) (e : Ev) (s a b d : Nat) (o : Nat) (ho : eventReg o = false) : (c.noteOnce m e s a b d).reg o = c.reg o := Chip.reg_of_calm (by simp) o ho

/-! ### The fields of the unit after an event -/

@[simp] theorem Chip.note_clk (e : Ev) (s a b d : Nat) : (c.note e s a b d).clk = c.clk := Chip.clk_of_calm (by simp)
@[simp] theorem Chip.event_clk (k n : Nat) : (c.event k n).clk = c.clk := Chip.clk_of_calm (by simp)
@[simp] theorem Chip.eventAtl_clk (p k n : Nat) : (c.eventAtl p k n).clk = c.clk := Chip.clk_of_calm (by simp)
@[simp] theorem Chip.eventPort_clk (p k n : Nat) : (c.eventPort p k n).clk = c.clk := Chip.clk_of_calm (by simp)
@[simp] theorem Chip.eventMch_clk (k n : Nat) : (c.eventMch k n).clk = c.clk := Chip.clk_of_calm (by simp)
@[simp] theorem Chip.irq_clk (n : Nat) : (c.irq n).clk = c.clk := Chip.clk_of_calm (by simp)
@[simp] theorem Chip.sample_clk (m b : Nat) : (c.sample m b).clk = c.clk := Chip.clk_of_calm (by simp)
@[simp] theorem Chip.noteOnce_clk (m : Nat) (e : Ev) (s a b d : Nat) : (c.noteOnce m e s a b d).clk = c.clk := Chip.clk_of_calm (by simp)
@[simp] theorem Chip.note_tick (e : Ev) (s a b d : Nat) : (c.note e s a b d).tick = c.tick := Chip.tick_of_calm (by simp)
@[simp] theorem Chip.event_tick (k n : Nat) : (c.event k n).tick = c.tick := Chip.tick_of_calm (by simp)
@[simp] theorem Chip.eventAtl_tick (p k n : Nat) : (c.eventAtl p k n).tick = c.tick := Chip.tick_of_calm (by simp)
@[simp] theorem Chip.eventPort_tick (p k n : Nat) : (c.eventPort p k n).tick = c.tick := Chip.tick_of_calm (by simp)
@[simp] theorem Chip.eventMch_tick (k n : Nat) : (c.eventMch k n).tick = c.tick := Chip.tick_of_calm (by simp)
@[simp] theorem Chip.irq_tick (n : Nat) : (c.irq n).tick = c.tick := Chip.tick_of_calm (by simp)
@[simp] theorem Chip.sample_tick (m b : Nat) : (c.sample m b).tick = c.tick := Chip.tick_of_calm (by simp)
@[simp] theorem Chip.noteOnce_tick (m : Nat) (e : Ev) (s a b d : Nat) : (c.noteOnce m e s a b d).tick = c.tick := Chip.tick_of_calm (by simp)
@[simp] theorem Chip.note_areg (e : Ev) (s a b d : Nat) : (c.note e s a b d).areg = c.areg := Chip.areg_of_calm (by simp)
@[simp] theorem Chip.event_areg (k n : Nat) : (c.event k n).areg = c.areg := Chip.areg_of_calm (by simp)
@[simp] theorem Chip.eventAtl_areg (p k n : Nat) : (c.eventAtl p k n).areg = c.areg := Chip.areg_of_calm (by simp)
@[simp] theorem Chip.eventPort_areg (p k n : Nat) : (c.eventPort p k n).areg = c.areg := Chip.areg_of_calm (by simp)
@[simp] theorem Chip.eventMch_areg (k n : Nat) : (c.eventMch k n).areg = c.areg := Chip.areg_of_calm (by simp)
@[simp] theorem Chip.irq_areg (n : Nat) : (c.irq n).areg = c.areg := Chip.areg_of_calm (by simp)
@[simp] theorem Chip.sample_areg (m b : Nat) : (c.sample m b).areg = c.areg := Chip.areg_of_calm (by simp)
@[simp] theorem Chip.noteOnce_areg (m : Nat) (e : Ev) (s a b d : Nat) : (c.noteOnce m e s a b d).areg = c.areg := Chip.areg_of_calm (by simp)
@[simp] theorem Chip.note_mbx (e : Ev) (s a b d : Nat) : (c.note e s a b d).mbx = c.mbx := Chip.mbx_of_calm (by simp)
@[simp] theorem Chip.event_mbx (k n : Nat) : (c.event k n).mbx = c.mbx := Chip.mbx_of_calm (by simp)
@[simp] theorem Chip.eventAtl_mbx (p k n : Nat) : (c.eventAtl p k n).mbx = c.mbx := Chip.mbx_of_calm (by simp)
@[simp] theorem Chip.eventPort_mbx (p k n : Nat) : (c.eventPort p k n).mbx = c.mbx := Chip.mbx_of_calm (by simp)
@[simp] theorem Chip.eventMch_mbx (k n : Nat) : (c.eventMch k n).mbx = c.mbx := Chip.mbx_of_calm (by simp)
@[simp] theorem Chip.irq_mbx (n : Nat) : (c.irq n).mbx = c.mbx := Chip.mbx_of_calm (by simp)
@[simp] theorem Chip.sample_mbx (m b : Nat) : (c.sample m b).mbx = c.mbx := Chip.mbx_of_calm (by simp)
@[simp] theorem Chip.noteOnce_mbx (m : Nat) (e : Ev) (s a b d : Nat) : (c.noteOnce m e s a b d).mbx = c.mbx := Chip.mbx_of_calm (by simp)
@[simp] theorem Chip.note_req (e : Ev) (s a b d : Nat) : (c.note e s a b d).req = c.req := Chip.req_of_calm (by simp)
@[simp] theorem Chip.event_req (k n : Nat) : (c.event k n).req = c.req := Chip.req_of_calm (by simp)
@[simp] theorem Chip.eventAtl_req (p k n : Nat) : (c.eventAtl p k n).req = c.req := Chip.req_of_calm (by simp)
@[simp] theorem Chip.eventPort_req (p k n : Nat) : (c.eventPort p k n).req = c.req := Chip.req_of_calm (by simp)
@[simp] theorem Chip.eventMch_req (k n : Nat) : (c.eventMch k n).req = c.req := Chip.req_of_calm (by simp)
@[simp] theorem Chip.irq_req (n : Nat) : (c.irq n).req = c.req := Chip.req_of_calm (by simp)
@[simp] theorem Chip.sample_req (m b : Nat) : (c.sample m b).req = c.req := Chip.req_of_calm (by simp)
@[simp] theorem Chip.noteOnce_req (m : Nat) (e : Ev) (s a b d : Nat) : (c.noteOnce m e s a b d).req = c.req := Chip.req_of_calm (by simp)
@[simp] theorem Chip.note_stp (e : Ev) (s a b d : Nat) : (c.note e s a b d).stp = c.stp := Chip.stp_of_calm (by simp)
@[simp] theorem Chip.event_stp (k n : Nat) : (c.event k n).stp = c.stp := Chip.stp_of_calm (by simp)
@[simp] theorem Chip.eventAtl_stp (p k n : Nat) : (c.eventAtl p k n).stp = c.stp := Chip.stp_of_calm (by simp)
@[simp] theorem Chip.eventPort_stp (p k n : Nat) : (c.eventPort p k n).stp = c.stp := Chip.stp_of_calm (by simp)
@[simp] theorem Chip.eventMch_stp (k n : Nat) : (c.eventMch k n).stp = c.stp := Chip.stp_of_calm (by simp)
@[simp] theorem Chip.irq_stp (n : Nat) : (c.irq n).stp = c.stp := Chip.stp_of_calm (by simp)
@[simp] theorem Chip.sample_stp (m b : Nat) : (c.sample m b).stp = c.stp := Chip.stp_of_calm (by simp)
@[simp] theorem Chip.noteOnce_stp (m : Nat) (e : Ev) (s a b d : Nat) : (c.noteOnce m e s a b d).stp = c.stp := Chip.stp_of_calm (by simp)
@[simp] theorem Chip.note_fw (e : Ev) (s a b d : Nat) : (c.note e s a b d).fw = c.fw := Chip.fw_of_calm (by simp)
@[simp] theorem Chip.event_fw (k n : Nat) : (c.event k n).fw = c.fw := Chip.fw_of_calm (by simp)
@[simp] theorem Chip.eventAtl_fw (p k n : Nat) : (c.eventAtl p k n).fw = c.fw := Chip.fw_of_calm (by simp)
@[simp] theorem Chip.eventPort_fw (p k n : Nat) : (c.eventPort p k n).fw = c.fw := Chip.fw_of_calm (by simp)
@[simp] theorem Chip.eventMch_fw (k n : Nat) : (c.eventMch k n).fw = c.fw := Chip.fw_of_calm (by simp)
@[simp] theorem Chip.irq_fw (n : Nat) : (c.irq n).fw = c.fw := Chip.fw_of_calm (by simp)
@[simp] theorem Chip.sample_fw (m b : Nat) : (c.sample m b).fw = c.fw := Chip.fw_of_calm (by simp)
@[simp] theorem Chip.noteOnce_fw (m : Nat) (e : Ev) (s a b d : Nat) : (c.noteOnce m e s a b d).fw = c.fw := Chip.fw_of_calm (by simp)
@[simp] theorem Chip.note_plan (e : Ev) (s a b d : Nat) : (c.note e s a b d).plan = c.plan := Chip.plan_of_calm (by simp)
@[simp] theorem Chip.event_plan (k n : Nat) : (c.event k n).plan = c.plan := Chip.plan_of_calm (by simp)
@[simp] theorem Chip.eventAtl_plan (p k n : Nat) : (c.eventAtl p k n).plan = c.plan := Chip.plan_of_calm (by simp)
@[simp] theorem Chip.eventPort_plan (p k n : Nat) : (c.eventPort p k n).plan = c.plan := Chip.plan_of_calm (by simp)
@[simp] theorem Chip.eventMch_plan (k n : Nat) : (c.eventMch k n).plan = c.plan := Chip.plan_of_calm (by simp)
@[simp] theorem Chip.irq_plan (n : Nat) : (c.irq n).plan = c.plan := Chip.plan_of_calm (by simp)
@[simp] theorem Chip.sample_plan (m b : Nat) : (c.sample m b).plan = c.plan := Chip.plan_of_calm (by simp)
@[simp] theorem Chip.noteOnce_plan (m : Nat) (e : Ev) (s a b d : Nat) : (c.noteOnce m e s a b d).plan = c.plan := Chip.plan_of_calm (by simp)
@[simp] theorem Chip.note_merge (e : Ev) (s a b d : Nat) : (c.note e s a b d).merge = c.merge := Chip.merge_of_calm (by simp)
@[simp] theorem Chip.event_merge (k n : Nat) : (c.event k n).merge = c.merge := Chip.merge_of_calm (by simp)
@[simp] theorem Chip.eventAtl_merge (p k n : Nat) : (c.eventAtl p k n).merge = c.merge := Chip.merge_of_calm (by simp)
@[simp] theorem Chip.eventPort_merge (p k n : Nat) : (c.eventPort p k n).merge = c.merge := Chip.merge_of_calm (by simp)
@[simp] theorem Chip.eventMch_merge (k n : Nat) : (c.eventMch k n).merge = c.merge := Chip.merge_of_calm (by simp)
@[simp] theorem Chip.irq_merge (n : Nat) : (c.irq n).merge = c.merge := Chip.merge_of_calm (by simp)
@[simp] theorem Chip.sample_merge (m b : Nat) : (c.sample m b).merge = c.merge := Chip.merge_of_calm (by simp)
@[simp] theorem Chip.noteOnce_merge (m : Nat) (e : Ev) (s a b d : Nat) : (c.noteOnce m e s a b d).merge = c.merge := Chip.merge_of_calm (by simp)
@[simp] theorem Chip.note_dbg (e : Ev) (s a b d : Nat) : (c.note e s a b d).dbg = c.dbg := Chip.dbg_of_calm (by simp)
@[simp] theorem Chip.event_dbg (k n : Nat) : (c.event k n).dbg = c.dbg := Chip.dbg_of_calm (by simp)
@[simp] theorem Chip.eventAtl_dbg (p k n : Nat) : (c.eventAtl p k n).dbg = c.dbg := Chip.dbg_of_calm (by simp)
@[simp] theorem Chip.eventPort_dbg (p k n : Nat) : (c.eventPort p k n).dbg = c.dbg := Chip.dbg_of_calm (by simp)
@[simp] theorem Chip.eventMch_dbg (k n : Nat) : (c.eventMch k n).dbg = c.dbg := Chip.dbg_of_calm (by simp)
@[simp] theorem Chip.irq_dbg (n : Nat) : (c.irq n).dbg = c.dbg := Chip.dbg_of_calm (by simp)
@[simp] theorem Chip.sample_dbg (m b : Nat) : (c.sample m b).dbg = c.dbg := Chip.dbg_of_calm (by simp)
@[simp] theorem Chip.noteOnce_dbg (m : Nat) (e : Ev) (s a b d : Nat) : (c.noteOnce m e s a b d).dbg = c.dbg := Chip.dbg_of_calm (by simp)
@[simp] theorem Chip.note_rpr (e : Ev) (s a b d : Nat) : (c.note e s a b d).rpr = c.rpr := Chip.rpr_of_calm (by simp)
@[simp] theorem Chip.event_rpr (k n : Nat) : (c.event k n).rpr = c.rpr := Chip.rpr_of_calm (by simp)
@[simp] theorem Chip.eventAtl_rpr (p k n : Nat) : (c.eventAtl p k n).rpr = c.rpr := Chip.rpr_of_calm (by simp)
@[simp] theorem Chip.eventPort_rpr (p k n : Nat) : (c.eventPort p k n).rpr = c.rpr := Chip.rpr_of_calm (by simp)
@[simp] theorem Chip.eventMch_rpr (k n : Nat) : (c.eventMch k n).rpr = c.rpr := Chip.rpr_of_calm (by simp)
@[simp] theorem Chip.irq_rpr (n : Nat) : (c.irq n).rpr = c.rpr := Chip.rpr_of_calm (by simp)
@[simp] theorem Chip.sample_rpr (m b : Nat) : (c.sample m b).rpr = c.rpr := Chip.rpr_of_calm (by simp)
@[simp] theorem Chip.noteOnce_rpr (m : Nat) (e : Ev) (s a b d : Nat) : (c.noteOnce m e s a b d).rpr = c.rpr := Chip.rpr_of_calm (by simp)
@[simp] theorem Chip.note_fab (e : Ev) (s a b d : Nat) : (c.note e s a b d).fab = c.fab := Chip.fab_of_calm (by simp)
@[simp] theorem Chip.event_fab (k n : Nat) : (c.event k n).fab = c.fab := Chip.fab_of_calm (by simp)
@[simp] theorem Chip.eventAtl_fab (p k n : Nat) : (c.eventAtl p k n).fab = c.fab := Chip.fab_of_calm (by simp)
@[simp] theorem Chip.eventPort_fab (p k n : Nat) : (c.eventPort p k n).fab = c.fab := Chip.fab_of_calm (by simp)
@[simp] theorem Chip.eventMch_fab (k n : Nat) : (c.eventMch k n).fab = c.fab := Chip.fab_of_calm (by simp)
@[simp] theorem Chip.irq_fab (n : Nat) : (c.irq n).fab = c.fab := Chip.fab_of_calm (by simp)
@[simp] theorem Chip.sample_fab (m b : Nat) : (c.sample m b).fab = c.fab := Chip.fab_of_calm (by simp)
@[simp] theorem Chip.noteOnce_fab (m : Nat) (e : Ev) (s a b d : Nat) : (c.noteOnce m e s a b d).fab = c.fab := Chip.fab_of_calm (by simp)
@[simp] theorem Chip.note_pwr (e : Ev) (s a b d : Nat) : (c.note e s a b d).pwr = c.pwr := Chip.pwr_of_calm (by simp)
@[simp] theorem Chip.event_pwr (k n : Nat) : (c.event k n).pwr = c.pwr := Chip.pwr_of_calm (by simp)
@[simp] theorem Chip.eventAtl_pwr (p k n : Nat) : (c.eventAtl p k n).pwr = c.pwr := Chip.pwr_of_calm (by simp)
@[simp] theorem Chip.eventPort_pwr (p k n : Nat) : (c.eventPort p k n).pwr = c.pwr := Chip.pwr_of_calm (by simp)
@[simp] theorem Chip.eventMch_pwr (k n : Nat) : (c.eventMch k n).pwr = c.pwr := Chip.pwr_of_calm (by simp)
@[simp] theorem Chip.irq_pwr (n : Nat) : (c.irq n).pwr = c.pwr := Chip.pwr_of_calm (by simp)
@[simp] theorem Chip.sample_pwr (m b : Nat) : (c.sample m b).pwr = c.pwr := Chip.pwr_of_calm (by simp)
@[simp] theorem Chip.noteOnce_pwr (m : Nat) (e : Ev) (s a b d : Nat) : (c.noteOnce m e s a b d).pwr = c.pwr := Chip.pwr_of_calm (by simp)
@[simp] theorem Chip.note_bus (e : Ev) (s a b d : Nat) : (c.note e s a b d).bus = c.bus := Chip.bus_of_calm (by simp)
@[simp] theorem Chip.event_bus (k n : Nat) : (c.event k n).bus = c.bus := Chip.bus_of_calm (by simp)
@[simp] theorem Chip.eventAtl_bus (p k n : Nat) : (c.eventAtl p k n).bus = c.bus := Chip.bus_of_calm (by simp)
@[simp] theorem Chip.eventPort_bus (p k n : Nat) : (c.eventPort p k n).bus = c.bus := Chip.bus_of_calm (by simp)
@[simp] theorem Chip.eventMch_bus (k n : Nat) : (c.eventMch k n).bus = c.bus := Chip.bus_of_calm (by simp)
@[simp] theorem Chip.irq_bus (n : Nat) : (c.irq n).bus = c.bus := Chip.bus_of_calm (by simp)
@[simp] theorem Chip.sample_bus (m b : Nat) : (c.sample m b).bus = c.bus := Chip.bus_of_calm (by simp)
@[simp] theorem Chip.noteOnce_bus (m : Nat) (e : Ev) (s a b d : Nat) : (c.noteOnce m e s a b d).bus = c.bus := Chip.bus_of_calm (by simp)
@[simp] theorem Chip.note_posted (e : Ev) (s a b d : Nat) : (c.note e s a b d).posted = c.posted := Chip.posted_of_calm (by simp)
@[simp] theorem Chip.event_posted (k n : Nat) : (c.event k n).posted = c.posted := Chip.posted_of_calm (by simp)
@[simp] theorem Chip.eventAtl_posted (p k n : Nat) : (c.eventAtl p k n).posted = c.posted := Chip.posted_of_calm (by simp)
@[simp] theorem Chip.eventPort_posted (p k n : Nat) : (c.eventPort p k n).posted = c.posted := Chip.posted_of_calm (by simp)
@[simp] theorem Chip.eventMch_posted (k n : Nat) : (c.eventMch k n).posted = c.posted := Chip.posted_of_calm (by simp)
@[simp] theorem Chip.irq_posted (n : Nat) : (c.irq n).posted = c.posted := Chip.posted_of_calm (by simp)
@[simp] theorem Chip.sample_posted (m b : Nat) : (c.sample m b).posted = c.posted := Chip.posted_of_calm (by simp)
@[simp] theorem Chip.noteOnce_posted (m : Nat) (e : Ev) (s a b d : Nat) : (c.noteOnce m e s a b d).posted = c.posted := Chip.posted_of_calm (by simp)
@[simp] theorem Chip.note_mir (e : Ev) (s a b d : Nat) : (c.note e s a b d).mir = c.mir := Chip.mir_of_calm (by simp)
@[simp] theorem Chip.event_mir (k n : Nat) : (c.event k n).mir = c.mir := Chip.mir_of_calm (by simp)
@[simp] theorem Chip.eventAtl_mir (p k n : Nat) : (c.eventAtl p k n).mir = c.mir := Chip.mir_of_calm (by simp)
@[simp] theorem Chip.eventPort_mir (p k n : Nat) : (c.eventPort p k n).mir = c.mir := Chip.mir_of_calm (by simp)
@[simp] theorem Chip.eventMch_mir (k n : Nat) : (c.eventMch k n).mir = c.mir := Chip.mir_of_calm (by simp)
@[simp] theorem Chip.irq_mir (n : Nat) : (c.irq n).mir = c.mir := Chip.mir_of_calm (by simp)
@[simp] theorem Chip.sample_mir (m b : Nat) : (c.sample m b).mir = c.mir := Chip.mir_of_calm (by simp)
@[simp] theorem Chip.noteOnce_mir (m : Nat) (e : Ev) (s a b d : Nat) : (c.noteOnce m e s a b d).mir = c.mir := Chip.mir_of_calm (by simp)
@[simp] theorem Chip.note_lock (e : Ev) (s a b d : Nat) : (c.note e s a b d).lock = c.lock := Chip.lock_of_calm (by simp)
@[simp] theorem Chip.event_lock (k n : Nat) : (c.event k n).lock = c.lock := Chip.lock_of_calm (by simp)
@[simp] theorem Chip.eventAtl_lock (p k n : Nat) : (c.eventAtl p k n).lock = c.lock := Chip.lock_of_calm (by simp)
@[simp] theorem Chip.eventPort_lock (p k n : Nat) : (c.eventPort p k n).lock = c.lock := Chip.lock_of_calm (by simp)
@[simp] theorem Chip.eventMch_lock (k n : Nat) : (c.eventMch k n).lock = c.lock := Chip.lock_of_calm (by simp)
@[simp] theorem Chip.irq_lock (n : Nat) : (c.irq n).lock = c.lock := Chip.lock_of_calm (by simp)
@[simp] theorem Chip.sample_lock (m b : Nat) : (c.sample m b).lock = c.lock := Chip.lock_of_calm (by simp)
@[simp] theorem Chip.noteOnce_lock (m : Nat) (e : Ev) (s a b d : Nat) : (c.noteOnce m e s a b d).lock = c.lock := Chip.lock_of_calm (by simp)
@[simp] theorem Chip.note_fresh (e : Ev) (s a b d : Nat) : (c.note e s a b d).fresh = c.fresh := Chip.fresh_of_calm (by simp)
@[simp] theorem Chip.event_fresh (k n : Nat) : (c.event k n).fresh = c.fresh := Chip.fresh_of_calm (by simp)
@[simp] theorem Chip.eventAtl_fresh (p k n : Nat) : (c.eventAtl p k n).fresh = c.fresh := Chip.fresh_of_calm (by simp)
@[simp] theorem Chip.eventPort_fresh (p k n : Nat) : (c.eventPort p k n).fresh = c.fresh := Chip.fresh_of_calm (by simp)
@[simp] theorem Chip.eventMch_fresh (k n : Nat) : (c.eventMch k n).fresh = c.fresh := Chip.fresh_of_calm (by simp)
@[simp] theorem Chip.irq_fresh (n : Nat) : (c.irq n).fresh = c.fresh := Chip.fresh_of_calm (by simp)
@[simp] theorem Chip.sample_fresh (m b : Nat) : (c.sample m b).fresh = c.fresh := Chip.fresh_of_calm (by simp)
@[simp] theorem Chip.noteOnce_fresh (m : Nat) (e : Ev) (s a b d : Nat) : (c.noteOnce m e s a b d).fresh = c.fresh := Chip.fresh_of_calm (by simp)
@[simp] theorem Chip.note_inputs (e : Ev) (s a b d : Nat) : (c.note e s a b d).inputs = c.inputs := Chip.inputs_of_calm (by simp)
@[simp] theorem Chip.event_inputs (k n : Nat) : (c.event k n).inputs = c.inputs := Chip.inputs_of_calm (by simp)
@[simp] theorem Chip.eventAtl_inputs (p k n : Nat) : (c.eventAtl p k n).inputs = c.inputs := Chip.inputs_of_calm (by simp)
@[simp] theorem Chip.eventPort_inputs (p k n : Nat) : (c.eventPort p k n).inputs = c.inputs := Chip.inputs_of_calm (by simp)
@[simp] theorem Chip.eventMch_inputs (k n : Nat) : (c.eventMch k n).inputs = c.inputs := Chip.inputs_of_calm (by simp)
@[simp] theorem Chip.irq_inputs (n : Nat) : (c.irq n).inputs = c.inputs := Chip.inputs_of_calm (by simp)
@[simp] theorem Chip.sample_inputs (m b : Nat) : (c.sample m b).inputs = c.inputs := Chip.inputs_of_calm (by simp)
@[simp] theorem Chip.noteOnce_inputs (m : Nat) (e : Ev) (s a b d : Nat) : (c.noteOnce m e s a b d).inputs = c.inputs := Chip.inputs_of_calm (by simp)
@[simp] theorem Chip.note_atoll (e : Ev) (s a b d : Nat) : (c.note e s a b d).atoll = c.atoll := Chip.atoll_of_calm (by simp)
@[simp] theorem Chip.event_atoll (k n : Nat) : (c.event k n).atoll = c.atoll := Chip.atoll_of_calm (by simp)
@[simp] theorem Chip.eventAtl_atoll (p k n : Nat) : (c.eventAtl p k n).atoll = c.atoll := Chip.atoll_of_calm (by simp)
@[simp] theorem Chip.eventPort_atoll (p k n : Nat) : (c.eventPort p k n).atoll = c.atoll := Chip.atoll_of_calm (by simp)
@[simp] theorem Chip.eventMch_atoll (k n : Nat) : (c.eventMch k n).atoll = c.atoll := Chip.atoll_of_calm (by simp)
@[simp] theorem Chip.irq_atoll (n : Nat) : (c.irq n).atoll = c.atoll := Chip.atoll_of_calm (by simp)
@[simp] theorem Chip.sample_atoll (m b : Nat) : (c.sample m b).atoll = c.atoll := Chip.atoll_of_calm (by simp)
@[simp] theorem Chip.noteOnce_atoll (m : Nat) (e : Ev) (s a b d : Nat) : (c.noteOnce m e s a b d).atoll = c.atoll := Chip.atoll_of_calm (by simp)
@[simp] theorem Chip.note_ring (e : Ev) (s a b d : Nat) : (c.note e s a b d).ring = c.ring := Chip.ring_of_calm (by simp)
@[simp] theorem Chip.event_ring (k n : Nat) : (c.event k n).ring = c.ring := Chip.ring_of_calm (by simp)
@[simp] theorem Chip.eventAtl_ring (p k n : Nat) : (c.eventAtl p k n).ring = c.ring := Chip.ring_of_calm (by simp)
@[simp] theorem Chip.eventPort_ring (p k n : Nat) : (c.eventPort p k n).ring = c.ring := Chip.ring_of_calm (by simp)
@[simp] theorem Chip.eventMch_ring (k n : Nat) : (c.eventMch k n).ring = c.ring := Chip.ring_of_calm (by simp)
@[simp] theorem Chip.irq_ring (n : Nat) : (c.irq n).ring = c.ring := Chip.ring_of_calm (by simp)
@[simp] theorem Chip.sample_ring (m b : Nat) : (c.sample m b).ring = c.ring := Chip.ring_of_calm (by simp)
@[simp] theorem Chip.noteOnce_ring (m : Nat) (e : Ev) (s a b d : Nat) : (c.noteOnce m e s a b d).ring = c.ring := Chip.ring_of_calm (by simp)
@[simp] theorem Chip.note_psram (e : Ev) (s a b d : Nat) : (c.note e s a b d).psram = c.psram := Chip.psram_of_calm (by simp)
@[simp] theorem Chip.event_psram (k n : Nat) : (c.event k n).psram = c.psram := Chip.psram_of_calm (by simp)
@[simp] theorem Chip.eventAtl_psram (p k n : Nat) : (c.eventAtl p k n).psram = c.psram := Chip.psram_of_calm (by simp)
@[simp] theorem Chip.eventPort_psram (p k n : Nat) : (c.eventPort p k n).psram = c.psram := Chip.psram_of_calm (by simp)
@[simp] theorem Chip.eventMch_psram (k n : Nat) : (c.eventMch k n).psram = c.psram := Chip.psram_of_calm (by simp)
@[simp] theorem Chip.irq_psram (n : Nat) : (c.irq n).psram = c.psram := Chip.psram_of_calm (by simp)
@[simp] theorem Chip.sample_psram (m b : Nat) : (c.sample m b).psram = c.psram := Chip.psram_of_calm (by simp)
@[simp] theorem Chip.noteOnce_psram (m : Nat) (e : Ev) (s a b d : Nat) : (c.noteOnce m e s a b d).psram = c.psram := Chip.psram_of_calm (by simp)
@[simp] theorem Chip.note_regNext (e : Ev) (s a b d : Nat) : (c.note e s a b d).regNext = c.regNext := Chip.regNext_of_calm (by simp)
@[simp] theorem Chip.event_regNext (k n : Nat) : (c.event k n).regNext = c.regNext := Chip.regNext_of_calm (by simp)
@[simp] theorem Chip.eventAtl_regNext (p k n : Nat) : (c.eventAtl p k n).regNext = c.regNext := Chip.regNext_of_calm (by simp)
@[simp] theorem Chip.eventPort_regNext (p k n : Nat) : (c.eventPort p k n).regNext = c.regNext := Chip.regNext_of_calm (by simp)
@[simp] theorem Chip.eventMch_regNext (k n : Nat) : (c.eventMch k n).regNext = c.regNext := Chip.regNext_of_calm (by simp)
@[simp] theorem Chip.irq_regNext (n : Nat) : (c.irq n).regNext = c.regNext := Chip.regNext_of_calm (by simp)
@[simp] theorem Chip.sample_regNext (m b : Nat) : (c.sample m b).regNext = c.regNext := Chip.regNext_of_calm (by simp)
@[simp] theorem Chip.noteOnce_regNext (m : Nat) (e : Ev) (s a b d : Nat) : (c.noteOnce m e s a b d).regNext = c.regNext := Chip.regNext_of_calm (by simp)

end Sys2Proof.Machine
end

