-- ==== Sys2Proof/Laws/Mailbox.lean ====
section
/-!
SUPPORT. What the window, a commit and the end of a command can do.
-/
namespace Sys2Proof.Machine

variable (c : Chip)

theorem tget_filter_none {α : Type} [Inhabited α] (m : SMap α) (k : Nat) (h : ∀ e ∈ m, e.1 ≠ k) : tget m k = default := by
  have := tdel_of_ne m k h
  rw [← this]; exact tget_tdel_same m k

/-- A command that runs is its effect on the unit as it finds it. -/
theorem Chip.applyCmd_runs (m : Mbx) (code : Nat) (f : Chip → Mailbox → Chip) (h : c.cmdRuns m code) :
    c.applyCmd m code f = f (c.entered m) ((c.entered m).mb m) := by
  obtain ⟨hp, hc, ha, hr, hs, hq, hb⟩ := h
  have g1 : ¬(c.stopped = true ∧ (!worksStopped code) = true) := by
    rintro ⟨a, b⟩; rcases hs with hs | hs <;> simp [hs] at a b
  have g2 : ¬(code ≠ 256 ∧ (namedRequest code (c.mb m).target).any (fun q => ((c.windowOf m).ax q).quarantined) = true) := by
    rintro ⟨a, b⟩
    obtain ⟨q, h1, h2⟩ := (Option.any_eq_true _ _).mp b
    rcases hq with hq | hq
    · exact a hq
    · rw [hq q h1] at h2; cases h2
  unfold Chip.applyCmd
  simp only [hp, hc, ha, Bool.not_true, ne_eq, not_true_eq_false, or_self, Bool.false_eq_true, if_false]
  rw [if_neg (by simp [hr]), if_neg g1]
  show (if code ≠ 256 ∧ (namedRequest code (c.mb m).target).any (fun q => ((c.windowOf m).ax q).quarantined) = true then _ else
    if (c.windowOf m).blocked m code (c.mb m).target = true then _ else _ : Chip) = _
  rw [if_neg g2, hb]
  rfl

/-- A load or routine that commits is its effect. -/
theorem Chip.commitCmd_commits (m : Mbx) (code : Nat) (r : Routine) (f : Chip → Mailbox → Routine → Chip) (h : c.commits m code r) :
    c.commitCmd m code f = f c.duties (c.mb m) r := by
  obtain ⟨h1, h2, h3, h4, h5, h6, h7, h8⟩ := h
  unfold Chip.commitCmd
  simp only [h1, h2, h4, h5, h6, h7, ne_eq, not_true_eq_false, Bool.not_true, Bool.false_eq_true, h3, h8, or_self, if_false]

theorem Chip.enterEnd_mb (m : Nat) (b : Mailbox) (done : Bool) : (c.enterEnd m b done).mb m = { b with
    state := if done then .done else .error, queued := false, due := false, apply := false, refuse := none, ecc := [], routine := none } := by
  unfold Chip.enterEnd
  simp only
  have key : ∀ d : Chip, d.calm = ({ c with
      staging := tdel c.staging m
      mbx := tset c.mbx m { b with
        state := if done then .done else .error, queued := false, due := false, apply := false, refuse := none, ecc := [], routine := none } } : Chip).calm →
      d.mb m = { b with
        state := if done then .done else .error, queued := false, due := false, apply := false, refuse := none, ecc := [], routine := none } := by
    intro d hd
    unfold Chip.mb
    rw [Chip.calm_mbx hd]
    simp
  apply key
  cases done <;> simp

/-- The end of a command touches its mailbox and what is staged for it alone. -/
theorem Chip.enterEnd_offMbx (m : Nat) (b : Mailbox) (done : Bool) : (c.enterEnd m b done).offMbx m = c.offMbx m := by
  have key : ∀ d : Chip, d.calm = ({ c with
      staging := tdel c.staging m
      mbx := tset c.mbx m { b with
        state := if done then .done else .error, queued := false, due := false, apply := false, refuse := none, ecc := [], routine := none } } : Chip).calm →
      d.offMbx m = c.offMbx m := by
    intro d hd
    unfold Chip.offMbx
    rw [hd, Chip.calm_mbx hd, Chip.calm_staging hd]
    simp only [Chip.calm, tdel_tset, tdel_tdel]
  apply key
  unfold Chip.enterEnd
  cases done <;> simp

theorem Chip.finish_offMbx (m : Nat) (st : Half) (data : List Byte) (cl : Bool) : (c.finish m st data cl).offMbx m = c.offMbx m :=
  Chip.enterEnd_offMbx _ _ _ _

/-- The end of a command answers it. -/
theorem Chip.finish_ended (m : Nat) (st : Half) (data : List Byte) (cl : Bool) :
    (c.finish m st data cl).ended m (c.mb m) st cl data := by
  unfold Chip.ended Chip.finish
  simp only
  rw [Chip.enterEnd_mb]
  by_cases h : st.toNat < 16 <;> simp [h]

/-- A command whose body ends it with a status is done. -/
theorem Chip.ended_of_mb {c d : Chip} {m : Nat} (h : c.mb m = d.mb m) (st : Half) (data : List Byte) (cl : Bool) :
    (c.finish m st data cl).ended m (d.mb m) st cl data := h ▸ Chip.finish_ended c m st data cl

end Sys2Proof.Machine
end

