-- ==== Sys2Proof/WellFormed.lean ====
section
/-!
DEFINITION. Which commands are well formed: the operand ranges of messages, words and accesses that the manual fixes for
the sender. exec gives every command a meaning; a well-formed one is what the hardware can be given.
-/
namespace Sys2Proof

/-- The bytes of a ROW or mask message fill whole 192-byte flit payloads and hold the 16 B header (R459, R465). -/
def msgWhole (msg : List Byte) : Bool := decide (msg.length % 192 = 0 ∧ 192 ≤ msg.length)

/-- A merge or reliability message holds its 16 B header and whole 16 B units (R200, R402). -/
def msgUnits (msg : List Byte) : Bool := decide (msg.length % 16 = 0 ∧ 16 ≤ msg.length)

/-- The tile word's opcode is in its bits 63 to 60 (R287). -/
def tileTop (w : DWord) : Nat := w.toNat / 2 ^ 60

/-- The width of an access, and where the controller's own ranges end (R313, R455). -/
def accessWf (off width : Nat) (path : AccessPath) : Bool :=
  match path with
  | .user | .supervisor | .controller => decide (width = 1 ∨ width = 2 ∨ width = 4 ∨ width = 8)
  | .descriptor => decide ((width = 1 ∨ width = 2 ∨ width = 4) ∧ off + width ≤ 64)
  | .commandPort => decide ((width = 1 ∨ width = 2 ∨ width = 4) ∧ off + width ≤ 0x1000)
  | _ => decide ((width = 1 ∨ width = 2 ∨ width = 4) ∧ off + width ≤ 0x80000)

/-- Is the command well formed? -/
def Instr.wf : Instr → Bool
  | .tcmdBad _ w => decide (4 ≤ tileTop w.word)
  | .row _ msg => msgWhole msg
  | .grammarMask _ msg => msgWhole msg
  | .data _ flit => decide (flit.length = 200)
  | .mergeNorm msg => msgUnits msg
  | .pass1 msg => msgUnits msg
  | .pass2 msg => msgUnits msg
  | .pass3 msg => msgUnits msg
  | .decision msg => msgUnits msg
  | .list msg => msgUnits msg
  | .notice msg => msgUnits msg
  | .record _ msg => msgUnits msg
  | .bind _ msg => msgUnits msg
  | .accept _ msg => msgUnits msg
  | .refuse _ msg => msgUnits msg
  | .heartbeat _ msg => msgUnits msg
  | .signature _ a => msgUnits a.msg
  | .registerWrite off _ => decide (off.toNat % 4 = 0)
  | .refusedAccess _ off width _ path => accessWf off.toNat width path
  | .readLo x => decide (x.off.toNat % 4 = 0)
  | .entryLatchRead x => decide (x.off.toNat % 4 = 0)
  | .plannerRun desc _ _ => desc.all fun d => decide (d.bytes.length = 64)
  | .limitWrite off _ => decide (off.toNat % 4 = 0)
  | .parkConfigWrite off _ => decide (off.toNat = 0xD4 ∨ off.toNat = 0xD8 ∨ off.toNat = 0xDC)
  | _ => true

end Sys2Proof
end

