-- ==== Sys2Proof/Tests/Slice0.lean ====
section
/-!
SUPPORT. Tests of the model against the manual's worked examples and tables, the smoke test of well-formedness, and a witness for the
hypotheses of every statement.
-/
namespace Sys2Proof.Tests

open Sys2Proof Sys2Proof.Machine

set_option maxRecDepth 20000
set_option Elab.async false

/-! ### Worked examples of the manual -/

/-- R92's example: acc 1.0 and t = 77 × 2^−31 rounds up with dither 200 and stays with dither 100; round to nearest gives 1.0. -/
theorem test_stochastic_rounding :
    (({ (default : AccCell) with acc := 0x3F800000#32 }.addTile false (some 200) (.fin false 77 (-31))).acc = 0x3F800001#32)
    ∧ (({ (default : AccCell) with acc := 0x3F800000#32 }.addTile false (some 100) (.fin false 77 (-31))).acc = 0x3F800000#32)
    ∧ (({ (default : AccCell) with acc := 0x3F800000#32 }.addTile false none (.fin false 77 (-31))).acc = 0x3F800000#32) := by decide +kernel

/-- R94's example: the 2,048th sum of 2^20 clamps at 2^31 − 1 and is flagged. -/
theorem test_saturation_corner :
    let x := { (default : AccCell) with acc := 2146435072#32 }.addTile true none (.fin false 1048576 0)
    x.acc = 2147483647#32 ∧ x.sat = true ∧ (Fp.ofInt 2147483647).toF32 = 0x4F000000#32 := by decide +kernel

/-- R288's example word: MXFP4, nearest, castling, SPILL 64, block 6, group 21, chunks 0 to 135. -/
theorem test_score_word : scoreF 0x1050065400000087 =
    { wfmt := 0, round := false, castle := true, spill := 64, piece := 0, block := 6, group := 21, shape := 0, draft := false
      start := 0, count := 136 } := by decide +kernel

/-- Its tile word fills the fields of R287 and has no reserved field set. -/
theorem test_score_top : fld 0x1050065400000087 63 60 = 1 ∧ tileReserved 0x1050065400000087 = false := by decide +kernel

/-- R163's example, steps 1 to 3: bias, two delta triplets. -/
theorem test_condition_delta :
    fadd 0x40F00000#32 0x3F400000#32 = 0x41040000#32
    ∧ ffma 0xBF000000#32 0x3E800000#32 (ffma 0x3C800000#32 0x40000000#32 0#32) = 0xBDC00000#32
    ∧ fadd 0x41040000#32 0xBDC00000#32 = 0x41028000#32 := by decide +kernel

/-- R163's example, steps 4 to 6: repetition, presence, frequency. -/
theorem test_condition_penalties :
    fdiv 0x3F800000#32 0x3FA00000#32 = (Fp.fin false 13421773 (-24)).toF32
    ∧ fmul 0x41028000#32 (Fp.fin false 13421773 (-24)).toF32 = (Fp.fin false 13683917 (-21)).toF32
    ∧ fsub (Fp.fin false 13683917 (-21)).toF32 0x3F000000#32 = (Fp.fin false 12635341 (-21)).toF32
    ∧ fsub (Fp.fin false 12635341 (-21)).toF32 (fmul 0x3E800000#32 0x40400000#32) = (Fp.fin false 11062477 (-21)).toF32 := by decide +kernel

/-- R163's example, step 8: temperature 0.7. -/
theorem test_condition_temperature :
    fdiv 0x3F800000#32 0x3F333333#32 = (Fp.fin false 11983726 (-23)).toF32
    ∧ fmul (Fp.fin false 11062477 (-21)).toF32 (Fp.fin false 11983726 (-23)).toF32 = (Fp.fin false 15803539 (-21)).toF32 := by decide +kernel

/-- R180's example, step 5: inside a tie group the smallest j that reaches the target is 48. -/
theorem test_tie_cut : tieCut 0x41A00000#32 0x419A0000#32 0x3C800000#32 64 = 48 := by decide +kernel

/-- The four masses of the example of a draw with alternates (R186). -/
def drawList : List Cand := withCum
  [{ (default : Cand) with token := 1, mass := 0x3F800000#32 }, { (default : Cand) with token := 2, mass := 0x3F000000#32 },
   { (default : Cand) with token := 3, mass := 0x3E800000#32 }, { (default : Cand) with token := 4, mass := 0x3E800000#32 }]

/-- CUM is 1, 1.5, 1.75, 2, and u = 0.609375 draws entry 1 (R186). -/
theorem test_draw_alternates :
    drawList.map (fun e => e.cum) = [0x3F800000#32, 0x3FC00000#32, 0x3FE00000#32, 0x40000000#32]
    ∧ thrOf drawList 0x3F1C0000#32 = 0x3F9C0000#32 ∧ pick drawList (thrOf drawList 0x3F1C0000#32) = 1 := by decide +kernel

/-- The lists of the example of a rejection (R219): the target's P and the draft's Q. -/
def listP : List Cand := withCum
  [{ (default : Cand) with token := 812, mass := 0x3F800000#32 }, { (default : Cand) with token := 4001, mass := 0x3F400000#32 },
   { (default : Cand) with token := 77, mass := 0x3E800000#32 }, { (default : Cand) with token := 9330, mass := 0x3E000000#32 }]
def listQ : List Cand := withCum
  [{ (default : Cand) with token := 812, mass := 0x3F800000#32 }, { (default : Cand) with token := 77, mass := 0x3F000000#32 },
   { (default : Cand) with token := 4001, mass := 0x3E800000#32 }]

/-- Token 77 is rejected at u = 0.5, and the residual draw at u = 0.1875 takes entry 1, token 4,001 (R219, R221). -/
theorem test_rejection :
    let q := (listQ, indexWords listQ)
    indexWords listQ = [1#32, 0#32, 2#32] ∧ accepts listP q 77 0x3F000000#32 = false
    ∧ residual listP q = [0#32, 0x3F480000#32, 0#32, 0x3E600000#32]
    ∧ (resample listP q 0x3E400000#32).1 = 1 := by decide +kernel

/-- R249's example: NEXT 1 takes the balance from 3 to 103 and reloads NEXT; NEXT 2 leaves it. -/
theorem test_refill_example :
    let x : Tenant := { (default : Tenant) with balance := 3, refill := 100, period := 1000, ceiling := 500, next := 1, state := 1 }
    x.tick.balance = 103 ∧ x.tick.next = 1000 ∧ ({ x with next := 2 }).tick.balance = 3 := by decide +kernel

/-- The published check values of the checks that the manual names, over the nine digits (R267, R388, R459). -/
theorem test_crc :
    let m : List Byte := [0x31, 0x32, 0x33, 0x34, 0x35, 0x36, 0x37, 0x38, 0x39]
    crc16 m = 0x29B1 ∧ crc32 m = 0xCBF43926 ∧ crc64 0 m = 0x6C40DF5F0B497347 := by decide +kernel

/-- The published known answer of Philox-4×32-10 for the zero key and counter (R183). -/
theorem test_philox : philox 0 0 0 0 0 0 = { c0 := 0x6627E8D5#32, c1 := 0xE169C58D#32, c2 := 0xBC57AC4C#32, c3 := 0x9B00DBD8#32 } := by
  decide +kernel

/-- The published digest of the empty message under SHA-384 (R336). -/
theorem test_sha384 : leNat ((sha384 []).take 8).reverse = 0x38B060A751AC9638 := by decide +kernel

/-- Key order: −inf below −1 below +0 below 1 (R168). -/
theorem test_keys :
    (keyOf negInf).toNat < (keyOf 0xBF800000#32).toNat ∧ (keyOf 0xBF800000#32).toNat < (keyOf 0#32).toNat
    ∧ (keyOf 0#32).toNat < (keyOf 0x3F800000#32).toNat ∧ keyVal (keyOf 0xBF800000#32) = 0xBF800000#32 := by decide +kernel

/-- Exact points of exp and log (R16). -/
theorem test_exp_log : fexp 0#32 = 0x3F800000#32 ∧ flog 0x3F800000#32 = 0#32 ∧ fexp negInf = 0#32 ∧ flog 0#32 = negInf := by decide +kernel

/-! ### Well-formedness: each check refuses an ill-formed term -/

theorem test_wf_tile : (Instr.tcmdBad 0 ⟨0x1000000000000000#64, []⟩).wf = false ∧ (Instr.tcmdBad 0 ⟨0x4000000000000000#64, []⟩).wf = true := by decide +kernel

theorem test_wf_messages :
    (Instr.row 0 []).wf = false ∧ (Instr.grammarMask 0 (List.replicate 191 0)).wf = false
    ∧ (Instr.row 0 (List.replicate 192 0)).wf = true ∧ (Instr.data 0 (List.replicate 199 0)).wf = false
    ∧ (Instr.data 0 (List.replicate 200 0)).wf = true := by decide +kernel

theorem test_wf_units :
    ∀ i ∈ ([.mergeNorm, .pass1, .pass2, .pass3, .decision, .list, .notice, .record 0, .bind 0, .accept 0, .refuse 0, .heartbeat 0,
        fun m => .signature 0 ⟨m, 0⟩] : List (List Byte → Instr)),
      (i []).wf = false ∧ (i (List.replicate 17 0)).wf = false ∧ (i (List.replicate 16 0)).wf = true := by decide +kernel

theorem test_wf_accesses :
    (Instr.registerWrite 2 ⟨0, none⟩).wf = false ∧ (Instr.readLo ⟨1, []⟩).wf = false ∧ (Instr.entryLatchRead ⟨0x20003, []⟩).wf = false
    ∧ (Instr.limitWrite 6 0).wf = false ∧ (Instr.parkConfigWrite 0xD0 0).wf = false ∧ (Instr.refusedAccess true 0 3 ⟨0, []⟩ .supervisor).wf = false
    ∧ (Instr.registerWrite 4 ⟨0, none⟩).wf = true ∧ (Instr.parkConfigWrite 0xDC 0).wf = true
    ∧ (Instr.refusedAccess false 0 8 ⟨0, []⟩ .user).wf = true := by decide +kernel

/-! ### Witnesses: a state and operands that meet the hypotheses of each statement -/

/-- A block with this unit and a meter that holds nothing. -/
def st (c : Chip) : State := { pending := [], unit := c, meter := default }

/-- A READY unit with RUN, whose step is in its command window at time 1,200. -/
def up : Chip := { (default : Chip) with
  clk := { (default : Clocks) with now := 1200, ucyc := 1200 }, ureg := [(0x008, 1#32), (0x00C, 1#32)]
  stp := { (default : StepSt) with active := true } }

/-- A small plan: one wave of 8 rows and one of 2, on 16 atolls, one chunk. -/
def plan0 : Plan := { (default : Plan) with
  period := 1000, head0 := 0x01000800#32, rescore := 4, n := 4096, h0 := 32, pieces := 1, dmax := 1, waves := [(8, false), (2, false)] }

/-- The same unit after planning, with the streams of atoll 0 running. -/
def runUnit : Chip := { up with
  stp := { up.stp with planned := true }, plan := { (default : PlanSt) with cur := some plan0 }
  atoll := [(0, { (default : AtollSt) with tileRuns := true, laneRuns := true })] }

/-- The same with a U8, a W64 and an FP32 descriptor of 8 elements in D0, D1, D2 of every lane of atoll 0. -/
def descUnit : Chip := { runUnit with lane := (List.range 256).map fun g => (g, { (default : Lane) with
  d := [(0, 0x0200700001000000#64), (1, 0x0380700008000100#64), (2, 0x0000700004000200#64)] }) }

/-- Lane fields from four numbers. -/
def lf (d a b : Nat) (m : Nat := 0) : LaneF :=
  { d := BitVec.ofNat 8 d, a := BitVec.ofNat 8 a, b := BitVec.ofNat 8 b, mod := BitVec.ofNat 32 m }

/-- Legal fields of every lane opcode. -/
def laneLegal : List (Nat × LaneF) :=
  [0x00, 0x01, 0x03, 0x04, 0x05].map (fun o => (o, lf 0xFF 0xFF 0xFF)) ++
  [0x12, 0x13, 0x14, 0x15, 0x16, 0x17, 0x18, 0x19, 0x1A, 0x1B, 0x1C].map (fun o => (o, lf 0x60 0x61 0x62)) ++
  [(0x02, lf 0x60 0xFF 0xFF 0x10000), (0x10, lf 0x60 0xFF 0xFF 5), (0x11, lf 0x60 0x61 0xFF), (0x1D, lf 0x60 0x41 0xFF 7),
   (0x1E, lf 0x41 0x60 0xFF 7), (0x20, lf 0x3F 0xFF 0xFF 255), (0x21, lf 0x00 0x60 0xFF), (0x28, lf 0x91 0x60 0x61 5),
   (0x29, lf 0x91 0x60 0xFF), (0x2A, lf 0x91 0x92 0x93 3)] ++
  [0x41, 0x42, 0x43, 0x44, 0x45, 0x46, 0x47].map (fun o => (o, lf 0x40 0x41 0x42)) ++
  [(0x40, lf 0x40 0x41 0xFF), (0x48, lf 0x40 0x41 0xFF), (0x49, lf 0x40 0x41 0xFF), (0x4A, lf 0x00 0x41 0x42 5), (0x4B, lf 0x40 0x41 0x42),
   (0x4C, lf 0x40 0x60 0xFF), (0x4D, lf 0x00 0x00 0x00 2), (0x58, lf 0x40 0x60 0xFF), (0x59, lf 0x01 0x40 0xFF), (0x5A, lf 0x00 0x40 0x41),
   (0x5B, lf 0xFF 0x60 0xFF), (0x60, lf 0x00 0x60 0xFF), (0x61, lf 0x00 0x60 0xFF), (0x62, lf 0x40 0x60 0xFF), (0x63, lf 0x40 0xFF 0xFF 2),
   (0x64, lf 0x01 0x60 0x61), (0x68, lf 0xFF 0x60 0x61), (0x69, lf 0xFF 0x60 0xFF), (0x6A, lf 0xFF 0x60 0xFF)]

/-- Every word of the lane statements can be ready with its reserved fields 0, and with one that is not. -/
theorem wit_lane_words :
    runUnit.laneReady 0 = true ∧ (∀ p ∈ laneLegal, laneReserved p.1 p.2 = false) ∧ laneReserved 0x12 (lf 0x60 0x61 0x41) = true
    ∧ laneReserved 0x02 (lf 0xFF 0xFF 0xFF) = true ∧ opDefined 0x57 = false := by decide +kernel

/-- DADD: a sum at the top of BASE, and one beyond it. -/
theorem wit_dadd :
    (({ (default : Lane) with s := [(0, 8388607#32)] }).newBase (lf 0 0x60 0xFF) = 8388607)
    ∧ (({ (default : Lane) with s := [(0, 8388608#32)] }).newBase (lf 0 0x60 0xFF) = 8388608)
    ∧ (({ (default : Lane) with s := [(0, 0xFFFFFFFF#32)] }).newBase (lf 0 0x60 0xFF) = -1) := by decide +kernel

/-- Stream ends: the last word of a bank, and loop ends with and without trips left. -/
theorem wit_stream_next :
    (({ (default : Chip) with atoll := [(0, { (default : AtollSt) with lanePc := 8191, tilePc := 8191 })] }).atl 0).lanePc + 1 = 8192
    ∧ (let x : LoopFrame := { (default : LoopFrame) with start := 4, len := 3, left := 1 }
      (({ (default : Chip) with atoll := [(0, { (default : AtollSt) with lanePc := 6, loops := [x] })] }).atl 0).lanePc + 1
        = x.start + x.len ∧ x.left ≠ 0 ∧ x.start < 8192) := by decide +kernel

/-- LOOP at the fourth level, and at a fifth. -/
theorem wit_loop :
    (runUnit.atl 0).loops.length < 4 ∧ (runUnit.atl 0).lanePc + 1 < 8192
    ∧ 4 ≤ (({ runUnit with atoll := [(0, { (default : AtollSt) with loops := List.replicate 4 default })] }).atl 0).loops.length := by
  decide +kernel

/-- SLD and SST: element 7 of a vector register, an inconsistent operand, and an index past COUNT. -/
theorem wit_sld_sst :
    runUnit.firstBad 0 (fun g => runUnit.countOf g (.vec 1)) (fun _ => [⟨.vec 1, List.range 8, false, true⟩]) = none
    ∧ runUnit.indexBad 0 (.vec 1) 7 = false ∧ runUnit.indexBad 0 (.vec 1) 8 = true
    ∧ runUnit.firstBad 0 (fun g => runUnit.countOf g (.vec 1)) (fun _ => [⟨.vec 1, [0, 6], true, true⟩]) = none
    ∧ descUnit.firstBad 0 (fun g => descUnit.countOf g (.desc 1)) (fun _ => [⟨.desc 1, List.range 7, false, true⟩]) = some 1 := by
  decide +kernel

/-- Vector words: consistent operands for each, and an inconsistent one. -/
theorem wit_vector_words :
    let n := fun (c : Chip) (f : LaneF) (g : Nat) => c.countOf g (opnd f.d)
    let ok := fun (c : Chip) (us : Chip → LaneF → Nat → List Use) (f : LaneF) => c.firstBad 0 (n c f) (us c f)
    ok runUnit fpUses (lf 0x40 0x41 0x42) = none ∧ ok descUnit fpUses (lf 0x00 0x41 0x42) = some 0
    ∧ ok runUnit movUses (lf 0x40 0x41 0xFF) = none ∧ ok descUnit cmpUses (lf 0x00 0x40 0x41) = none
    ∧ ok descUnit selUses (lf 0x40 0x41 0x42) = none ∧ ok runUnit fillUses (lf 0x40 0x60 0xFF) = none
    ∧ ok descUnit bitUses (lf 0x00 0x00 0x00) = none ∧ ok descUnit chkUses (lf 0x00 0x40 0x41) = none := by decide +kernel

/-- Tile words: NOP, END, WAITF, one with a reserved bit, and an undefined TOP. -/
theorem wit_tile_words :
    runUnit.tileReady 0 = true ∧ fld 0xE000000000000000 63 60 = 0xE ∧ tileReserved 0xE000000000000000 = false
    ∧ tileReserved 0xF000000000000000 = false ∧ fld 0x200000000000000F 63 60 = 2 ∧ tileReserved 0x200000000000000F = false
    ∧ tileReserved 0xE000000000000001 = true ∧ fld 0x3000000000000000 63 60 ∉ [1, 2, 14, 15] := by decide +kernel

/-- SCORE: a consistent command and an inconsistent one. -/
theorem wit_score :
    let w := 0x1010000000000000
    fld w 63 60 = 1 ∧ tileReserved w = false
    ∧ runUnit.scoreBad plan0 0 (scoreF w) = false ∧ runUnit.scoreBad plan0 0 (scoreF 0x1210000000000000) = true
    ∧ (plan0.shape (scoreF w).shape).1 ≤ 128 := by decide +kernel

/-- A row of kind `k` in slot 0 of the wave, its list and outcome given. -/
def row0 (k : RowKind) (o : RowOutcome) (l : List Cand) : Row := { (default : Row) with req := 1, kind := k, outcome := o, list := l }

/-- The same unit with those rows. -/
def rowsUnit (l : List Row) : Chip := { runUnit with stp := { runUnit.stp with rows := l } }

/-- The words of rows: their operands are consistent. -/
theorem wit_row_words :
    let n := fun (_ : Nat) => (descUnit.waveShape 0).1
    descUnit.plan.cur = some plan0 ∧ (descUnit.waveShape 0) = (8, false)
    ∧ descUnit.firstBad 0 n (fun _ => [⟨.desc 0, [4], true, false⟩]) = none
    ∧ runUnit.firstBad 0 n (fun _ => [⟨.vec 0, [0], true, false⟩]) = none
    ∧ descUnit.firstBad 0 n (fun _ => [⟨.desc 1, [7], true, false⟩, ⟨.vec 0, [0], false, true⟩]) = none
    ∧ descUnit.firstBad 0 n (fun _ => [⟨.desc 0, [0], true, false⟩]) = some 0
    ∧ descUnit.plan.cur.map (fun p => (p.dmax - 0, p.dmax - 2048, p.scoreIn false)) = some (1, 0, false) := by decide +kernel

/-- Words on shared hardware: all lanes write, none does, some do; the row is there. -/
theorem wit_shared_words :
    (runUnit.writers 0 (lf 0xFF 0x60 0xFF)).length = 256 ∧ (runUnit.writers 0 (lf 0xFF 0x60 0xFF 0x80000000)).length = 0
    ∧ ((runUnit.modLn 3 fun x => x.setPred 1 true).writers 0 (lf 0xFF 0x60 0xFF 0x10000000)).length = 1
    ∧ (rowsUnit [row0 .plain .pending []]).liveRow 0 ((rowsUnit []).slotOf 0 0x60) = some (row0 .plain .pending [])
    ∧ (0 : Nat) ∈ classAtolls (rowsUnit []).draftN ((rowsUnit []).waveShape 0).2 := by decide +kernel

/-- DRAW, RESOLVE and RSCK: a listed row; a target row whose gambit is ready; a candidate of the row to rescore. -/
theorem wit_draw_words :
    (rowsUnit [row0 .plain .listed drawList]).listDone (row0 .plain .listed drawList) = true
    ∧ drawAtolls (rowsUnit []).draftN ((rowsUnit []).waveShape 0).2 = (0, 8)
    ∧ (let c := rowsUnit [row0 .target .listed drawList]
      c.gambitReady (c.gambit 1) ((c.gambit 1).len 0) = true ∧ (c.resolution 1).final = none)
    ∧ (let c := { rowsUnit [row0 .plain .listed drawList] with prm := [(1, { (default : Params) with rescore := 1 })] }
      c.rescoreN (row0 .plain .listed drawList) = 1 ∧ plan0.colOf 1 = some 1) := by decide +kernel

/-! #### Mailbox commands -/

/-- A mailbox message: header and payload (R321). -/
def message (code target : Nat) (pay : List Byte) : SMap Byte :=
  wrBytes [] 0 (toLE 2 code ++ toLE 2 5 ++ toLE 2 pay.length ++ toLE 2 0 ++ toLE 4 target ++ toLE 4 0 ++ pay)

/-- A unit with a passed command in mailbox 0, which may apply. -/
def inbox (c : Chip) (code target : Nat) (pay : List Byte := []) : State :=
  st { c with mbx := [(0, { (default : Mailbox) with state := .accepted, due := true, apply := true, msg := message code target pay })] }

/-- The command in mailbox 0 applies now, and its statement's condition holds of the unit it finds. -/
def meets (code : Nat) (s : State) (on : Chip → Mailbox → Bool) : Bool :=
  s.unit.passed 0 && decide ((s.unit.mb 0).code = code) && !s.unit.ahead 0 && (s.unit.mb 0).refuse.isNone
    && (!s.unit.stopped || worksStopped code)
    && (decide (code = 0x0100) || (namedRequest code (s.unit.mb 0).target).all fun q => !((s.unit.windowOf 0).ax q).quarantined)
    && !(s.unit.windowOf 0).blocked 0 code (s.unit.mb 0).target && on (s.unit.entered 0) ((s.unit.entered 0).mb 0)

/-- What `meets` says are the hypotheses of a statement about a command. -/
theorem meets_runs {code : Nat} {s : State} {on : Chip → Mailbox → Bool} (h : meets code s on = true) :
    s.unit.cmdRuns 0 code ∧ on (s.unit.entered 0) ((s.unit.entered 0).mb 0) = true := by
  simp only [meets, Bool.and_eq_true, Bool.or_eq_true, Bool.not_eq_true', decide_eq_true_eq] at h
  refine ⟨⟨h.1.1.1.1.1.1.1, h.1.1.1.1.1.1.2, h.1.1.1.1.1.2, ?_, h.1.1.1.2, h.1.1.2.imp id fun k q e => ?_, h.1.2⟩, h.2⟩
  · simpa using h.1.1.1.1.2
  change namedRequest code (s.unit.mb 0).target = some q at e
  rw [e] at k
  simpa using k

/-- A unit with a load or routine of this code in mailbox 0, begun at an earlier tick. -/
def held (c : Chip) (code target : Nat) (pay : List Byte := []) (r : Routine := default) : State :=
  st { c with
    tick := { c.tick with cnt := 7 }
    mbx := [(0, { (default : Mailbox) with state := .accepted, msg := message code target pay, routine := some { r with code := BitVec.ofNat 16 code } })] }

/-- The load or routine in mailbox 0 commits now, and its statement's condition holds. -/
def meetsAt (code : Nat) (s : State) (on : Chip → Mailbox → Routine → Bool) : Bool :=
  match (s.unit.mb 0).routine with
  | none => false
  | some r => decide (r.code.toNat = code ∧ s.unit.tick.cnt ≠ r.tick ∧ r.left = 0 ∧ r.failed ≠ some 0x0050) && s.unit.runs
      && s.unit.inWindow && !s.unit.stp.applied && on s.unit.duties (s.unit.mb 0) r

/-- What `meetsAt` says are the hypotheses of a statement about a commit. -/
theorem meetsAt_commits {code : Nat} {s : State} {on : Chip → Mailbox → Routine → Bool} (h : meetsAt code s on = true) :
    ∃ r, s.unit.commits 0 code r ∧ on s.unit.duties (s.unit.mb 0) r = true := by
  unfold meetsAt at h
  split at h
  · cases h
  · rename_i r e
    simp only [Bool.and_eq_true, Bool.not_eq_true', decide_eq_true_eq] at h
    exact ⟨r, ⟨e, h.1.1.1.1.1, h.1.1.1.1.2.1, h.1.1.1.1.2.2.1, h.1.1.1.2, h.1.1.2, h.1.2, h.1.1.1.1.2.2.2⟩, h.2⟩

/-- The same unit with one request in a state. -/
def withReq (k : ReqState) (e : ReqEntry := default) : Chip := { up with req := [(1, { e with state := k })] }

/-- The doorbell: a message that passes the checks, one that fails them, a repeat, a stale number, a busy and a booting mailbox. -/
theorem wit_doorbell :
    let c := (inbox up 0 0).unit
    let b := { c.mb 0 with state := .posted, ringTime := c.clk.ucyc, apply := false, due := false }
    c.headerCheck 0 b = none
    ∧ c.headerCheck 0 { b with msg := message 0x0999 0 [] } = some 0x0010
    ∧ (default : Mailbox).seqValid = false
    ∧ (b.seq - 4#16).toNat = 1 ∧ (b.seq - 5#16).toNat = 0 ∧ 32768 ≤ (b.seq - 6#16).toNat ∧ (b.seq - (5#16 - 32767#16)).toNat = 32767
    ∧ (c.mb 0).state = .accepted ∧ Mailbox.boot.state = .busyBoot ∧ (default : Mailbox).state = .idle := by decide +kernel

/-- Verdicts: an accepted command that is due, without a routine. -/
theorem wit_verdicts :
    ((inbox up 0 0).unit.mb 0).state = .accepted ∧ ((inbox up 0 0).unit.mb 0).due = true ∧ ((inbox up 0 0).unit.mb 0).routine = none
    ∧ (inbox up 0 0).unit.windowOpen 0 = true
    ∧ (∀ n ∈ [1023, 1024], let c := { up with
          clk := { up.clk with ucyc := n }, mbx := [(0, { (default : Mailbox) with state := .accepted, due := true })] };
      c.stp.active = true ∧ c.dbg.frozen = false ∧ (c.mb 0).answered = false ∧ c.since = n) := by decide +kernel

/-- Before a command's effect: refused, fail-stopped, quarantined, behind a routine; a command that is not passed. -/
theorem wit_gate :
    (let b := { (inbox up 0x0100 0).unit.mb 0 with apply := false, refuse := some 0x10 };
      let c := { up with mbx := [(0, b)] };
      c.passed 0 = true ∧ (c.mb 0).code = 0x0100 ∧ c.ahead 0 = false ∧ (c.mb 0).refuse = some 0x10)
    ∧ (let c := (inbox { up with ureg := [(0x160, 0x80000000#32)] } 0x0100 0).unit;
      c.passed 0 = true ∧ c.ahead 0 = false ∧ c.stopped = true ∧ worksStopped 0x0100 = false)
    ∧ (let c := (inbox { up with aux := [(1, { (default : ReqAux) with quarantined := true })] } 0x0101 1).unit
      c.passed 0 = true ∧ c.ahead 0 = false ∧ c.stopped = false ∧ namedRequest 0x0101 (c.mb 0).target = some 1 ∧ (c.ax 1).quarantined = true)
    ∧ (let b := (inbox up 0x0101 1).unit.mb 0;
      let r : Routine := { (default : Routine) with code := 0x0104, target := 1 };
      let c := { up with mbx := [(0, b), (1, { (default : Mailbox) with state := .accepted, routine := some r })] };
      c.passed 0 = true ∧ c.ahead 0 = false ∧ c.stopped = false ∧ c.blocked 0 0x0101 1 = true)
    ∧ up.passed 0 = false := by decide +kernel

/-- Reports: targets in range and out of it. -/
theorem wit_reports :
    meets 0x0000 (inbox up 0x0000 1) (fun _ b => decide (b.target ≠ 0)) ∧ meets 0x0001 (inbox up 0x0001 1) (fun _ b => decide (b.target ≠ 0))
    ∧ meets 0x0002 (inbox up 0x0002 1) (fun _ b => decide (b.target ≠ 0))
    ∧ meets 0x0000 (inbox up 0x0000 0) (fun _ b => decide (b.target = 0)) ∧ meets 0x0001 (inbox up 0x0001 0) (fun _ b => decide (b.target = 0))
    ∧ meets 0x0002 (inbox up 0x0002 0) (fun _ b => decide (b.target = 0)) ∧ meets 0x0305 (inbox up 0x0305 255) (fun _ b => decide (b.target < 256))
    ∧ meets 0x0600 (inbox up 0x0600 0) (fun _ b => decide (b.target = 0))
    ∧ meets 0x0600 (inbox up 0x0600 69631) (fun _ b => decide (65536 ≤ b.target ∧ b.target < 69632))
    ∧ meets 0x0600 (inbox up 0x0600 131087) (fun _ b => decide (131072 ≤ b.target ∧ b.target < 131088))
    ∧ meets 0x0800 (inbox up 0x0800 4095 [0, 0, 0, 0, 15]) (fun c b => decide (b.target < 4096 ∧ 1 ≤ b.pay 4 1 ∧ b.pay 4 1 < 16 ∧ b.pay 5 3 = 0
      ∧ (c.replayRecs (tget c.ring b.target) (b.pay 4 1) (BitVec.ofNat 32 (b.pay 0 4))).isOk = false))
    ∧ meets 0x0800 (inbox { up with
        recseq := 1, replay := [(0, some default)], ring := [(0, { (default : RingDesc) with valid := true, prod := 1, count0 := 1 })] }
        0x0800 0 [0, 0, 0, 0, 1]) (fun c b => decide (b.target < 4096 ∧ 1 ≤ b.pay 4 1 ∧ b.pay 4 1 < 16 ∧ b.pay 5 3 = 0
      ∧ (c.replayRecs (tget c.ring b.target) (b.pay 4 1) (BitVec.ofNat 32 (b.pay 0 4))).isOk = true)) := by
  decide +kernel

/-- OPEN's message: tenant 1, MAXLEN 1, a ring of 2^6 records. -/
def openPay : List Byte := [1] ++ List.replicate 11 0 ++ [1] ++ List.replicate 51 0 ++ [6] ++ List.replicate 15 0

/-- OPEN: taken, and refused for its tenant. -/
theorem wit_open :
    meets 0x0100 (inbox { up with tnt := [(1, { (default : Tenant) with state := 1 })] } 0x0100 4095 openPay) (fun c b =>
      decide (b.target < 4096 ∧ c.openRefusal b.target b = none)
        && (c.blockOf (c.blockAt (entryOfImage (rdBytes b.msg 16 64)).pblk)).isSome)
    ∧ meets 0x0100 (inbox up 0x0100 4095 openPay) (fun c b => decide (b.target < 4096 ∧ c.openRefusal b.target b = some 0x0025)) := by
  decide +kernel

/-- SET_PARAMS of every field of a live request, and of one that is FREE. -/
theorem wit_set_params :
    meets 0x0101 (inbox { withReq .active with ring := [(0, { (default : RingDesc) with log2size := 6 })] } 0x0101 1
        (List.replicate 64 0 ++ [0x7F])) (fun c b =>
      (c.blockOf (c.blockAt (entryOfImage (rdBytes b.msg 16 64)).pblk)).isSome && (b.pay 64 4).testBit 0
        && decide (c.paramsRefusal b (entryOfImage (rdBytes b.msg 16 64)) (b.pay 64 4) (c.blockOf (c.blockAt 0)) = none))
    ∧ meets 0x0101 (inbox up 0x0101 1) (fun c b => decide (c.paramsRefusal b default 0 none = some 0x0022)) := by
  decide +kernel

/-- CLOSE, CANCEL and RESET_COUNTS: of a live request, a draining one, a FREE one, and beyond the IDs. -/
theorem wit_close_reset :
    meets 0x0102 (inbox (withReq .active) 0x0102 1) (fun c b => decide (b.target < 4096 ∧ (c.rq b.target).state ∉ [.free, .draining, .closed]
      ∧ (c.rq b.target).cancel = false))
    ∧ meets 0x0103 (inbox (withReq .draining) 0x0103 1) (fun c b => decide (b.target < 4096 ∧ (c.rq b.target).state ≠ .free
      ∧ ((c.rq b.target).state ∈ [.draining, .closed] ∨ (c.rq b.target).cancel = true)))
    ∧ meets 0x0103 (inbox up 0x0103 4095) (fun c b => decide (b.target < 4096 ∧ (c.rq b.target).state = .free))
    ∧ meets 0x0102 (inbox up 0x0102 4096) (fun _ b => decide (4096 ≤ b.target))
    ∧ meets 0x0108 (inbox (withReq .held) 0x0108 1) (fun c b => decide (c.needLive b = none ∧ (c.rq b.target).state ≠ .parked)) := by
  decide +kernel

/-- A unit whose parking slots hold 4,096 bytes. -/
def parkUnit (k : ReqState) : Chip := { withReq k with ureg := (0x008, 1#32) :: (0x00C, 1#32) :: [(0x0D4, 1#32)] }

/-- PARK, RESUME and their commits. -/
theorem wit_parking :
    meets 0x0104 (inbox (parkUnit .active) 0x0104 1 [9]) (fun c b => decide (c.needLive b = none ∧ (c.rq b.target).cancel = false
      ∧ (c.rq b.target).merge = false ∧ (c.rq b.target).state ∈ [.opened, .active, .held, .preempted] ∧ (c.rq b.target).mirror = false
      ∧ b.pay 0 4 ≠ 0 ∧ c.parkSize ≠ 0 ∧ parkPages (c.countTags b.target).length + 256 * (c.countTags b.target).length ≤ c.parkSize))
    ∧ (meetsAt 0x0104 (held (parkUnit .parking) 0x0104 1) fun _ _ _ => true)
    ∧ meets 0x0105 (inbox (parkUnit .parked) 0x0105 1) (fun c b => decide (b.target < 4096 ∧ (c.rq b.target).state = .parked
      ∧ (c.rq b.target).merge = false ∧ (Chip.allocAll .count (c.slotTags b.target) c []).1.isSome))
    ∧ meets 0x0105 (inbox { parkUnit .parked with psram := [(4096 + 128, 1)] } 0x0105 1) (fun c b => decide (b.target < 4096
      ∧ (c.rq b.target).state = .parked ∧ (c.rq b.target).merge = false ∧ (Chip.allocAll .count (c.slotTags b.target) c []).1 = none))
    ∧ (meetsAt 0x0105 (held (parkUnit .resuming) 0x0105 1) fun _ _ _ => true) := by
  decide +kernel

/-- A unit whose request 1 is a shadow with this state of its mirror entry. -/
def shadowUnit (k : MState) (seen : Word := 0) : Chip :=
  { withReq .opened with mir := [(1, { (default : MirrorEnt) with mstate := k, shadow := true, lastSeen := seen, seen := seen ≠ 0#32 })] }

/-- ADOPT of a silent peer and of one that lives; LOAD_COUNTS; their commits. -/
theorem wit_adopt_counts :
    meets 0x0106 (inbox (shadowUnit .bound) 0x0106 1 [6]) (fun c b => decide (b.target < 4096 ∧ descOk (b.pay 0 8) = true ∧ b.pay 10 2 < 4096
      ∧ b.pay 12 1 < 2 ∧ b.pay 13 3 = 0 ∧ (c.mr b.target).shadow = true ∧ (c.mr b.target).mstate = .bound
      ∧ (c.rq b.target).state ∉ [.draining, .closed] ∧ (c.peerAlive b.target = false ∨ b.pay 12 1 = 1)
      ∧ 6 ≤ descLog2 (b.pay 0 8) ∧ descLog2 (b.pay 0 8) ≤ 16 ∧ c.ringBusy b.target (b.pay 10 2) = false
      ∧ c.ringSmall (descLog2 (b.pay 0 8)) (c.pm b.target) (c.rq b.target).gambit.toNat = false))
    ∧ meets 0x0106 (inbox { shadowUnit .bound 1 with stp := { up.stp with num := 3, before := [2, 1] } } 0x0106 1 [16]) (fun c b => decide
      (b.target < 4096 ∧ descOk (b.pay 0 8) = true ∧ b.pay 10 2 < 4096 ∧ b.pay 12 1 = 0 ∧ b.pay 13 3 = 0 ∧ (c.mr b.target).shadow = true
        ∧ (c.mr b.target).mstate = .bound ∧ (c.rq b.target).state ∉ [.draining, .closed] ∧ c.peerAlive b.target = true))
    ∧ meetsAt 0x0106 (held (shadowUnit .bound) 0x0106 1 [6]) (fun c b _ =>
      decide (((c.applyRecords fun j => j == b.target).mr b.target).mstate = .bound
        ∧ ((c.applyRecords fun j => j == b.target).rq b.target).state = .opened))
    ∧ meets 0x0107 (inbox { withReq .active with plan := runUnit.plan } 0x0107 1 (List.replicate 8 0 ++ [0, 0, 4])) (fun c b =>
      decide (c.needLive b = none ∧ 1 ≤ b.pay 8 4 ∧ b.pay 8 4 ≤ 262144 ∧ (c.rq b.target).state ≠ .parked) && c.plan.cur.isSome)
    ∧ meetsAt 0x0107 (held up 0x0107 1 [] { (default : Routine) with failed := some 0x0028 }) (fun _ _ r => decide (r.failed = some 0x0028)) := by decide +kernel

/-- A count list of one token that commits: without a page for it, with one, and of a request that has ended or is parked meanwhile. -/
theorem wit_count_commits :
    let one := List.replicate 8 (0 : Byte) ++ [1]
    let c0 := fun (k : ReqState) (n : Nat) => { withReq k with
      psram := [(3, 5)], plan := { (default : PlanSt) with cur := some { plan0 with pool := n } } }
    let on := fun (n : Nat) (c : Chip) (b : Mailbox) (r : Routine) => decide (r.failed = none ∧ c.plan.cur = some { plan0 with pool := n }
      ∧ c.needLive b = none ∧ (c.rq b.target).state ≠ .parked)
    meetsAt 0x0107 (held (c0 .active 0) 0x0107 1 one) (fun c b r => on 0 c b r && (c.countMore { plan0 with pool := 0 } b r).1.isNone)
    ∧ meetsAt 0x0107 (held (c0 .active 1) 0x0107 1 one) (fun c b r => on 1 c b r
      && (c.countMore { plan0 with pool := 1 } b r).1.map (fun l => l.length) == some 1)
    ∧ (∀ k ∈ [ReqState.free, .parked], meetsAt 0x0107 (held (c0 k 1) 0x0107 1 one) (fun c b r => decide (r.failed = none) && c.plan.cur.isSome
      && ((c.needLive b).isSome || decide ((c.rq b.target).state = .parked)))) := by decide +kernel

/-- SET_TENANT: state 1 with the largest overdraft; clearing an idle tenant; one in use. SET_BUDGET, both ways. -/
theorem wit_tenants :
    (let ok := fun (b : Mailbox) => decide (0 < b.target ∧ b.target < 4096 ∧ fld (b.pay 24 4) 29 0 = 0 ∧ b.pay 28 4 = 0
        ∧ fld (b.pay 24 4) 31 30 ≠ 3 ∧ b.pay 12 4 ≤ 2 ^ 30);
      meets 0x0200 (inbox up 0x0200 4095 (List.replicate 15 0 ++ [64] ++ List.replicate 11 0 ++ [0x40])) (fun _ b =>
        ok b && decide (fld (b.pay 24 4) 31 30 = 1))
      ∧ meets 0x0200 (inbox (withReq .active) 0x0200 1) (fun c b =>
        ok b && decide (fld (b.pay 24 4) 31 30 = 0) && c.req.all fun x => decide (x.2.live = true → x.2.tenant.toNat ≠ b.target))
      ∧ meets 0x0200 (inbox (withReq .active { (default : ReqEntry) with tenant := 1 }) 0x0200 1) (fun c b =>
        ok b && decide (fld (b.pay 24 4) 31 30 = 0) && c.req.any fun x => decide (x.2.live = true ∧ x.2.tenant.toNat = b.target)))
    ∧ (∀ add ∈ [0, 1], meets 0x0201 (inbox up 0x0201 4095 [0, 0, 0, 0, BitVec.ofNat 8 add]) (fun _ b =>
      decide (0 < b.target ∧ b.target < 4096 ∧ b.pay 4 1 = add ∧ b.pay 5 3 = 0))) := by decide +kernel

/-- Loads: the smallest sources, a delta list that the checks refuse, and the commits. -/
theorem wit_loads :
    let pl := { up with plan := runUnit.plan }
    let one := List.replicate 8 (0 : Byte) ++ [1]
    meets 0x0300 (inbox up 0x0300 255 one) (fun c b => decide (b.target < 256 ∧ b.pay 14 2 < 4096 ∧ 0 < b.pay 8 4 ∧ b.pay 8 4 ≤ 131072
      ∧ b.target + adpSlots (b.pay 8 4) ≤ 256 ∧ badBias (rdBytes c.psram (b.pay 0 8) (8192 + b.pay 8 4)) (b.pay 12 2) = false
      ∧ c.stageUsed + (8192 + b.pay 8 4) ≤ 4194304))
    ∧ meets 0x0301 (inbox pl 0x0301 15 one) (fun c b => decide (b.target < 16 ∧ b.pay 12 2 < 4096 ∧ b.pay 14 2 = 0 ∧ 0 < b.pay 8 4
      ∧ b.pay 8 4 ≤ 65536 ∧ c.plan.cur = some plan0
      ∧ plan0.badDelta (srcTrips (rdBytes c.psram (b.pay 0 8) (12 * b.pay 8 4)) (b.pay 8 4)) = false
      ∧ c.stageUsed + 12 * b.pay 8 4 ≤ 4194304))
    ∧ meets 0x0301 (inbox { pl with psram := [(11, 0x7F), (10, 0x80)] } 0x0301 15 one) (fun c b => decide (b.target < 16 ∧ b.pay 12 2 < 4096
      ∧ b.pay 14 2 = 0 ∧ 0 < b.pay 8 4 ∧ b.pay 8 4 ≤ 65536 ∧ c.plan.cur = some plan0
      ∧ plan0.badDelta (srcTrips (rdBytes c.psram (b.pay 0 8) (12 * b.pay 8 4)) (b.pay 8 4)) = true))
    ∧ meets 0x0302 (inbox up 0x0302 255 one) (fun c b => decide (b.target < 256 ∧ b.pay 12 2 < 4096 ∧ b.pay 14 2 = 0 ∧ 0 < b.pay 8 4
      ∧ b.pay 8 4 ≤ 262144 ∧ c.trieUsed + b.pay 8 4 ≤ 262144))
    ∧ (∀ code ∈ [0x0300, 0x0301, 0x0302], meetsAt code (held up code 0) fun _ _ _ => true) := by decide +kernel

/-- Deny lists and mask bindings: an empty list, one of the plan's length, both outcomes of the commit; a slot off, a slot of a
resident mask, and a mask that the message brings. -/
theorem wit_masks :
    let pl := { withReq .active with plan := runUnit.plan, statics := [(0, { (default : StaticMask) with resident := true })] }
    meets 0x0303 (inbox up 0x0303 4095) (fun _ b => decide (b.target < 4096 ∧ b.pay 12 4 = 0 ∧ b.pay 8 4 = 0))
    ∧ meets 0x0303 (inbox pl 0x0303 1 (List.replicate 8 0 ++ [0, 2])) (fun c b => decide (b.target < 4096 ∧ b.pay 12 4 = 0 ∧ b.pay 8 4 ≠ 0
      ∧ c.plan.cur = some plan0 ∧ b.pay 8 4 = plan0.maskLen))
    ∧ meetsAt 0x0303 (held up 0x0303 1) (fun _ _ r => decide (r.failed = none))
    ∧ meetsAt 0x0303 (held up 0x0303 1 [] { (default : Routine) with failed := some 0x0028 }) (fun _ _ r => decide (r.failed = some 0x0028))
    ∧ (∀ mode ∈ [0, 3], meets 0x0304 (inbox pl 0x0304 1 [1, BitVec.ofNat 8 mode]) (fun c b => decide (c.needLive b = none ∧ b.pay 0 1 < 2
      ∧ b.pay 1 1 = mode ∧ b.pay 2 2 < 4096 ∧ b.pay 4 2 < 4096 ∧ b.pay 6 2 = 0 ∧ (c.rq b.target).slotMode false ≠ 3#2)))
    ∧ meets 0x0304 (inbox pl 0x0304 1 [0, 1]) (fun c b => decide (c.needLive b = none ∧ b.pay 0 1 < 2 ∧ (b.pay 1 1 = 1 ∨ b.pay 1 1 = 2)
      ∧ b.pay 2 2 < 4096 ∧ b.pay 4 2 < 4096 ∧ b.pay 6 2 = 0 ∧ b.pay 8 8 = 0
      ∧ c.staticRefusal 0 (c.rq b.target).tenant (b.pay 2 2) (BitVec.ofNat 12 (b.pay 4 2)) 0 = none))
    ∧ meetsAt 0x0304 (held pl 0x0304 1 [0, 1]) (fun c b r => decide (r.failed = none ∧ c.needLive b = none ∧ r.key = 0
      ∧ (tget c.statics (b.pay 2 2)).resident = true ∧ tagOk (tget c.statics (b.pay 2 2)).tag (c.rq b.target).tenant = true))
    ∧ meetsAt 0x0304 (held pl 0x0304 1 [0, 1] { (default : Routine) with key := 1 }) (fun c b r => decide (r.failed = none
      ∧ c.needLive b = none ∧ r.key = 1 ∧ (tget c.statics (b.pay 2 2)).tag = BitVec.ofNat 12 (b.pay 4 2))) := by decide +kernel

/-- SET_PLAN of an image without a magic number; a switch that may be made, and one that R143 forbids. -/
theorem wit_plans :
    (let c := { up with stp := { up.stp with t0 := 2000 }, tick := { (default : TickSt) with cnt := 7 }, plan := { (default : PlanSt) with
        cur := some plan0, staged := some { (default : StagedPlan) with plan := plan0 } } };
      let b := (held c 0x0400 0).unit.mb 0;
      let u := { c with mbx := [(0, b)] };
      u.stp.active = true ∧ u.since = 0 ∧ u.stopped = false ∧ (u.mb 0).routine.isSome = true ∧ u.bad143 plan0 = false
        ∧ ({ u with page := [(7, { (default : Page) with use := .count })] }).bad143 plan0 = true) := by decide +kernel

/-- SET_PART, SET_TICK and SET_LIMITS at the bounds of their values, and each refusal. -/
theorem wit_settings :
    let pl := { up with plan := { (default : PlanSt) with cur := some { plan0 with layouts := 0 :: List.replicate 15 0xFF } } }
    let lim := { up with ureg := [(0x140, 0xFB002200#32), (0x144, 0x1000#32), (0x148, 0x3C23D70A#32), (0x14C, 0x42C80000#32),
      (0x150, 0x3DCCCCCD#32), (0x154, 0x41200000#32), (0x158, 0x40800000#32)] }
    let legal := fun (b : Mailbox) => decide (b.target = 0 ∧ Nat.land (b.pay 0 4) 0x1F = 0 ∧ Nat.land (b.pay 4 4) 0xFFFFE000 = 0)
    let words := fun (l : List Nat) => l.flatMap (toLE 4)
    meets 0x0401 (inbox up 0x0401 0 [14]) (fun c b => decide (b.target = 0 ∧ b.pay 0 4 < 32 ∧ c.partRefused (b.pay 0 4) = false))
    ∧ meets 0x0401 (inbox pl 0x0401 0 [2]) (fun c b => decide (b.target = 0 ∧ b.pay 0 4 < 32 ∧ c.partRefused (b.pay 0 4) = true))
    ∧ (∀ w ∈ [0x080064, 0x404E20], meets 0x0402 (inbox up 0x0402 0 (toLE 4 w)) (fun _ b => decide (b.target = 0
      ∧ Nat.land (b.pay 0 4) 0xFF008000 = 0 ∧ 8 ≤ fld (b.pay 0 4) 23 16 ∧ fld (b.pay 0 4) 23 16 ≤ 64 ∧ 100 ≤ fld (b.pay 0 4) 14 0
      ∧ fld (b.pay 0 4) 14 0 ≤ 20000)))
    ∧ (∀ w ∈ [0x070064, 0x414E20, 0x080063, 0x404E21], meets 0x0402 (inbox up 0x0402 0 (toLE 4 w)) (fun _ b => decide (b.target = 0
      ∧ Nat.land (b.pay 0 4) 0xFF008000 = 0 ∧ (fld (b.pay 0 4) 23 16 < 8 ∨ 64 < fld (b.pay 0 4) 23 16 ∨ fld (b.pay 0 4) 14 0 < 100
        ∨ 20000 < fld (b.pay 0 4) 14 0))))
    ∧ meets 0x0403 (inbox lim 0x0403 0 (words [0xFB002200, 0x1000, 0x3C23D70A, 0x42C80000, 0x3DCCCCCD, 0x41200000, 0x40800000])) (fun c b =>
      legal b && (c.limVerdicts (limitWords b)).all fun v => decide (v = .take))
    ∧ meets 0x0403 (inbox lim 0x0403 0 (words [0xFB002200, 0x1000, 0x7FC00000, 0x42C80000, 0x3DCCCCCD, 0x41200000, 0x40800000])) (fun c b =>
      legal b && decide (.bad ∈ c.limVerdicts (limitWords b)))
    ∧ meets 0x0403 (inbox lim 0x0403 0 (words [0xFB002200, 0x1000, 0x3C23D70A, 0x42C80001, 0x3DCCCCCD, 0x41200000, 0x40800000])) (fun c b =>
      legal b && decide (.loose ∈ c.limVerdicts (limitWords b) ∧ .bad ∉ c.limVerdicts (limitWords b)))
    ∧ meets 0x0403 (inbox { lim with plan := { (default : PlanSt) with cur := some { plan0 with nphase := [16] } } } 0x0403 0
        (words [0xFB0021E0, 0x1000, 0x3C23D70A, 0x42C80000, 0x3DCCCCCD, 0x41200000, 0x40800000])) (fun c b =>
      legal b && decide (.conflict ∈ c.limVerdicts (limitWords b) ∧ .bad ∉ c.limVerdicts (limitWords b)
        ∧ .loose ∉ c.limVerdicts (limitWords b))) := by decide +kernel

/-- SET_PLAN of memory that holds no image. -/
theorem wit_bad_plan : meets 0x0400 (inbox up 0x0400 0) (fun c b => decide (b.target = 0 ∧ c.planRefusal (b.pay 0 8) = some 280)) := by
  decide +kernel

/-- RETIRE_LANE: spares free, only the spare atoll free, none free; the atoll form. -/
theorem wit_retire :
    let bad := (List.range 4).map fun k => (0x80 + 4 * k, 0xFFFFFFFF#32)
    let none0 := { up with areg := bad }
    let none1 := { none0 with ureg := (0x164, 0x80000000#32) :: up.ureg }
    let lane := fun (c : Chip) (b : Mailbox) => Part.lane (c.physOf (b.target / 256)) (b.target % 256)
    meets 0x0601 (inbox up 0x0601 4095) (fun c b => decide (b.target < 4096 ∧ c.spareLeft (c.physOf (b.target / 256)) = true)
      && c.rpr.staged.all fun x => decide (x.1 ≠ lane c b ∧ x.1 ≠ .atoll (c.physOf (b.target / 256))))
    ∧ meets 0x0601 (inbox none0 0x0601 255) (fun c b => decide (b.target < 4096 ∧ c.spareLeft (c.physOf (b.target / 256)) = false
      ∧ c.spareAtollFree = true) && c.rpr.staged.all fun x => decide (x.1 ≠ lane c b))
    ∧ meets 0x0601 (inbox none1 0x0601 255) (fun c b => decide (b.target < 4096 ∧ c.spareLeft (c.physOf (b.target / 256)) = false
      ∧ c.spareAtollFree = false) && c.rpr.staged.all fun x => decide (x.1 ≠ lane c b ∧ x.1 ≠ .atoll (c.physOf (b.target / 256))))
    ∧ meets 0x0601 (inbox up 0x0601 65551) (fun c b => decide (65536 ≤ b.target ∧ b.target < 65552 ∧ c.spareAtollFree = true))
    ∧ meets 0x0601 (inbox none1 0x0601 65551) (fun c b => decide (65536 ≤ b.target ∧ b.target < 65552 ∧ c.spareAtollFree = false)
      && c.rpr.staged.all fun x => decide (x.1 ≠ .atoll (c.physOf (b.target - 65536)))) := by decide +kernel

/-- MIRROR_BIND of both roles, unbind, a request that is not OPEN; LOCKSTEP bind, unbind, history, and their refusals. -/
theorem wit_bindings :
    let good := fun (b : Mailbox) => decide (b.target < 4096 ∧ b.pay 2 2 < 8192 ∧ b.pay 4 2 < 4096 ∧ b.pay 6 2 = 0)
    let ok := fun (b : Mailbox) => decide (b.target = 0 ∧ b.pay 1 1 < 4 ∧ b.pay 3 1 = 0 ∧ b.pay 4 2 < 8192 ∧ b.pay 6 2 = 0 ∧ b.pay 12 1 < 16
      ∧ b.pay 13 3 = 0)
    let bound := { up with lock := { (default : LockSt) with bound := true, pairStep := 1024 } }
    (∀ op ∈ [0, 1], meets 0x0602 (inbox (withReq .opened) 0x0602 1 [BitVec.ofNat 8 op]) (fun c b => good b && decide (b.pay 0 1 = op
      ∧ (c.rq b.target).state = .opened ∧ (c.rq b.target).merge = false)))
    ∧ meets 0x0602 (inbox up 0x0602 4095 [2]) (fun _ b => good b && decide (b.pay 0 1 = 2))
    ∧ meets 0x0602 (inbox up 0x0602 4095 [1]) (fun c b => good b && decide (b.pay 0 1 < 2 ∧ (c.rq b.target).state ≠ .opened))
    ∧ meets 0x0603 (inbox up 0x0603 0 [0, 3]) (fun c b => ok b && decide (b.pay 0 1 = 0 ∧ c.lock.bound = false ∧ c.lock.next = none))
    ∧ meets 0x0603 (inbox bound 0x0603 0) (fun c b => ok b && decide (b.pay 0 1 = 0 ∧ c.lock.bound = true))
    ∧ meets 0x0603 (inbox up 0x0603 0 [1]) (fun _ b => ok b && decide (b.pay 0 1 = 1))
    ∧ meets 0x0603 (inbox bound 0x0603 0 [2]) (fun c b => ok b && decide (b.pay 0 1 = 2 ∧ c.lock.bound = true
      ∧ (c.lock.pairStep - BitVec.ofNat 32 (b.pay 8 4)).toNat ≤ 1024))
    ∧ meets 0x0603 (inbox bound 0x0603 0 [2, 0, 0, 0, 0, 0, 0, 0, 255, 255, 255, 255]) (fun c b => ok b && decide (b.pay 0 1 = 2
      ∧ (c.lock.bound = false ∨ 1024 < (c.lock.pairStep - BitVec.ofNat 32 (b.pay 8 4)).toNat))) := by decide +kernel

/-- A unit whose slot B holds a valid image. -/
def fwUnit : Chip := { up with fw := { (default : FwSt) with slotB := { (default : FwSlot) with valid := true } } }

/-- LOAD_FW and ACTIVATE_FW of the inactive slot and of the running one; an invalid slot; activation in recovery; the commits; an image
that is too short to verify; a revert that is due. -/
theorem wit_firmware :
    meets 0x0500 (inbox fwUnit 0x0500 1) (fun c b => decide (b.target < 2 ∧ c.slotRuns b.target = false))
    ∧ meets 0x0500 (inbox fwUnit 0x0500 0) (fun c b => decide (b.target < 2 ∧ c.slotRuns b.target = true))
    ∧ policyOk [] = false
    ∧ meetsAt 0x0500 (held fwUnit 0x0500 1 [] { (default : Routine) with ready := true }) (fun _ _ r => r.ready)
    ∧ meetsAt 0x0500 (held fwUnit 0x0500 1) (fun _ _ r => !r.ready)
    ∧ meets 0x0501 (inbox fwUnit 0x0501 1) (fun c b => decide (b.target < 2 ∧ c.slotRuns b.target = false
      ∧ (c.fw.slot (b.target == 1)).valid = true ∧ c.recovering = false))
    ∧ meets 0x0501 (inbox up 0x0501 1) (fun c b => decide (b.target < 2 ∧ c.slotRuns b.target = false
      ∧ (c.fw.slot (b.target == 1)).valid = false))
    ∧ meets 0x0501 (inbox { fwUnit with ureg := [(0x110, 0x200#32)] } 0x0501 1) (fun c b => decide (b.target < 2 ∧ c.slotRuns b.target = false
      ∧ (c.fw.slot (b.target == 1)).valid = true ∧ c.recovering = true))
    ∧ meetsAt 0x0501 (held fwUnit 0x0501 1) (fun _ _ r => !r.ready)
    ∧ meetsAt 0x0501 (held fwUnit 0x0501 1 [] { (default : Routine) with ready := true }) (fun _ _ r => r.ready) := by decide +kernel

/-- Counter commands: a defined event, an undefined one, a chain on an even and on an odd counter; histogram commands. -/
theorem wit_counters :
    let sel := fun (b : Mailbox) => decide (b.target < 208 ∧ b.pay 0 4 < 4096)
    meets 0x0700 (inbox up 0x0700 206 [0x00, 0x0C]) (fun _ b => sel b && eventDefined b.target (b.pay 0 4 % 1024) && (b.pay 0 4).testBit 10
      && decide (b.target % 2 = 0))
    ∧ meets 0x0700 (inbox up 0x0700 0 [0x08]) (fun _ b => sel b && !eventDefined b.target (b.pay 0 4 % 1024))
    ∧ meets 0x0700 (inbox up 0x0700 207 [0x00, 0x04]) (fun _ b => sel b && eventDefined b.target (b.pay 0 4 % 1024)
      && (b.pay 0 4).testBit 10 && decide (b.target % 2 = 1))
    ∧ meets 0x0701 (inbox up 0x0701 0) (fun _ b => decide (b.target = 0)) ∧ meets 0x0702 (inbox up 0x0702 0) (fun _ b => decide (b.target = 0))
    ∧ meets 0x0703 (inbox up 0x0703 7 [5]) (fun _ b => decide (b.target < 8 ∧ b.pay 0 4 < 6))
    ∧ meets 0x0704 (inbox up 0x0704 7) (fun _ b => decide (b.target < 8 ∨ b.target = 255))
    ∧ meets 0x0704 (inbox up 0x0704 255) (fun _ b => decide (b.target < 8 ∨ b.target = 255))
    ∧ (let x := { (default : PmcSt) with ctr := [(207, { (default : PmcCtr) with event := 1, val := 0xFFFFFFFFFFFF })] };
      (tget x.ctr 207).event ≠ 0#10 ∧ (tget x.ctr 207).event ≠ 0x051#10 ∧ ({ up with pmc := x }).pmcUpper 207 = false
        ∧ (tget x.ctr 207).chain = false ∧ 2 ^ 48 ≤ (tget x.ctr 207).val.toNat + 1) := by decide +kernel

/-- A freeze of the cycle of T+0 is copied after the tick collection: it is read from T+3,008 (R428, R429, R452). -/
theorem test_freeze_capture :
    let c := { up with tick := { up.tick with capDue := true }, pmc := { up.pmc with frzDue := true } }
    c.tick.holdDue = false ∧ c.tick.missDue = none ∧ c.endCycle.pmc.frzAt + 481 = c.clk.ucyc + 3008
    ∧ c.endCycle.pmc.frzPending = true ∧ c.endCycle.pmc.tickPending = true ∧ c.endCycle.pmc.frzDue = false := by decide +kernel

/-- The event log: a region that takes the event, one that fails with the other sound, one that fails with the other failed too, and none
left, with and without a last event kept; an entry that is overwritten unread; no counter of lost entries' event. -/
theorem wit_event_log :
    let r : LogReq := { (default : LogReq) with ev := .addrReserved }
    let lost := { up with log := { (default : LogSt) with failNext := true } }
    let both := { up with log := { (default : LogSt) with failNext := true, bfail := true } }
    let none_ := { up with log := { (default : LogSt) with afail := true, bfail := true } }
    let full := { up with log := { (default : LogSt) with seq := 4096, a := [(0, { (default : LogEnt) with seq := 1 })] } }
    ¬ (up.log.afail = true ∧ up.log.bfail = true) ∧ up.log.failNext = false ∧ r.ev.faults = false ∧ Ev.lateArrival.late = true
    ∧ (if lost.log.spare then lost.log.afail else lost.log.bfail) = false ∧ lost.log.failNext = true
    ∧ (if both.log.spare then both.log.afail else both.log.bfail) = true ∧ (if both.log.spare then both.log.bfail else both.log.afail) = false
    ∧ none_.log.afail = true ∧ none_.log.bfail = true ∧ none_.log.lcValid = false
    ∧ 4096 ≤ full.log.seq.toNat ∧ (∃ p ∈ full.log.a, p.1 = full.log.seq.toNat % 4096)
    ∧ after32 (tget full.log.a 0).seq (full.reg 0x18C) = true ∧ ∀ p ∈ up.pmc.ctr, p.2.event ≠ 0x051#10 := by decide +kernel

/-- Row slots that a peek has found bad: before planning, and in a step that runs on with the row in the slot. -/
theorem wit_peek_drops :
    let c := { rowsUnit [row0 .plain .pending []] with dbg := { (default : DbgSt) with accBad := [(0, 0, 0)] } }
    c.dbg.accBad ≠ [] ∧ c.stp.active = true ∧ c.stp.planned = true ∧ c.stp.committed = false
    ∧ (row0 .plain .pending []).wave = (tget c.atoll 0).set0.wave ∧ (row0 .plain .pending []).slot = 0
    ∧ ({ c with stp := { c.stp with planned := false } } : Chip).stp.planned = false := by decide +kernel

/-- A tile issued while a DEBUG_STEP asks for one more, and for more than that. -/
theorem wit_step_tiles :
    ∀ n ∈ [1, 2], let c := { runUnit with dbg := { (default : DbgSt) with frozen := true, stepping := true, stepGoal := n } }
      c.dbg.stepping = true ∧ c.dbg.reached = false ∧ c.dbg.stepAtoll = 0 ∧ (1 < c.dbg.stepGoal ∨ c.dbg.stepGoal ≤ 1)
      ∧ c.stepDone 0 = false := by decide +kernel

/-- Debug commands: locked and unlocked, both halves, a wrong second half, three failures, frozen and not. -/
theorem wit_debug :
    let key := fun (d : DbgSt) => { up with dbg := d }
    let un : DbgSt := { (default : DbgSt) with unlocked := true }
    let fz : DbgSt := { un with frozen := true }
    meets 0x0F00 (inbox up 0x0F00 0 [0xFF, 0xFF]) (fun c b => decide (b.target = 0 ∧ b.pay 0 4 < 65536 ∧ c.dbg.fails ≠ 3#2))
    ∧ meets 0x0F00 (inbox up 0x0F00 0 [0xFF, 0xFF, 1]) (fun c b => decide (b.target = 0 ∧ 65536 ≤ b.pay 0 4 ∧ b.pay 0 4 < 131072
      ∧ c.dbg.fails ≠ 3#2 ∧ c.dbg.half = none))
    ∧ meets 0x0F00 (inbox (key { (default : DbgSt) with fails := 3 }) 0x0F00 0) (fun c b => decide (b.target = 0 ∧ b.pay 0 4 < 131072
      ∧ c.dbg.fails = 3#2))
    ∧ meets 0x0F01 (inbox (key un) 0x0F01 0) (fun c b => decide (b.target = 0 ∧ c.dbg.unlocked = true ∧ c.dbg.frozen = false
      ∧ c.dbg.freezePending = false))
    ∧ meets 0x0F01 (inbox (key fz) 0x0F01 0) (fun c b => decide (b.target = 0 ∧ c.dbg.unlocked = true
      ∧ (c.dbg.frozen = true ∨ c.dbg.freezePending = true)))
    ∧ (∀ code ∈ [0x0F01, 0x0F02, 0x0F03], meets code (inbox up code 0) (fun c b => decide (b.target = 0 ∧ c.dbg.unlocked = false)))
    ∧ meets 0x0F03 (inbox (key fz) 0x0F03 0 [1]) (fun c b => decide (b.target = 0 ∧ c.dbg.unlocked = true ∧ b.pay 0 4 < 2
      ∧ c.dbg.stepMbx = none))
    ∧ meets 0x0F02 (inbox (key fz) 0x0F02 0 [15, 0, 0, 16]) (fun c b => decide (b.target = 0 ∧ c.dbg.unlocked = true ∧ c.dbg.frozen = true
      ∧ fld (b.pay 0 4) 15 4 = 0 ∧ fld (b.pay 0 4) 31 29 = 0 ∧ 0 < fld (b.pay 0 4) 28 16 ∧ fld (b.pay 0 4) 28 16 ≤ 4096
      ∧ c.dbg.stepMbx = none))
    ∧ (∀ e, let d : DbgSt := { fz with stepping := true, reached := true }; (key d).haltDue = true ∧ ({ key d with stp := { up.stp with active := !e } }).haltDue = true
      ∧ e ≠ ({ key d with stp := { up.stp with active := !e } }).stp.active ∧ (key fz).haltDue = false) := by
  decide +kernel

/-- The second half of the right key within four ticks, whatever the fused key is. -/
theorem wit_debug_key :
    let lo : Half := Config.debugKey.setWidth 16
    let hi : Half := (Config.debugKey >>> 16).setWidth 16
    Config.debugKey = hi ++ BitVec.ofNat 16 (65536 + lo.toNat) ∧ 65536 ≤ 65536 + lo.toNat ∧ 65536 + lo.toNat < 131072
    ∧ (4 : Nat) ≤ 4 := by
  refine ⟨?_, by omega, ?_, by omega⟩
  · apply BitVec.eq_of_toNat_eq
    have h := Config.debugKey.isLt
    simp only [BitVec.toNat_append, BitVec.toNat_setWidth, BitVec.toNat_ushiftRight, BitVec.toNat_ofNat, Nat.shiftRight_eq_div_pow,
      Nat.shiftLeft_eq]
    rw [← Nat.shiftLeft_eq, ← Nat.shiftLeft_add_eq_or_of_lt (by omega), Nat.shiftLeft_eq]
    omega
  · have := (Config.debugKey.setWidth 16 : Half).isLt
    omega

/-! #### Firmware images, whose signatures no one can compute here -/

/-- A firmware image of one word: its digest is the digest of its body. -/
def image (magic : Nat) : List Byte :=
  toLE 4 magic ++ toLE 2 1 ++ [3, 0, 0, 63] ++ toLE 2 0 ++ toLE 4 4 ++ List.replicate 48 0 ++ sha384 [0, 0, 0, 0] ++ List.replicate 148 0

/-- A meter whose slot 0 holds an image. -/
def imgMeter : Meter :=
  { (default : Meter) with powered := true, slot0 := { (default : MtrSlot) with bytes := wrBytes [] 0 (image meterMagic) } }

/-- The images of the firmware statements verify wherever their signature does: the holder of the key can sign them. -/
theorem wit_images (h : ∀ k a b c, Config.policySigOk k a b c = true) (h' : ∀ a b c, Config.meterSigOk a b c = true) :
    policyOk (image policyMagic) = true ∧ imgSvn ((image policyMagic).take 256) = 63 ∧ imgMeter.checkSlot false = 0#8 := by
  refine ⟨?_, by decide +kernel, ?_⟩
  · have e : (imgFields policyMagic policyMax ((image policyMagic).take 256)
        && decide ((((image policyMagic).drop 256).take (imgSize ((image policyMagic).take 256))).length
          = imgSize ((image policyMagic).take 256))
        && decide (sha384 (((image policyMagic).drop 256).take (imgSize ((image policyMagic).take 256)))
          = (((image policyMagic).take 256).drop 64).take 48)) = true := by decide +kernel
    unfold policyOk imgOk
    rw [e, h]
    rfl
  · have e : (imgFields meterMagic 32768 (imgMeter.slotOf false).hdr
        && decide ((imgMeter.slotOf false).body.length = imgSize (imgMeter.slotOf false).hdr)
        && decide (sha384 (imgMeter.slotOf false).body = ((imgMeter.slotOf false).hdr.drop 64).take 48)) = true := by decide +kernel
    have e' : ¬ imgSvn (imgMeter.slotOf false).hdr < imgMeter.rollback.toNat := by decide +kernel
    have v : imgOk meterMagic 32768 Config.meterSigOk (imgMeter.slotOf false).hdr (imgMeter.slotOf false).body = true := by
      unfold imgOk
      rw [e, h']
      rfl
    simp only [Meter.checkSlot, v, e', Bool.not_true, Bool.false_eq_true, if_false]
    rfl

/-! #### Ticks and steps -/

/-- A unit whose tick pin last changed 60,000 cycles ago. -/
def tickUnit : Chip := { (default : Chip) with clk := { (default : Clocks) with now := 60000, ucyc := 60000 }, ureg := [(0x008, 1#32), (0x00C, 1#32)] }

/-- Pulses: too short, too long, legal at both ends. -/
theorem wit_pulses :
    tickUnit.clk.held = false ∧ tickUnit.validPulse 16 = false ∧ tickUnit.validPulse 17 = true ∧ tickUnit.validPulse 67 = true
    ∧ tickUnit.validPulse 68 = false ∧ ((default : Chip).validPulse 17 = false) ∧ Chip.reset.clk.held = true
    ∧ keysRise tickUnit.regNext = true := by decide +kernel

/-- A tick that starts a step, one that is missed, one without RUN, one while frozen. -/
theorem wit_ticks :
    (tickUnit.dbg.frozen = false ∧ tickUnit.stp.active = false ∧ tickUnit.ready = true ∧ tickUnit.run = true ∧ tickUnit.stopped = false)
    ∧ (let c := { tickUnit with stp := { (default : StepSt) with active := true } };
      c.validPulse 17 = true ∧ c.dbg.frozen = false ∧ c.stp.active = true ∧ c.run = true)
    ∧ ({ tickUnit with ureg := [] }).run = false
    ∧ ({ tickUnit with dbg := { (default : DbgSt) with frozen := true } }).dbg.frozen = true := by decide +kernel

/-- A holdover tick at its instant. -/
theorem wit_holdover :
    let c := { tickUnit with tick := { (default : TickSt) with holdBase := 60000 } }
    c.clk.held = false ∧ c.run = true ∧ c.clk.now = c.holdInstant ∧ tickUnit.clk.now ≠ ({ c with tick := default } : Chip).holdInstant := by
  decide +kernel

/-- The planner, a request that expires, and the step's other commands, before and after planning. -/
theorem wit_steps :
    (up.runs = true ∧ up.stp.planned = false) ∧ runUnit.stp.planned = true
    ∧ (let c := withReq .parked; c.runs = true ∧ c.stp.planned = false ∧ (c.duties.rq 1).state = .parked ∧ (c.duties.rq 1).ttl = 0#32
      ∧ (c.duties.rq 2).state ≠ .parked)
    ∧ (runUnit.runs = true ∧ runUnit.stp.committed = false ∧ runUnit.stp.abandoned = false)
    ∧ (let c := { runUnit with clk := { runUnit.clk with ucyc := 2048 } };
      c.plan.cur = some plan0 ∧ c.since = 2048 ∧ c.p0 ≤ c.since)
    ∧ (let c := { runUnit with
        stp := { runUnit.stp with committed := true }, aux := [(1, { (default : ReqAux) with faultRun := 8 })]
        req := [(1, { (default : ReqEntry) with state := .held, hold := .deferred })] };
      c.stp.active = true ∧ c.stp.committed = true ∧ 8 ≤ (c.ax 1).faultRun ∧ (c.rq 1).state = .held ∧ (c.rq 1).hold = .deferred
        ∧ c.stp.mirrorWait = [] ∧ c.lock.waiting = false ∧ c.runs = true)
    ∧ (let c := { runUnit with stp := { runUnit.stp with mirrorWait := [1] } };
      c.clk.held = false ∧ c.stp.active = true ∧ 1 ∈ c.stp.mirrorWait ∧ c.stp.mirrorDue = []) := by decide +kernel

/-- Fences: an input that has come and a phase that is planned, and a row whose inputs lack; before the fence is over, once it has been,
and two phases whose fences are both over; a mask that has not come. -/
theorem wit_fences :
    let p := { plan0 with nphase := [2], fences := [(0, 0), (100, 50)] }
    let c := { rowsUnit [row0 .plain .pending []] with
      clk := { up.clk with ucyc := 2149 }, plan := { (default : PlanSt) with cur := some p }
      req := [(1, { (default : ReqEntry) with slot0 := 3 })] }
    c.plan.cur = some p ∧ c.runs = true ∧ c.stp.planned = true ∧ c.stp.committed = false ∧ c.stp.fenced = 0 ∧ c.stp.masked = []
    ∧ ¬ c.since ≤ c.p0 + (p.fence c.stp.template 0).1 ∧ ¬ c.since ≤ c.p0 + (p.fence c.stp.template 0).2
    ∧ ¬ p.nphase.getD c.stp.template 0 ≤ 0 ∧ c.rowPhase (row0 .plain .pending []) = 0
    ∧ c.inputsBy p (row0 .plain .pending []) (c.stp.t0 + c.p0) = none
    ∧ (({ c with inputs := [{ (default : RowInput) with req := 1, kind := 1 }] }).inputsBy p (row0 .plain .pending []) (c.stp.t0 + c.p0)).isSome
      = true
    ∧ ¬ c.since ≤ c.p0 + (p.fence c.stp.template 1).1 ∧ ¬ p.nphase.getD c.stp.template 0 ≤ 1 ∧ c.p0 + (p.fence c.stp.template 0).1 < c.since
    ∧ ({ c with clk := { up.clk with ucyc := 2048 } } : Chip).since ≤ c.p0 + (p.fence c.stp.template 0).1
    ∧ (c.rq 1).streams = true ∧ c.grammarFor 1 0 = none ∧ c.stopped = false := by decide +kernel

/-- What a commit point decides: cancel, expiry, a dropped row; a ring of a unit that writes records and of one that follows. -/
theorem wit_commit :
    (let c := { withReq .active { (default : ReqEntry) with cancel := true } with stp := { up.stp with rows := [] } }; (c.rq 1).cancel = true)
    ∧ (({ withReq .parked with aux := [(1, { (default : ReqAux) with expiryDue := true })] }).ax 1).expiryDue = true
    ∧ (∃ r ∈ (rowsUnit [{ row0 .plain .pending [] with drop := some .deferred }]).rowsFor 1, r.drop ≠ none)
    ∧ up.follows = false ∧ ({ up with lock := { (default : LockSt) with bound := true, follower := true } }).follows = true := by
  refine ⟨by decide +kernel, by decide +kernel, ⟨{ row0 .plain .pending [] with drop := some .deferred }, ?_, ?_⟩, by decide +kernel, by decide +kernel⟩
  · decide +kernel
  · decide +kernel

/-- The background slot, a ripe repair with a spare to take it, a word to restore. -/
theorem wit_background :
    (let c := { runUnit with clk := { up.clk with ucyc := 2048 } }; c.runs = true ∧ c.stp.planned = true ∧ 2048 ≤ c.since)
    ∧ (let c := { up with
        stp := { up.stp with t0 := 2000 }, tick := { (default : TickSt) with cnt := 7 }
        rpr := { (default : RprSt) with staged := [(.lane 16 255, 0, 6)], restore := [(15, 8191)] } };
      c.stp.active = true ∧ c.since = 0 ∧ c.stp.switched = false ∧ c.stopped = false
        ∧ (c.rpr.staged.filter fun x => decide (x.2.1 = 0 ∧ x.2.2 ≠ c.tick.cnt)) = [(.lane 16 255, 0, 6)] ∧ (c.freeSpares 16).head?.isSome = true
        ∧ c.rpr.restore ≠ [] ∧ c.imgSound c.plan.addr = false) := by decide +kernel

/-! #### Ports, merge groups, mirrors -/

/-- A READY unit with port 0 up and a plan whose pool has pages. -/
def portUnit : Chip := { withReq .active { (default : ReqEntry) with slot0 := 3, position := 9 } with
  ureg := [(0x008, 1#32), (0x00C, 1#32), (0x400, 0x40#32)], plan := { (default : PlanSt) with cur := some { plan0 with pool := 1 } } }

/-- A ROW message: request 1, hidden row of format 0 at position 9, and the same for request 0. -/
def rowMessage (req : Nat) : List Byte := toLE 4 (4096 + req) ++ toLE 4 9 ++ List.replicate 184 0

/-- A ROW that is kept, one that is stray, one that is a duplicate, one of bad length; a port that is down; a unit that refuses. -/
theorem wit_rows :
    portUnit.portLive 0 = true ∧ portUnit.portLive 1 = false ∧ portUnit.refusing = false
    ∧ ({ portUnit with ureg := [(0x400, 0x40#32)] }).refusing = true ∧ ({ portUnit with ureg := [(0x400, 0x40#32)] }).portLive 0 = true
    ∧ portUnit.rowIsBad (rowHdr (rowMessage 1)) (rowMessage 1).length = false ∧ portUnit.rowKnown (rowHdr (rowMessage 1)) = true
    ∧ portUnit.rowHere (rowHdr (rowMessage 1)) = false ∧ portUnit.rowKnown (rowHdr (rowMessage 0)) = false
    ∧ portUnit.rowIsBad (rowHdr (rowMessage 1)) 384 = true
    ∧ ({ portUnit with inputs := [{ (default : RowInput) with req := 1, kind := 1, pos := 9 }] }).rowHere (rowHdr (rowMessage 1)) = true := by
  decide +kernel

/-- A mask message for request 1 at position 9. -/
def maskMessage : List Byte := toLE 4 1 ++ toLE 4 9 ++ toLE 4 512 ++ List.replicate 564 0

/-- A mask that is taken, one for which the pool has no page, one that is bad. -/
theorem wit_mask_arrival :
    portUnit.maskArriving 0 = none ∧ portUnit.maskRefusal maskMessage = none ∧ portUnit.maskRefusal [] = some .maskBad
    ∧ maskMessage.length = 192 * cdiv (16 + plan0.maskLen) 192
    ∧ (Chip.allocAll .grammar plan0.maskSlots portUnit []).1.isSome = true
    ∧ (Chip.allocAll .grammar plan0.maskSlots { portUnit with plan := { (default : PlanSt) with cur := some plan0 } } []).1 = none := by
  decide +kernel

/-- A flit of zeros with its CRC: sound, DATA, class 0, sequence number 0. -/
def flit0 : List Byte := List.replicate 196 0 ++ toLE 4 (crc32 (List.replicate 196 0))

/-- Flits: the next in order, one out of order, a corrupt one; the 64th corrupt one in a row. -/
theorem wit_flits :
    flit0.length = 200 ∧ crc32 (flit0.take 196) = leAt flit0 196 4 ∧ fld (leAt flit0 0 4) 31 29 = 0 ∧ fld (leAt flit0 0 4) 28 26 ≠ 7
    ∧ fld (leAt flit0 0 4) 11 0 = 0 ∧ BitVec.ofNat 12 (fld (leAt flit0 0 4) 23 12) = (portUnit.fb 0).rxSeq
    ∧ ({ portUnit with fab := [(0, { (default : FabPort) with rxSeq := 1 })] }).fb 0 ≠ portUnit.fb 0
    ∧ ¬ ([] : List Byte).length = 200 ∧ (portUnit.fb 0).corrupt < 63
    ∧ 63 ≤ (({ portUnit with fab := [(0, { (default : FabPort) with corrupt := 63 })] }).fb 0).corrupt
    ∧ tget (portUnit.fb 0).granted 0 ≤ tget (portUnit.fb 0).taken 0
    ∧ (let x := ({ portUnit with fab := [(0, { (default : FabPort) with granted := [(0, 1)] })] } : Chip).fb 0; tget x.taken 0 < tget x.granted 0)
    ∧ (portUnit.fb 0).unacked + 1 < 64 ∧ 64 ≤ ({ portUnit.fb 0 with unacked := 63 }).unacked + 1 := by decide +kernel

/-- A flit of this type and class whose other header bits are these. -/
def flitOf (type cls low : Nat) : List Byte :=
  let b := toLE 4 (type * 2 ^ 29 + cls * 2 ^ 26 + low) ++ List.replicate 192 0
  b ++ toLE 4 (crc32 b)

/-- Sound flits with a reserved type, class 7 or an unused bit, of each kind. -/
theorem wit_reserved_flits :
    ∀ f ∈ [flitOf 5 0 0, flitOf 7 3 0, flitOf 0 7 0, flitOf 0 0 1, flitOf 1 7 0, flitOf 1 0 4096, flitOf 2 1 0, flitOf 4 0 1],
      let h := leAt f 0 4
      f.length = 200 ∧ crc32 (f.take 196) = leAt f 196 4 ∧ BitVec.ofNat 12 (fld h 23 12) = (portUnit.fb 0).rxSeq + BitVec.ofNat 12 (fld h 23 12)
      ∧ ((5 ≤ fld h 31 29 ∨ (fld h 31 29 = 0 ∧ (fld h 28 26 = 7 ∨ fld h 11 0 ≠ 0)))
        ∨ ((fld h 31 29 = 1 ∧ (fld h 28 26 = 7 ∨ fld h 25 12 ≠ 0))
          ∨ (2 ≤ fld h 31 29 ∧ fld h 31 29 ≤ 4 ∧ (fld h 28 26 ≠ 0 ∨ fld h 25 12 ≠ 0 ∨ (fld h 31 29 = 4 ∧ fld h 11 0 ≠ 0))))) := by
  decide +kernel

/-- A sender with two flits not acknowledged, its replays run out, a class out of credit, an acknowledgement that is due; training. -/
theorem wit_links :
    (let x : FabPort := { (default : FabPort) with replay := [(5, []), (6, [])], replays := 15, unacked := 1 };
      x.replay.findIdx? (fun e => e.1 = 6) = some 1 ∧ x.replay.drop 2 = [] ∧ x.replay.findIdx? (fun e => e.1 = 5) = some 0 ∧ x.replay.drop 1 ≠ [] ∧ x.replay.findIdx? (fun e => e.1 = 7) = none ∧ x.replay ≠ [] ∧ x.waiting = []
        ∧ 15 ≤ x.replays ∧ ({ x with replays := 14 }).replays < 15 ∧ 0 < x.unacked)
    ∧ ({ (default : FabPort) with starve := [(4, 1)] }).starved 10500 = true ∧ ({ (default : FabPort) with starve := [(4, 1)] }).starved 10499 = false
    ∧ ({ (default : FabPort) with replay := [(5, [])], progress := 8 }).stale 680 = true
    ∧ (default : FabPort).replay = [] ∧ (default : FabPort).unacked = 0 ∧ (default : FabPort).starved 0 = false ∧ (default : FabPort).stale 680 = false
    ∧ portUnit.portLive 0 = true ∧ (up.clk.held = false ∧ up.portUp 8 = false ∧ up.portQuar 8 = false ∧ up.portRetired 8 = false)
    ∧ (∃ n, tget ({ up with clk := { up.clk with ucyc := 53700 }, mch := [(1, some 1200)] } : Chip).mch 1 = some n ∧ n + 52500 ≤ 53700)
    ∧ tget up.mch 0 = none := by decide +kernel

/-- A unit that is member `me` of a group of two, with a merge-group row of request 1 in exchange. -/
def mergeUnit (me : Nat) : Chip := { rowsUnit [row0 .plain .pending []] with
  ureg := [(0x008, 1#32), (0x00C, 1#32), (0x090, BitVec.ofNat 32 (0x80000001 + 256 * me))]
  req := [(1, { (default : ReqEntry) with state := .active, merge := true })]
  merge := { (default : MergeSt) with rows := [{ (default : MrgRow) with req := 1, up := true, stage := 3 }] } }

/-- Merge messages: malformed, of another row, a NOTICE, one kept for its exchange; a member's DECISION and NORM; late data. -/
theorem wit_merge :
    let c := mergeUnit 1
    let m := fun (kind : Nat) (body : List Byte) => mergeBytes 0 0 kind 0 1 0 body
    c.clk.held = false ∧ c.ready = true ∧ c.mergeBad [] = true
    ∧ (∀ kind ∈ [0, 4, 6], c.mergeBad (m kind (List.replicate 16 0)) = false ∧ (mergeMsg (m kind (List.replicate 16 0))).kind = kind)
    ∧ (c.mergeRowAt 1 0).isSome = true ∧ c.mergeRowAt 2 0 = none
    ∧ (∀ y ∈ ({ c with merge := default } : Chip).merge.rows, y.req ≠ 1) ∧ (mergeMsg (m 4 (List.replicate 16 0))).source = 0
    ∧ c.mergeMe ≠ 0 ∧ mergeKids c.mergeSize c.mergeMe = [] ∧ c.merge.recv = []
    ∧ (mergeMsg (m 0 (toLE 4 negInf.toNat ++ List.replicate 12 0))).pair.1 = negInf
    ∧ (mergeMsg (m 0 (List.replicate 16 0))).pair.1 ≠ negInf
    ∧ c.mergeRow (row0 .plain .pending []) = true ∧ c.lacks 0 4 (row0 .plain .pending []) = true
    ∧ c.lacks 0 0 (row0 .plain .pending []) = false ∧ c.lacks 0 6 (row0 .plain .pending []) = true
    ∧ c.halts = false ∧ ({ c with dbg := { c.dbg with halted := true } } : Chip).halts = true ∧ c.mergeHeld + mergeUnits 512 ≤ 512
    ∧ (let d := { c with clk := { c.clk with ucyc := 56000 }, stp := { c.stp with stalls := [(16, 3000, 60000)] } };
      d.runs = true ∧ d.stp.committed = false ∧ (∃ x ∈ d.stp.stalls, x.1 = 16 ∧ x.2.1 + 52500 < d.since)
        ∧ ¬ ∃ x ∈ ({ d with clk := { d.clk with ucyc := 55500 } } : Chip).stp.stalls, x.1 = 16 ∧ x.2.1 + 52500 < 55500)
    ∧ (let d := { c with merge := { c.merge with
        recv := [{ (default : MrgMsg) with kind := 4, req := 1 }], notices := [{ (default : MrgMsg) with kind := 6, req := 1 }] } };
      (∃ m ∈ d.merge.recv, m.kind = 4 ∧ m.source = 0 ∧ m.req = 1 ∧ m.pos = 0) ∧ ∃ m ∈ d.merge.notices, m.req = 1 ∧ m.pos = 0) := by decide +kernel

/-- Mirror messages: an entry that is asked to bind and one that asks; records, heartbeats; no answer after 16 ticks. -/
theorem wit_mirrors :
    let sh := shadowUnit .bound
    let pr := { withReq .opened with mir := [(1, { (default : MirrorEnt) with mstate := .pending, asked := 16 })] }
    let msg := fun (kind : Nat) => mirHeader 0 kind 0 0 1 0 0 0
    sh.clk.held = false ∧ msgKind (msg kBind) = kBind ∧ (shadowUnit .none).bindReason 0 (msg kBind) ≠ 0
    ∧ pr.answers 0 (msg kAccept) kAccept = true ∧ pr.answers 0 (msg kRefuse) kRefuse = true ∧ sh.answers 0 (msg kAccept) kAccept = false
    ∧ msgKind (msg kRecord) = kRecord ∧ msgNtok (msg kRecord) ≤ 9 ∧ (sh.mr 1).mstate = .bound ∧ (sh.mr 1).shadow = true
    ∧ (sh.mr 1).tag = msgTag (msg kRecord) ∧ msgReq (msg kRecord) = 1 ∧ msgKind (msg kHeartbeat) = kHeartbeat
    ∧ (pr.mr 1).mstate = .pending ∧ (pr.mr 1).shadow = false ∧ 16 ≤ (pr.mr 1).asked := by decide +kernel

/-- BIND that agrees: the message that a unit with the same plan, entry and tables sends. -/
theorem wit_bind :
    let c := shadowUnit .pending
    c.bindReason 0 (mirHeader 0 kBind 0 0 1 (c.rq 1).position.toNat (c.cfgCrc 1).toNat 0 ++ (c.planIdent ++ List.replicate 32 0).take 32
      ++ toLE 4 (crc32 (c.countBytes 1)) ++ toLE 4 (crc32 (c.resourceBytes 1))) = 0 := by decide +kernel

/-- Signatures: none of its own yet, an equal one, another one. -/
theorem wit_signatures :
    let c := { up with lock := { (default : LockSt) with bound := true } }
    let m := mirHeader 0 kSignature 0 0 0 5 0 0 ++ toLE 8 77 ++ toLE 8 0
    msgKind m = kSignature ∧ c.lock.bound = true ∧ c.lock.tag = msgTag m ∧ c.lock.own = none
    ∧ (BitVec.ofNat 32 (msgWord1 m), BitVec.ofNat 64 (leAt m 16 8)) = (5#32, 77#64) ∧ (78#64 : DWord) ≠ 77#64
    ∧ (let d := { c with clk := { c.clk with ucyc := 54000 }, lock := { c.lock with own := some (5, 77), contain := true, signedAt := 1200 } };
      d.lock.own = some (5#32, 77#64) ∧ d.lock.contain = true ∧ d.stopped = false ∧ d.lock.signedAt + 52500 < d.clk.ucyc
        ∧ 53700 ≤ d.lock.signedAt + 52500) := by decide +kernel

/-! #### Registers, boot and power -/

/-- Reads: _LO words at both ends of the unit's own, their _HI, plain words, entry words, the meter window; debug reads while halted. -/
theorem wit_reads :
    loWord 0x28 = true ∧ loWord 0x92008 = true ∧ loWord (0x2C - 4) = true ∧ loWord 0x2C = false ∧ loWord 0 = false ∧ loWord 0x1FC = false
    ∧ reservedWord 0x1FC = true ∧ reservedWord 0x1F4 = true ∧ reservedWord (0x1FE / 4 * 4) = true ∧ reservedWord (0x2E / 4 * 4) = false ∧ reservedWord 0x000 = false ∧ loWord 0x20000 = false ∧ reservedWord 0x20000 = false
    ∧ meterLo 0x38 = false ∧ up.clk.held = false ∧ Chip.reset.clk.held = true
    ∧ ({ State.reset.meter with powered := true } : Meter).powered = true
    ∧ ({ State.reset.meter with powered := false } : Meter).powered = false
    ∧ (let c := { up with dbg := { (default : DbgSt) with unlocked := true, frozen := true } };
      c.dbg.unlocked = true ∧ c.dbgLive = true ∧ c.dbgLane 0 = some (0, 0) ∧ up.dbg.unlocked = false)
    ∧ (let c := { up with bus := { (default : BusSt) with reqLatch := some (4095, []) } }; c.bus.reqLatch = some (4095, [])) := by
  decide +kernel

/-- Accesses: of 8, 2 and 1 bytes; of a user that may and may not; counters that are hidden; a width that is refused; the controller's ranges. -/
theorem wit_accesses :
    up.clk.held = false ∧ (0x28 : Nat) % 8 = 0 ∧ reservedWord 0x28 = false ∧ reservedWord 0x2C = false ∧ reservedWord 0x30 = false
    ∧ userMay true 0x10000 = true ∧ userMay false 0x80000 = true ∧ inCounters 0x80000 = false ∧ userMay false 0x1020C = false
    ∧ (let on := { up with ureg := (0x200, 1#32) :: up.ureg };
      userMay false 0x90000 = true ∧ inCounters 0x90000 = true ∧ on.rbit 0x200 0 = true ∧ up.rbit 0x200 0 = false ∧ userMay false 0x000 = false)
    ∧ badWidth true 0x28 2 = true ∧ badWidth false 0x2A 4 = true ∧ badWidth false 0x2A 2 = false ∧ up.refusal .supervisor true 0x28 = none
    ∧ up.refusal .user false 0x10002 = none ∧ badWidth false 0x10002 4 = true
    ∧ (let c := { up with plan := { up.plan with desc := ⟨List.replicate 64 0⟩ } }; c.plan.desc.bytes.length = 64 ∧ 60 + 4 ≤ 64) := by decide +kernel

/-- Writes: every kind of plain register, reserved space, the meter window, a user's access, RUN and RESET, the parking registers. -/
theorem wit_writes :
    (ctrlRow 0x120).isSome = true ∧ (ctrlRow 0x010).isSome = true ∧ (0x120 : Nat) ∉ [0x008, 0x020, 0x090, 0x0D4, 0x0D8, 0x0DC, 0x124, 0x12C]
    ∧ reservedWord 0xFFC = true ∧ reservedWord 0xF00000 = true ∧ userMay false 0x000 = false ∧ userMay true 0x800000 = false
    ∧ (1#32 &&& 0xFFFF00FE#32) = 0#32 ∧ (0xA504#32 &&& 0xFFFF00FE#32) = 4#32 ∧ ((0xA504#32 >>> 8) &&& 0xFF#32) = 0xA5#32
    ∧ fld 0x0101 13 8 ≤ fld 0x0101 5 0 ∧ fld 0x0100 5 0 < fld 0x0100 13 8
    ∧ up.anyParked = false ∧ (withReq .parked).anyParked = true ∧ (0xFFFF#32 &&& 0xFFFF0000#32) = 0#32
    ∧ (limFields.any fun f => f.off = 0x140) = true := by decide +kernel

/-- Boot: reset release, alignment at HCLK's release and before it, verification, READY; a trip at 115 °C and no trip at 114. -/
theorem wit_boot :
    (let c := { (default : Chip) with clk := { (default : Clocks) with now := 1344, hclk0 := 1344 } };
      c.clk.held = false ∧ c.clk.hclk0 ≤ c.clk.now ∧ c.boot = 0 ∧ c.rbit 0x00C 8 = false ∧ c.tick.holdDue = false
        ∧ (∀ n ∈ [1, 2, 3, 4], (c.setBoot n).boot = n)
        ∧ ({ c with clk := { c.clk with now := 1343 } } : Chip).clk.now < c.clk.hclk0)
    ∧ Chip.reset.clk.held = true ∧ Chip.reset.pwr.standby = true ∧ policyOk [] = false
    ∧ (default : Chip).logicalLane 16 255 = some 255 ∧ ((default : Chip).freeSpares 16).head? = some 0 ∧ (default : Chip).runs = false
    ∧ (115#8 : Byte).toNat = 115 ∧ (114#8 : Byte).toNat < 115 := by decide +kernel

/-- The stages of BIST and of the boot ROM: both end in time, and neither before it has begun. -/
theorem wit_boot_stages :
    (min Config.bistEnd 136500000 ≤ 136500000 ∧ min Config.romEnd 168000000 ≤ 168000000)
    ∧ (0 < Config.bistEnd → 0 < min Config.bistEnd 136500000) ∧ (0 < Config.romEnd → 0 < min Config.romEnd 168000000) := by omega

/-! #### The meter -/

/-- Heat and power: causes of halving that hold and that do not; an upward crossing of 95 °C. -/
theorem wit_power :
    let hot := { up with pwr := { up.pwr with windows := [126000] } }
    up.clk.held = false ∧ (true && decide (105 ≤ (105#8).toNat)) = true ∧ (true && decide (105 ≤ (104#8).toNat)) = false
    ∧ hot.overDrawn = true ∧ up.overDrawn = false ∧ up.pwr.tj.toNat < 95 ∧ 95 ≤ (95#8).toNat := by decide +kernel

/-- A meter whose target is up, with slot 1 open for writing. -/
def busMeter : Meter := { (default : Meter) with powered := true, booted := true, loading := some true }

/-- Power and beats: a meter without power, with power, running; an empty and a full FIFO; a scheduled statement that is due. -/
theorem wit_meter :
    (default : Meter).powered = false ∧ busMeter.targetUp = true ∧ busMeter.powered = true ∧ busMeter.booted = true
    ∧ ({ busMeter with booted := false }).booted = false ∧ (default : Meter).counting = false ∧ (default : Meter).fifo = []
    ∧ (let m := { busMeter with counting := true, fifo := List.replicate 8191 0 }; m.fifo.length < 8192 ∧ m.counting = true)
    ∧ 8192 ≤ ({ busMeter with fifo := List.replicate 8192 0 }).fifo.length
    ∧ (let m := { busMeter with cfg := MtrCfg.shipped, lastWasLast := true }; m.loaderOnly = false ∧ m.cfg.stmtInt ≠ 0#8 ∧ m.lastWasLast = true)
    ∧ ({ busMeter with loaderOnly := true }).loaderOnly = true ∧ imgMeter.powered = true ∧ imgMeter.booted = false
    ∧ (default : Meter).checkSlot true ≠ 0#8 ∧ (default : Meter).sealcnt ≠ 0xFFFFFFFF#32 := by decide +kernel

/-- Target commands: the longest statement range, READREG at the window's end, LOADDATA of 1 and of 240 bytes, SETCFG at its bounds. -/
theorem wit_target :
    let a := fun (off n : Nat) => toLE 2 off ++ toLE 1 n
    let stmt := a 4032 64 ++ List.replicate 8 (0 : Byte)
    let cfg := toLE 1 127 ++ toLE 1 255 ++ toLE 2 127 ++ toLE 2 8192 ++ List.replicate 10 (0 : Byte)
    stmt.length = 11 ∧ leAt stmt 0 2 + leAt stmt 2 1 ≤ 4096 ∧ 1 ≤ leAt stmt 2 1 ∧ leAt stmt 2 1 ≤ 64
    ∧ (4096 < leAt (a 4033 64) 0 2 + leAt (a 4033 64) 2 1 ∨ (a 4033 64).length ≠ 11)
    ∧ (let r := a 65280 64; r.length = 3 ∧ leAt r 0 2 % 4 = 0 ∧ 1 ≤ leAt r 2 1 ∧ leAt r 2 1 ≤ 64 ∧ leAt r 0 2 + 4 * leAt r 2 1 ≤ 65536)
    ∧ (let d := toLE 4 32784 ++ List.replicate 240 (0 : Byte); 4 < d.length ∧ d.length ≤ 244 ∧ leAt d 0 4 + (d.length - 4) ≤ 33024)
    ∧ cfg.length = 16 ∧ leAt cfg 0 1 < 128 ∧ leAt cfg 2 2 < 128 ∧ 1 ≤ leAt cfg 4 2 ∧ leAt cfg 4 2 ≤ 8192 ∧ leAt cfg 6 10 = 0
    ∧ busMeter.sealSat = false ∧ ({ busMeter with sealcnt := 0xFFFFFFFF }).sealSat = true ∧ busMeter.slot = false
    ∧ ({ busMeter with slot1 := { (default : MtrSlot) with verified := true } }).slot1.verified = true := by decide +kernel

/-- Selection: a list with columns of equal logits to order; a threshold that an entry's running mass passes first, and one that none
passes, so that the last entry of positive mass is taken. -/
theorem wit_selection :
    (sortBy colBefore [{ token := 9, x := 0x3F800000#32 }, { token := 4, x := 0x3F800000#32 }]).map (fun c => c.token) = [4, 9]
    ∧ drawList ≠ [] ∧ flt 0x3F9C0000#32 (drawList.getD 1 default).cum = true ∧ flt 0x3F9C0000#32 (drawList.getD 0 default).cum = false
    ∧ (∀ j, j < drawList.length → flt 0x40000000#32 (drawList.getD j default).cum = false)
    ∧ flt 0#32 (drawList.getD 3 default).mass = true := by decide +kernel

/-- The refill: a step whose duties are due and one whose are done; a budget that cannot be read, one at rest, one between refills, one
that refills to its ceiling and one above it; a parked request with a time to live and one without. -/
theorem wit_refill :
    (let c := { up with stp := { (default : StepSt) with dutyDue := true } }; c.stp.dutyDue = true) ∧ up.stp.dutyDue = false
    ∧ (let x : Tenant := { (default : Tenant) with balance := 450, refill := 100, period := 1000, ceiling := 500, next := 1, state := 1 }
      x.unreadable = false ∧ x.period ≠ 0#32 ∧ x.state ≠ 0#2 ∧ x.balance.toInt < x.ceiling.toInt ∧ x.tick.balance = 500
      ∧ ({ x with next := 2 }).next ≠ 1#32 ∧ ({ x with balance := 501 }).ceiling.toInt ≤ ({ x with balance := 501 }).balance.toInt)
    ∧ (default : Tenant).period = 0#32
    ∧ (let e : ReqEntry := { (default : ReqEntry) with state := .parked, ttl := 1#32 }; e.state = .parked ∧ e.ttl ≠ 0#32)
    ∧ ({ (default : ReqEntry) with state := .parked, ttl := 0#32 }).ttl = 0#32 := by decide +kernel

/-- Seals: every command that may write one answers a next state; the boot of a powered meter changes the count of seals. -/
theorem wit_seals :
    (∃ t, exec .meterBoot { State.reset with meter := { (default : Meter) with powered := true } } = .next t)
    ∧ ({ (default : Meter) with powered := true }).finishBoot.sealcnt = 1#32 := ⟨⟨_, rfl⟩, by decide +kernel⟩

/-! #### Further forms -/

/-- The compare of a tile of zeros: no upset, one of a lane's sum, one that leaves a sum that is not finite; the repeat meets those that
stay. -/
theorem wit_compare :
    let f : ScoreF := { wfmt := 0, round := false, castle := false, spill := 0, piece := 0, block := 0, group := 0, shape := 0, draft := false, start := 0, count := 1 }
    let p := { plan0 with head0 := 0#32, h0 := 1 }
    let up1 : TileUpset := { tile := 0, slot := 7, lane := some 255, err := 0x3F800000#32, again := false }
    let fails := fun us => runUnit.tileFails p 0 f 0 default us
    fails [] = none ∧ fails [up1] = some 7 ∧ fails [{ up1 with err := 0x7F800000#32 }] = none
    ∧ ([up1].filter fun u => u.again) = [] ∧ ([{ up1 with again := true }].filter fun u => u.again) ≠ [] := by decide +kernel

/-- FINAL in a first member of a split over two atolls, and in the other one before and after the first has read. -/
theorem wit_final :
    let c := { runUnit with plan := { (default : PlanSt) with cur := some { plan0 with head0 := 0x01000804#32 } } }
    c.laneReady 0 = true ∧ laneReserved 0x58 (lf 0x40 0x60 0xFF) = false ∧ plan0.scoreIn (runUnit.waveShape 0).2 = false
    ∧ opnd 0x40#8 = .vec 0 ∧ (runUnit.waveShape 0).1 = 8 ∧ (0 : Nat) < 16 / cfgKsplit (plan0.cfg false)
    ∧ (c.atl 8).taken = false ∧ (c.atl 0).tileWait ≠ .castling := by decide +kernel

/-- ROWDONE of the last atoll and of an earlier one. -/
theorem wit_rowdone :
    let l := classAtolls (rowsUnit []).draftN ((rowsUnit []).waveShape 0).2
    (∃ b ∈ l, b ≠ 0 ∧ ¬ b ∈ (row0 .plain .pending []).handed)
    ∧ ∀ b ∈ l, b = 0 ∨ b ∈ ({ row0 .draft .pending [] with handed := (List.range 15).map (· + 1) }).handed := by decide +kernel

/-- DRAW of a greedy row and of one that draws; as the first copy, and as the second one that agrees, agrees when repeated, or never. -/
theorem wit_draw_copies :
    let r := row0 .plain .listed drawList
    let c := rowsUnit [r]
    let warm := { c with prm := [(1, { (default : Params) with temp := 0x3F800000#32 })] }
    c.greedyRow r = true ∧ warm.greedyRow r = false ∧ r.drawn = none ∧ r.drawB = none ∧ r.faultDrop = false
    ∧ ({ r with drawA := some 0#32 }).drawA = some 0#32 ∧ (0xFFFF#32 >>> 16 = 0#32 ∧ 0xFFFF#32 &&& 0xFFFF#32 ≠ 1#32 &&& 0xFFFF#32)
    ∧ (0x10001#32 &&& 0xFFFF#32) ≠ (2#32 &&& 0xFFFF#32) ∧ 0x10001#32 >>> 16 ≠ (2#32 : Word) >>> 16 ∧ warm.stp.active = true
    ∧ warm.stp.committed = false := by decide +kernel

/-- REFUSE: the ends of the codes that may be returned, and codes that may not. -/
theorem wit_refuse_codes :
    (0x10 : Nat) ∈ refuseCodes ∧ (0x87 : Nat) ∈ refuseCodes ∧ (0 : Nat) ∉ refuseCodes ∧ (0x16 : Nat) ∉ refuseCodes
    ∧ (0x88 : Nat) ∉ refuseCodes := by decide +kernel

/-- RESUME: of a request that has expired, of one that is not parked, of a parked one that is to end. -/
theorem wit_resume :
    meets 0x0105 (inbox (withReq .closed { (default : ReqEntry) with endcause := 6 }) 0x0105 1) (fun c b => decide (b.target < 4096
      ∧ (c.rq b.target).state ≠ .parked ∧ (c.rq b.target).endcause = 6#8))
    ∧ meets 0x0105 (inbox up 0x0105 4095) (fun c b => decide (b.target < 4096 ∧ (c.rq b.target).state ≠ .parked
      ∧ (c.rq b.target).endcause ≠ 6#8))
    ∧ (∀ e ∈ [{ (default : ReqEntry) with cancel := true }, { (default : ReqEntry) with close := true }],
      meets 0x0105 (inbox (withReq .parked e) 0x0105 1) (fun c b => decide (b.target < 4096 ∧ (c.rq b.target).state = .parked
        ∧ ((c.rq b.target).merge = true ∨ (c.rq b.target).cancel = true ∨ (c.rq b.target).close = true)))) := by decide +kernel

/-- The unit at the T+0 of its step. -/
def atZero : Chip := { up with
  stp := { up.stp with t0 := 1200 }, tick := { (default : TickSt) with cnt := 7, lastAt := 1200 } }

/-- A plan switch that is due, one that waits for its words, and the loader's last bytes. -/
theorem wit_switch :
    let b : Mailbox := { (default : Mailbox) with routine := some { (default : Routine) with code := 0x0400 } }
    let c := { atZero with mbx := [(0, b)], plan := { (default : PlanSt) with
      cur := some plan0, staged := some { (default : StagedPlan) with plan := plan0 } } }
    c.atT0 = true ∧ c.stopped = false ∧ (c.mb 0).routine.map (fun r => (r.left, decide (c.tick.cnt = r.tick))) = some (0, false)
    ∧ c.bad143 plan0 = false ∧ ({ c with page := [(7, { (default : Page) with use := .count })] } : Chip).bad143 plan0 = true
    ∧ up.atT0 = false ∧ (default : Routine).left = 0 := by
  decide +kernel

/-- LOCKSTEP: a binding that waits for its tick is refused like one in force. -/
theorem wit_lockstep_waits :
    meets 0x0603 (inbox { up with lock := { (default : LockSt) with next := some (some (false, false, 0, 0)) } } 0x0603 0) (fun c b =>
      decide (b.target = 0 ∧ b.pay 0 1 = 0 ∧ c.lock.bound = false) && match c.lock.next with
        | some (some _) => true
        | _ => false) := by decide +kernel

/-- A mailbox with a routine. -/
def routineUnit (r : Routine) (c : Chip := atZero) : Chip :=
  { c with mbx := [(0, { (default : Mailbox) with state := .accepted, routine := some r })] }

/-- Firmware routines: bytes to copy, a verified image, recovery; an activation at T+0; an image on trial; a revert at a tick. -/
theorem wit_firmware_steps :
    (let r : Routine := { (default : Routine) with code := 0x0500, left := 1 }; r.left ≠ 0 ∧ r.ready = false
      ∧ (routineUnit r).recovering = false ∧ (routineUnit r { atZero with ureg := [(0x110, 0x200#32)] }).recovering = true)
    ∧ (let r : Routine := { (default : Routine) with code := 0x0501 }; r.ready = false ∧ (routineUnit r).tick.cnt ≠ r.tick
      ∧ (routineUnit r).atT0 = true ∧ (routineUnit r).stopped = false)
    ∧ (let c := { atZero with fw := { (default : FwSt) with revertDue := true, restartDue := true } };
      c.fw.revertDue = true ∧ c.fw.restartDue = true ∧ c.atT0 = true)
    ∧ (∀ n ∈ [0, 2, 3], let r : Routine := { (default : Routine) with code := 0x0501, ready := true, steps := n }
      r.failed ≠ some 0x0050 ∧ (routineUnit r).fw.revertDue = false ∧ (r.steps < 3 ∨ 3 ≤ r.steps)) := by decide +kernel

/-- A routine's fault, in a step and while nothing runs; a second one, and one of an image on trial. -/
theorem wit_routine_faults :
    let r : Routine := { (default : Routine) with code := 0x0104 }
    (routineUnit r).stp.active = true ∧ r.failed ≠ some 0x0050
    ∧ (let c := routineUnit r { (default : Chip) with ureg := [(0x00C, 1#32)] }; c.stp.active = false ∧ c.run = false
      ∧ (List.finRange 16).all (fun n => decide (n = 0) || (c.mb n.val).routine.all fun r => decide (r.failed ≠ some 0x0050)) = true)
    ∧ (∀ p ∈ [(0x0104, ReqState.parking), (0x0105, .resuming)],
      let r : Routine := { (default : Routine) with code := p.1, target := 1, failed := some 0x0050 }
      let c := { routineUnit r (withReq p.2) with stp := { up.stp with dutyDue := true } }
      c.runs = true ∧ c.inWindow = true ∧ c.stp.dutyDue = true ∧ c.late = false ∧ (c.rq 1).state = p.2
        ∧ (List.finRange 16).all (fun n => decide (n = 0) || (c.mb n.val).routine.all fun r => decide (r.failed ≠ some 0x0050)) = true) := by
  decide +kernel

/-- FW_LATE: a due command without a verdict, in the window. -/
theorem wit_fw_late :
    let c := { up with mbx := [(3, { (default : Mailbox) with state := .accepted, due := true })] }
    c.inWindow = true ∧ c.stp.planned = false ∧ c.stp.fwLate = false ∧ c.dbg.frozen = false ∧ c.late = true ∧ c.missing.length = 1
    ∧ ({ up with stp := { up.stp with missed := [3] }, mbx := [(3, { (default : Mailbox) with state := .accepted, due := true, apply := true })] } : Chip).late = true
    ∧ up.late = false ∧ up.runs = true ∧ ({ up with stp := { up.stp with dutyDue := true } } : Chip).stp.dutyDue = true := by
  decide +kernel

/-- The UCLK that ends is a UCLK-domain cycle of a unit that is past its boot ROM. -/
def goes (c : Chip) : Bool :=
  decide (c.clk.held = false ∧ (c.pwr.halved = false ∨ c.clk.phase = true) ∧ c.clk.uclk0 ≤ c.clk.now ∧ 3 ≤ c.boot)

theorem goes_beats {c : Chip} (h : goes c = true) : c.beats := by
  unfold goes at h
  have k := of_decide_eq_true h
  exact k

/-- A booted unit: BOOT 5 and READY. -/
def booted (c : Chip) : Chip := { c with ureg := [(0x008, 1#32), (0x00C, 0xB#32), (0x020, 0x080064#32)] }

/-- Ticks: what starts a step, what waits to be judged, a receiver that does not sample yet. -/
theorem wit_tick_forms :
    tickUnit.samples = true ∧ ({ tickUnit with clk := { tickUnit.clk with uclk0 := 59997 } } : Chip).samples = false
    ∧ tickUnit.stp.active = false ∧ tickUnit.ready = true ∧ tickUnit.run = true
    ∧ (let c := { tickUnit with dbg := { (default : DbgSt) with frozen := true, stepping := true } }; c.dbg.frozen = true ∧ c.dbg.stepping = true)
    ∧ (let c := { booted tickUnit with tick := { (default : TickSt) with missDue := some true }, stp := { (default : StepSt) with active := true } };
      goes c = true ∧ c.tick.holdDue = false ∧ c.tick.missDue = some true ∧ c.stp.active = true ∧ c.run = true ∧ c.stp.planDue = none
        ∧ c.merge.held = [])
    ∧ (let c := { booted tickUnit with tick := { (default : TickSt) with holdDue := true } };
      c.clk.held = false ∧ c.tick.holdDue = true ∧ 3 ≤ c.boot ∧ c.stp.active = false ∧ c.ready = true ∧ c.run = true ∧ c.stopped = false ∧ ∀ e ∈ c.regNext, e.1 ∉ [0x008, 0x024, 0x03C, 0x160]) := by decide +kernel

/-- The planner's cycle, before its run is asked for and after; one that never runs, since the step has been planned; the end of the cycle. -/
theorem wit_planner :
    let c := { booted up with clk := { (default : Clocks) with now := 1536, ucyc := 1536 } }
    let due := { c with stp := { c.stp with planDue := some (none, [], false) } }
    c.runs = true ∧ c.stp.planned = false ∧ c.stp.planDue = none ∧ c.since = 1536
    ∧ due.stp.planDue = some (none, [], false) ∧ due.runs = true ∧ 1024 ≤ due.since ∧ due.stp.fwLate = false ∧ goes due = true
    ∧ due.tick.holdDue = false ∧ ({ due with stp := { due.stp with planned := true } } : Chip).stp.planned = true ∧ 1024 ≤ up.since := by
  decide +kernel

/-- Reads that stop the unit, and reads that do not. -/
theorem wit_stage_reads :
    let bad : ReadFind := { (default : ReadFind) with site := .scratchpad 5, bad := true }
    let worn := { up with areg := (List.range 4).map fun k => (0x80 + 4 * k, 0xFFFFFFFF#32), ureg := (0x164, 0x80000000#32) :: up.ureg }
    (up.reads []).runs = true ∧ (worn.reads [bad]).runs = true ∧ (worn.reads [bad, bad]).runs = false := by decide +kernel

/-- A lane word's corrected find without a bad transfer, and a bad transfer that carries a row of an uncommitted step. -/
theorem wit_lane_turn :
    let f : LaneF := { (default : LaneF) with ecc := [{ (default : ReadFind) with site := .scratchpad 5 }] }
    let d := (rowsUnit [row0 .plain .pending []]).straitFound { lane := some 0, rows := [(0, 0)] }
    (f.strait = [] ∧ f.ecc ≠ [] ∧ (∀ x ∈ f.ecc, x.bad = false))
    ∧ d.stp.active = true ∧ d.stp.committed = false ∧ (∃ r ∈ d.stp.rows, (r.wave, r.slot) ∈ [(0, 0)] ∧ r.faultDrop = true) := by
  decide +kernel

/-- This unit with its step at a cycle. -/
def at_ (n : Nat) (x : StepSt) (c : Chip := runUnit) : Chip := { booted c with clk := { up.clk with ucyc := n, now := n }, stp := x }

/-- A stall that has lasted a whole tick period of 100 µs, and one that a cycle misses. -/
theorem wit_stalls :
    (let c := at_ 107048 { runUnit.stp with stalls := [(16, 2048, 200000)], rows := [row0 .plain .pending []] };
      c.runs = true ∧ c.stp.planned = true ∧ c.stp.committed = false ∧ c.stp.abandoned = false
        ∧ ∃ x ∈ c.stp.stalls, x.2.1 + 1050 * c.periodUs ≤ c.since ∧ c.since ≤ x.2.2)
    ∧ ¬ ∃ x ∈ (at_ 107047 { runUnit.stp with stalls := [(16, 2048, 200000)] }).stp.stalls,
        x.2.1 + 1050 * (at_ 107047 { runUnit.stp with stalls := [(16, 2048, 200000)] }).periodUs ≤ 107047 := by decide +kernel

/-- A commit point: of an abandoned step, of one without rows, of one whose rows were done in the cycle before, or long before where a row
has been dropped; a step whose last work ends in this cycle; a request to be held. -/
theorem wit_commit_points :
    (let c := at_ 3001 { runUnit.stp with abandoned := true, abandonAt := 3000 };
      c.runs = true ∧ c.stp.planned = true ∧ c.stp.committed = false ∧ c.since = c.stp.abandonAt + 1)
    ∧ (let c := at_ 2048 { runUnit.stp with bg := 0 }; c.stp.abandoned = false ∧ c.stp.rows = [] ∧ c.since = c.p0)
    ∧ (∀ n ∈ [2048, 9001], let c := at_ n { runUnit.stp with bg := 0, rows := [row0 .plain .fault []], doneAt := some (min (n - 1) 9000) };
      c.stp.rows ≠ [] ∧ c.p0 ≤ c.since ∧ c.stp.stalls = [] ∧ (∀ r ∈ c.stp.rows, r.drop = none ∧ r.predOff = false)
        ∧ c.since = max (min (n - 1) 9000 + 1) c.p0)
    ∧ (let c := at_ 9500 { runUnit.stp with rows := [{ row0 .plain .fault [] with drop := some .deferred }], doneAt := some 9000 };
      ¬ (∀ r ∈ c.stp.rows, r.drop = none ∧ r.predOff = false) ∧ 9000 < c.since ∧ c.p0 ≤ c.since)
    ∧ (let c := at_ 9000 { runUnit.stp with rows := [row0 .plain .fault [], row0 .plain .noCandidate []] };
      goes c = true ∧ c.tick.holdDue = false ∧ c.stp.planDue = none ∧ c.merge.held = [] ∧ c.stp.doneAt = none
        ∧ (∀ r ∈ c.stp.rows, c.rowDone r = true) ∧ ({ c with stp := { c.stp with rows := [row0 .plain .pending []] } } : Chip).rowDone
          (row0 .plain .pending []) = false)
    ∧ (let c := { at_ 9000 { runUnit.stp with rows := [{ row0 .plain .pending [] with faultDrop := true, drop := some .deferred }] } with
          req := [(1, { (default : ReqEntry) with state := .active })], aux := [(1, { (default : ReqAux) with faultRun := 7 })] };
      c.runs = true ∧ 7 ≤ (c.ax 1).faultRun ∧ c.faultHit 1 = true ∧ (c.ax 1).escalated = false ∧ (c.rq 1).cancel = false)
    ∧ (let c := { withReq .active with aux := [(1, { (default : ReqAux) with escalated := true })] };
      (c.rq 1).state = .active ∧ (c.ax 1).escalated = true)
    ∧ (let c := at_ 62000 { runUnit.stp with committed := true, mirrorWait := [1], sentAt := 9000 };
      c.stp.mirrorDue = [] ∧ c.stp.sentAt + 52500 < c.since ∧ (at_ 61500 c.stp).since ≤ c.stp.sentAt + 52500) := by decide +kernel

/-- The drain: beats to write, and beats that wait for a mirror's acknowledgement. The end of a step with nothing to write and with rings to
advance, with and without a tick to judge. -/
theorem wit_step_ends :
    let fin := { runUnit.stp with committed := true, c := 9000 }
    (let c := at_ 9001 { fin with beats := [5] };
      goes c = true ∧ c.tick.holdDue = false ∧ c.stp.planDue = none ∧ c.merge.held = [] ∧ c.runs = true ∧ c.stp.mirrorWait = []
        ∧ c.lock.waiting = false)
    ∧ (at_ 9001 { fin with mirrorWait := [1], beats := [5] }).stp.mirrorWait ≠ []
    ∧ (∀ x ∈ [(9001, fin), (9050, { fin with advance := [(3, 2)], sentAt := 9000 })], let c := at_ x.1 x.2
      c.runs = true ∧ c.stp.c < c.since ∧ c.stp.mirrorWait = [] ∧ c.lock.waiting = false ∧ c.stp.beats = [] ∧ c.posted = []
        ∧ c.ringOut = false ∧ (c.emptyDrain = true → c.since = c.stp.c + 1) ∧ c.tick.missDue = none ∧ keysRise c.stp.advance = true
        ∧ c.dbg.frozen = false ∧ c.ready = true ∧ c.run = true ∧ c.stopped = false)
    ∧ (at_ 9001 fin).emptyDrain = true ∧ (at_ 9050 { fin with advance := [(3, 2)] }).emptyDrain = false
    ∧ ({ at_ 9001 fin with tick := { (default : TickSt) with missDue := some true } } : Chip).tick.missDue = some true := by decide +kernel

/-- The slot of a step: free, with a suspect atoll, and a scrub's first pass. -/
theorem wit_slot :
    let c := { runUnit with clk := { up.clk with ucyc := 2048 }, stp := { runUnit.stp with bg := 8192 } }
    c.runs = true ∧ c.stp.planned = true ∧ c.stp.bgDone = false ∧ 2048 ≤ c.since ∧ c.since < c.p0 ∧ c.rpr.suspect = []
    ∧ (∀ k n, tget c.rpr.worn k = some n → n = 0)
    ∧ (∀ f ∈ [Finding.corrected (.scratchpad 5) 64 0], ∃ site addr, f = .corrected site addr 0)
    ∧ (let d := { c with rpr := { (default : RprSt) with suspect := [16] } };
      d.rpr.suspect.head? = some 16 ∧ d.spareLeft 16 = true ∧ ∀ x ∈ d.rpr.staged, x.1 ≠ .cksum 16 ∧ x.1 ≠ .atoll 16) := by
  refine ⟨by decide +kernel, by decide +kernel, by decide +kernel, by decide +kernel, by decide +kernel, rfl, ?_, ?_, by decide +kernel⟩
  rotate_left
  · intro f hf
    exact ⟨_, _, List.mem_singleton.mp hf⟩
  intro k n h
  have e : ∀ k : Nat, tget ([] : SMap (Option Nat)) k = none := fun _ => rfl
  exact absurd (h.symm.trans (e k)) (by simp)

/-- Repairs and restores: a ripe lane repair and a word to restore at a T+0, whatever rows its macro has. -/
theorem wit_repair :
    let c := { atZero with rpr := { (default : RprSt) with staged := [(.lane 16 255, 0, 6)], restore := [(15, 8191)] } }
    c.atT0 = true ∧ c.switchDue = false ∧ c.stopped = false ∧ (c.freeSpares 16).head? = some 0 ∧ c.rpr.restore = [(15, 8191)]
    ∧ (c.rpr.staged.filter fun x => decide (x.2.1 = 0 ∧ x.2.2 ≠ c.tick.cnt)) = [(.lane 16 255, 0, 6)] := by decide +kernel

theorem wit_rows_left (mem addr : Nat) :
    let k := Config.sramMacro mem addr
    (∃ c : Chip, c.spareRowLeft mem addr = false)
    ∧ (Config.fusedRows k < macroSpares k → ∃ c : Chip, c.spareRowLeft mem addr = true) := by
  refine ⟨⟨{ (default : Chip) with rpr := { (default : RprSt) with rows := [(Config.sramMacro mem addr, macroSpares (Config.sramMacro mem addr))] } }, ?_⟩,
    fun h => ⟨default, ?_⟩⟩
  · simp only [Chip.spareRowLeft, Chip.rowsTaken, tget, if_true, decide_eq_false_iff_not]
    omega
  · exact decide_eq_true h

/-- Ports: one that the spare has replaced, the spare in service, credits that ran out with and without a spare. -/
theorem wit_ports :
    let gone := { portUnit with ureg := (0x168, 0x80000000#32) :: portUnit.ureg }
    gone.portRetired 0 = true ∧ gone.portLive 0 = false ∧ gone.portServes 8 = true ∧ portUnit.portServes 8 = false
    ∧ portUnit.portServes 0 = true ∧ (portUnit.rbit 0x168 31 = false ∧ tget portUnit.regNext 0x168 = none ∧ portUnit.portQuar 8 = false) := by
  decide +kernel

/-- Merge and mirror buffers that are full, and ones with room. -/
theorem wit_buffers :
    (let c := { mergeUnit 1 with merge := { (mergeUnit 1).merge with recv := List.replicate 512 { (default : MrgMsg) with kind := 0 } } };
      512 < c.mergeHeld + mergeUnits 16) ∧ ¬ 512 < (mergeUnit 1).mergeHeld + mergeUnits 16
    ∧ 4096 ≤ ({ up with mirRx := List.replicate 4096 default } : Chip).mirRx.length ∧ up.mirRx.length < 4096 := by decide +kernel

/-- Writes: a bit that hardware has set in the cycle, an instruction bank, the controller's path, the end of a limit. -/
theorem wit_write_forms :
    (let c := { up with cyc := { (default : CycSt) with set := [(0x110, 4#32)] } }; tget c.cyc.set 0x110 = 4#32 ∧ c.bankSel = false)
    ∧ (ctrlRow 0x110).isSome = true ∧ reservedWord 0x400000 = false ∧ userMay true 0x000120 = false
    ∧ ({ up with stp := default } : Chip).stp.active = false := by decide +kernel

/-- Boot BIST: a faulty lane with a spare to take, and every spare of the atoll taken. -/
theorem wit_bist :
    (default : Chip).logicalLane 16 255 = some 255 ∧ (default : Chip).rpr.staged = [] ∧ ((default : Chip).freeSpares 16).head? = some 0
    ∧ ({ (default : Chip) with areg := [] } : Chip).logicalLane 16 256 = none := by decide +kernel

/-- Beats: the one on the way and another; the copies of the beat's tenant with an error in one of them. -/
theorem wit_beats :
    ([5#128] : List (BitVec 128)).head? ≠ some 6#128 ∧ ({ up with posted := [5#128] } : Chip).posted = 5#128 :: []
    ∧ (0#12 : BitVec 12).toNat = beatTenant 5#128 ∧ (Instr.meterScrub []).upsets = false ∧ (Instr.beatTake .clean).upsets = false
    ∧ (Instr.meterScrub [.clean]).upsets = true := by decide +kernel

/-- An audit entry in its place, in both copies, and one that is not. -/
theorem wit_audit :
    let e : Audit := { (default : Audit) with sealNo := 3 }
    let m := { busMeter with sealcnt := 3, audit := [(3, e)], restB := { (default : MtrRest) with audit := [(3, e)] } }
    m.auditWf ∧ ¬ ({ m with audit := [(4, e)] } : Meter).auditWf := by
  refine ⟨fun x hx k => ?_, fun h => ?_⟩
  · simp only [List.mem_cons, List.not_mem_nil, or_false, or_self] at hx
    subst hx
    by_cases hk : k = 3
    · subst hk
      exact Or.inr (by decide)
    · exact Or.inl (by simp [tget, Ne.symm hk])
  · rcases h _ (List.mem_cons_self ..) 4 with h | h
    · exact absurd h (by decide)
    · exact absurd h.1 (by decide)

/-! #### The whole block -/

/-- A unit that idles outside a step, on either side of a UCLK-domain cycle; a meter before and at the end of an MCLK cycle. -/
theorem wit_idle :
    (let c := tickUnit; c.clk.held = false ∧ c.tick.holdDue = false ∧ c.tick.missDue = none ∧ c.stp.active = false ∧ c.stp.planDue = none
      ∧ c.merge.held = [] ∧ c.boot = 0 ∧ c.pwr.halved = false ∧ c.clk.uclk0 ≤ c.clk.now)
    ∧ 3 ≤ (booted tickUnit).boot
    ∧ (let c := { tickUnit with pwr := { tickUnit.pwr with halved := true } }; ¬ (c.pwr.halved = false ∨ c.clk.phase = true))
    ∧ busMeter.frac + 1 < 21 ∧ ¬ ({ busMeter with frac := 20 }).frac + 1 < 21 ∧ (default : Meter).powered = false := by decide +kernel

/-- The invariants hold in states with something to keep, and not in every state. -/
theorem wit_invariants :
    (st up).pending = [] ∧ ({ up with psram := [(0, 1), (7, 2)] } : Chip).memWf = true
    ∧ ({ up with psram := [(7, 2), (0, 1)] } : Chip).memWf = false ∧ ({ up with psram := [(7, 0)] } : Chip).memWf = false
    ∧ canonical ([(1, 5)] : SMap Byte) = true := by decide +kernel

/-- A running meter with the shipped configuration keeps the meter's invariant. -/
theorem wit_meter_invariant : ({ busMeter with cfg := MtrCfg.shipped } : Meter).inv := by
  refine ⟨by decide, by decide, by decide, by decide, by decide, by decide, fun one h => ?_⟩
  cases h
  decide

/-- MeterIsolated's hypothesis: a command that is none of the meter's own. -/
theorem wit_isolated : (Instr.ready).meterOwn = false ∧ (Instr.getstatus).meterOwn = true := by decide

/-! #### A plan image that every check takes -/

/-- The header of a plan image with CRC 0: one head on 16 atolls, one column group, one wave of one row, one phase. -/
def planHeader : SMap Byte :=
    [(0, 0x50#8), (1, 0x4C#8), (2, 0x41#8), (3, 0x4E#8), (4, 0x01#8), (8, 0x01#8), (16, 0xE8#8), (17, 0x03#8), (18, 0x01#8), (20,
   0x01#8), (33, 0x08#8), (35, 0x01#8), (41, 0x10#8), (44, 0x20#8), (52, 0x01#8), (59, 0x08#8), (69, 0x20#8), (73, 0x20#8), (77,
   0x01#8), (89, 0x21#8), (93, 0x10#8)] ++
  (List.range 15).map (fun i => (257 + i, 0xFF#8)) ++ [(272, 1#8), (273, 1#8), (274, 1#8), (275, 1#8)]

/-- The plan that header names. -/
def headerPlan : Plan := { (default : Plan) with
  planId := 1, period := 1000, rowCap := 1, pool := 1, head0 := 0x01000800#32, n := 4096, h0 := 32, pieces := 1, bgslot := 8
  regions := [(0, 8192), (8192, 256), (0, 0), (8448, 4096), (0, 0), (0, 0), (0, 0), (0, 0)], waves := List.replicate 16 (1, false)
  layouts := 0 :: List.replicate 15 255, nphase := [1, 1, 1, 1], fences := List.replicate 64 (0, 0) }

/-- The CRC of that image (R280). -/
def planCrc : Nat := crc32 (rdBytes planHeader 0 12 ++ [0, 0, 0, 0] ++ rdBytes planHeader 16 (planImageLen - 16))

/-- A unit with an image at address 0 of package SRAM, and with the image whose CRC is right. -/
def unitWith (crc : Nat) : Chip := { up with psram := wrBytes planHeader 12 (toLE 4 crc) }
def planUnit : Chip := unitWith planCrc

theorem tget_absent {m : SMap Byte} {k : Nat} (h : ∀ e ∈ m, e.1 ≠ k) : tget m k = 0#8 := by
  induction m with
  | nil => rfl
  | cons e r ih =>
    have := h e (List.mem_cons_self ..)
    simp only [tget, if_neg this]
    exact ih fun x hx => h x (List.mem_cons_of_mem _ hx)

theorem rdBytes_apart (m : SMap Byte) (bs : List Byte) (hb : bs.length = 4) (a n : Nat) (h : a + n ≤ 12 ∨ 16 ≤ a) :
    rdBytes (wrBytes m 12 bs) a n = rdBytes m a n := by
  induction n generalizing a with
  | zero => rfl
  | succ n ih =>
    simp only [rdBytes]
    rw [ih _ (by omega), tget_wrBytes_out _ _ _ _ (by omega)]

theorem rdBytes_unitWith (x a n : Nat) (h : a + n ≤ 12 ∨ 16 ≤ a) : rdBytes (unitWith x).psram a n = rdBytes planHeader a n :=
  rdBytes_apart planHeader (toLE 4 x) (toLE_length ..) a n h

theorem rdBytes_planUnit (a n : Nat) (h : a + n ≤ 12 ∨ 16 ≤ a) : rdBytes planUnit.psram a n = rdBytes planHeader a n :=
  rdBytes_unitWith planCrc a n h

theorem img_planUnit (a n : Nat) (h : a + n ≤ 12 ∨ 16 ≤ a) : planUnit.img 0 a n = rdLE planHeader a n := by
  simp only [Chip.img, rdLE, Nat.zero_add, rdBytes_planUnit a n h]

theorem img_unitWith (x : Nat) (h : x < 2 ^ 32) : (unitWith x).img 0 12 4 = x := by
  have := rdBytes_wrBytes planHeader 12 (toLE 4 x)
  rw [toLE_length] at this
  simp only [Chip.img, rdLE, unitWith, Nat.zero_add]
  rw [this, leNat_toLE 4 x h]

theorem crc32_lt (bs : List Byte) : crc32 bs < 2 ^ 32 := by
  have bit : ∀ x, x < 2 ^ 32 → crc32Bit x < 2 ^ 32 := by
    intro x hx
    unfold crc32Bit
    split
    · exact Nat.xor_lt_two_pow (x := x / 2) (y := 0xEDB88320) (n := 32) (Nat.lt_of_le_of_lt (Nat.div_le_self ..) hx) (by decide)
    · omega
  have eight : ∀ n x, x < 2 ^ 32 → iter crc32Bit n x < 2 ^ 32 := by
    intro n
    induction n with
    | zero => exact fun x h => h
    | succ n ih => exact fun x h => ih _ (bit _ h)
  have go : ∀ (l : List Byte) x, x < 2 ^ 32 → l.foldl (fun c (b : Byte) => iter crc32Bit 8 (Nat.xor c b.toNat)) x < 2 ^ 32 := by
    intro l
    induction l with
    | nil => exact fun x h => h
    | cons b r ih =>
      intro x h
      exact ih _ (eight _ _ (Nat.xor_lt_two_pow h (by have := b.isLt; omega)))
  exact Nat.xor_lt_two_pow (n := 32) (go _ _ (by decide)) (by decide)

theorem rdBytes_beyond (n a : Nat) (h : 276 ≤ a) : rdBytes planHeader a n = List.replicate n 0#8 := by
  induction n generalizing a with
  | zero => rfl
  | succ n ih =>
    have far : ∀ e ∈ planHeader, e.1 ≠ a := by
      intro e he
      have : planHeader.all (fun e => decide (e.1 < 276)) = true := by decide +kernel
      have := of_decide_eq_true (List.all_eq_true.mp this e he)
      omega
    simp only [rdBytes, tget_absent far, ih (a + 1) (by omega), List.replicate_succ]

theorem imgWord_planUnit (b w : Nat) : planUnit.imgWord 0 b w = 0 := by
  rw [Chip.imgWord, img_planUnit _ _ (by omega), rdLE, rdBytes_beyond _ _ (by omega)]
  rfl

/-- SET_PLAN: an image that no check refuses. -/
theorem wit_good_plan : planUnit.planRefusal 0 = none ∧ (inbox planUnit 0x0400 0).unit.passed 0 = true := by
  have sound : planUnit.imgSound 0 = true := by
    unfold Chip.imgSound
    rw [img_planUnit 0 4 (by omega), img_planUnit 4 2 (by omega), rdBytes_planUnit 0 12 (by omega), Nat.zero_add,
      rdBytes_planUnit 16 _ (by omega)]
    have crc : planUnit.img 0 12 4 = planCrc := img_unitWith _ (crc32_lt _)
    rw [crc]
    have a : rdLE planHeader 0 4 = 0x4E414C50 ∧ rdLE planHeader 4 2 = 1 := by decide +kernel
    exact decide_eq_true ⟨a.1, a.2, rfl⟩
  let c0 : Chip := { up with psram := planHeader }
  have i : ∀ a n, (a + n ≤ 12 ∨ 16 ≤ a) → planUnit.img 0 a n = c0.img 0 a n := by
    intro a n h
    rw [img_planUnit a n h]
    simp only [c0, Chip.img, Nat.zero_add]
  have same : planUnit.planOf 0 = c0.planOf 0 := by
    unfold Chip.planOf
    simp (disch := omega) only [i]
  have entries : planUnit.badEntries 0 = false := by
    have none : ∀ (l : List Nat) (f : Nat → Bool), (∀ x, f x = false) → l.any f = false := fun l f h => by simp [h]
    refine none _ _ fun b => none _ _ fun e => ?_
    simp only [imgWord_planUnit, Nat.zero_testBit, Bool.false_and, Bool.or_false]
    decide +kernel
  have rsvd : planUnit.imgRsvd 0 = false := by
    unfold Chip.imgRsvd
    simp (disch := omega) only [i, planRsvd, List.any_cons, List.any_nil, Nat.zero_add, rdBytes_planUnit, rdBytes_beyond]
    decide +kernel
  have lit : c0.planOf 0 = headerPlan := by decide +kernel
  rw [lit] at same
  have rest : (headerPlan).bad118 = false ∧ c0.bad143 (headerPlan) = false ∧ ¬ ((headerPlan).merged = true ∧ 1 < (headerPlan).pieces)
      ∧ ¬ ((headerPlan).draftSrc = 1 ∧ cfgCpl (headerPlan).head1.toNat ≠ (headerPlan).cpl) ∧ (headerPlan).bad227 = false
      ∧ (headerPlan).layouts.getD c0.draftN 0xFF ≠ 0xFF ∧ (headerPlan).badHeader = false
      ∧ (headerPlan).badFences = false ∧ (headerPlan).badRegions = false := by decide +kernel
  refine ⟨?_, by decide +kernel⟩
  unfold Chip.planRefusal
  rw [sound, same, entries, rsvd]
  have b143 : planUnit.bad143 (headerPlan) = false := by
    have cur : planUnit.plan.cur = none := by decide +kernel
    simp only [Chip.bad143, cur]
  have dn : planUnit.draftN = c0.draftN := by
    have a : planUnit.draftN = 0 := by decide +kernel
    have b : c0.draftN = 0 := by decide +kernel
    rw [a, b]
  simp only [b143, dn, rest.1, rest.2.2.1, rest.2.2.2.1, rest.2.2.2.2.1, rest.2.2.2.2.2.1, rest.2.2.2.2.2.2.1, rest.2.2.2.2.2.2.2.1,
    rest.2.2.2.2.2.2.2.2, Bool.not_true, Bool.false_eq_true, if_false, Bool.or_self]

end Sys2Proof.Tests
end

section
/-!
The byte memories, and the refutation of what is stated of a holdover tick.
-/
namespace Sys2Proof.Machine

/-! ### Byte memories (R9, R23, R24) -/

/-- A stored little-endian number reads back (R9). -/
theorem rdLE_wrBytes_toLE (m : SMap Byte) (a n v : Nat) (h : v < 256 ^ n) : rdLE (wrBytes m a (toLE n v)) a n = v := by
  have back := rdBytes_wrBytes m a (toLE n v)
  rw [toLE_length] at back
  rw [rdLE, back, leNat_toLE n v h]

/-- Settles O56, from the laws of the sparse tables: each write of a byte reads back, leaves the other addresses alone and keeps
the canonical form, in which a memory is what it reads as. -/
theorem memoryOperations : Obligations.MemoryOperations :=
  ⟨fun m a bs => ⟨rdBytes_wrBytes m a bs, fun k hk => tget_wrBytes_out m a k bs hk, wrBytes_canonical m a bs⟩,
    rdLE_wrBytes_toLE, canonical_ext⟩

/-! ### A holdover tick that restarts the boot -/

/-- The unit as BIST leaves it: each fault it has found is repaired in the map, and the boot ROM runs next (R347, R400). -/
def Chip.bistDone (c : Chip) : Chip :=
  let u := c.rpr.bist.foldl Chip.bistFault c
  { u.setBoot 2 with rpr := { u.rpr with bist := [] } }

/-- BIST has ended 130 ms after reset release, whatever time the silicon needs for it (R347). -/
theorem Chip.bootRun_of_bist (c : Chip) (stage : c.boot = 1) (late : 136500000 ≤ c.clk.now) : c.bootRun = c.bistDone := by
  unfold Chip.bootRun
  rw [if_pos ⟨stage, Nat.le_trans (Nat.min_le_right _ _) late⟩]
  rfl

/-- A UCLK-domain cycle in the step part of the unit (R57, R67). -/
theorem Chip.clock_stp (c : Chip) (up : c.clk.held = false) (whole : c.pwr.halved = false) (on : c.clk.uclk0 ≤ c.clk.now) :
    c.clock.stp =
      (c.fclkEvents (fclk (c.clk.now + 1 - c.clk.fclk0) - fclk (c.clk.now - c.clk.fclk0))).holdoverTick.bootRun.beat.stp := by
  simp [Chip.clock, up, whole, on]

/-- A READY unit, 130 ms after reset release, at whose holdover instant a register write waits that moves UNIT_STATUS.BOOT back to
BIST; a port has failed while the spare port is in service. -/
def rebootUnit : Chip :=
  { (default : Chip) with
    clk := { (default : Clocks) with now := 136500000 }
    tick := { (default : TickSt) with holdDue := true }
    ureg := [(0x008, 1#32), (0x00C, 7#32), (0x168, 0x80000000#32)]
    regNext := [(0x00C, some 2#32)]
    rpr := { (default : RprSt) with bist := [.port 0] } }

/-- The step that the tick has started is gone at the end of its own cycle: BIST finds the failed port with no spare left, and the
unit fail-stops (R386, R400). -/
theorem rebootUnit_clock_idle : rebootUnit.clock.stp.active = false := by
  have stage : (rebootUnit.fclkEvents (fclk (136500000 + 1) - fclk 136500000)).holdoverTick.boot = 1 := by decide +kernel
  have late : 136500000 ≤ (rebootUnit.fclkEvents (fclk (136500000 + 1) - fclk 136500000)).holdoverTick.clk.now := by decide +kernel
  have stops : (rebootUnit.fclkEvents (fclk (136500000 + 1) - fclk 136500000)).holdoverTick.bistDone.beat.stp.active = false := by
    decide +kernel
  rw [Chip.clock_stp rebootUnit rfl rfl (Nat.zero_le _)]
  exact (congrArg (fun d : Chip => d.beat.stp.active) (Chip.bootRun_of_bist _ stage late)).trans stops

/-- Refutes O34: `HoldoverTickPart` lets a pending write of UNIT_STATUS (0x00C) take effect at the tick that starts the step; one
that moves BOOT back to BIST, which then finds a port without a spare, fail-stops the unit in that same cycle, and no step is in
progress when the cycle is over. -/
theorem not_tickPulses : ¬ Obligations.TickPulses := by
  unfold Obligations.TickPulses HoldoverTickPart
  rintro ⟨-, -, counts⟩
  obtain ⟨t, ran, -, -, -, -, -, -, -, -, -, -, started⟩ :=
    counts { pending := [], unit := rebootUnit, meter := default } rfl rfl rfl (by decide)
  have starts : rebootUnit.tickStarts := by unfold Chip.tickStarts; decide +kernel
  have booted : 3 ≤ rebootUnit.boot := by decide +kernel
  have unit : t.unit = rebootUnit.clock := by
    cases ran
    rfl
  have active := (started starts booted).1
  rw [unit, rebootUnit_clock_idle] at active
  cases active

end Sys2Proof.Machine
end

section
/-!
Writes of the register window by the host: where a write goes, and what a write of a plain register, of reserved space and of
instruction memory changes.
-/
namespace Sys2Proof.Machine

variable {c x y : Chip}

/-! ### What the calm part keeps -/

theorem Chip.setReg_calm_congr (h : x.calm = y.calm) (o : Nat) (w : Word) : (x.setReg o w).calm = (y.setReg o w).calm := by
  have regs : quiet (tset x.ureg o w) = quiet (tset y.ureg o w) := quiet_ext fun k hk => by
    have same : tget x.ureg k = tget y.ureg k := Chip.reg_of_calm h k hk
    rw [tget_tset, tget_tset, same]
  calc (x.setReg o w).calm = { x.calm with ureg := quiet (tset x.ureg o w) } := rfl
    _ = { y.calm with ureg := quiet (tset y.ureg o w) } := by rw [h, regs]

theorem Chip.setNext_calm_congr (h : x.calm = y.calm) (o : Nat) (w : Word) : (x.setNext o w).calm = (y.setNext o w).calm := by
  calc (x.setNext o w).calm = { x.calm with regNext := tset x.regNext o (some w) } := rfl
    _ = { y.calm with regNext := tset y.regNext o (some w) } := by rw [h, Chip.regNext_of_calm h]

@[simp] theorem Chip.noteRsvd_calm (o rsvd : Nat) (val : Word) : (c.noteRsvd o rsvd val).calm = c.calm := by
  unfold Chip.noteRsvd
  split
  · exact Chip.note_calm _ _ _ _ _
  · rfl

@[simp] theorem Chip.noteValue_calm (o : Nat) (val : Word) (bad : Bool) : (c.noteValue o val bad).calm = c.calm := by
  unfold Chip.noteValue
  split
  · exact Chip.note_calm _ _ _ _ _
  · rfl

/-- A write whose reserved bits are 0 is not logged (R13). -/
theorem Chip.noteRsvd_of_clear {rsvd : Nat} {val : Word} (o : Nat) (small : rsvd < 2 ^ 32) (clear : val &&& BitVec.ofNat 32 rsvd = 0#32) :
    c.noteRsvd o rsvd val = c := by
  have land : Nat.land val.toNat rsvd = 0 := by
    have bits := congrArg BitVec.toNat clear
    rwa [BitVec.toNat_and, BitVec.toNat_ofNat, Nat.mod_eq_of_lt small] at bits
  unfold Chip.noteRsvd
  rw [if_neg (not_not_intro land)]

/-! ### Where a write of the window goes (R453 to R457) -/

theorem Chip.hostWrite_held (held : c.clk.held = true) (off : Nat) (val : Word) : c.hostWrite off val = c := by
  simp [Chip.hostWrite, held]

/-- What a refused access leaves: the record, and the count of the interval (R456). -/
theorem Chip.refuseAccess_eq (cause : Nat) {off : Nat} (small : off < 2 ^ 24) :
    c.refuseAccess cause off =
      ({ c with bus := (c.refuseAccess cause off).bus } : Chip).setReg 0x01C (BitVec.ofNat 32 (2 ^ 30 * cause + off)) := by
  have word : pack [(cause, 30), (off % 2 ^ 24, 0)] = 2 ^ 30 * cause + off := by
    rw [Nat.mod_eq_of_lt small]
    simp [pack, Nat.mul_comm]
  rw [← word]
  rfl

theorem Chip.hostWrite_reserved (out : c.clk.held = false) {off : Nat} (rsvd : reservedWord (off / 4 * 4) = true) (val : Word) :
    c.hostWrite off val = c.refuseAccess 0 off := by
  unfold Chip.hostWrite
  rw [if_neg (by simp [out])]
  split
  · simp [Chip.widthRefused, Chip.refusal, out, rsvd]
  · next aligned =>
    have whole : off / 4 * 4 = off := by omega
    rw [whole] at rsvd
    rw [if_pos rsvd]

theorem Chip.hostWrite_misaligned (out : c.clk.held = false) {off : Nat} (odd : off % 4 ≠ 0)
    (named : reservedWord (off / 4 * 4) = false) (val : Word) : c.hostWrite off val = c.refuseAccess 2 off := by
  simp [Chip.hostWrite, Chip.widthRefused, Chip.refusal, out, odd, named]

theorem Chip.hostWrite_ctrlPage (out : c.clk.held = false) {off : Nat} (aligned : off % 4 = 0) (page : off < 0x1000)
    (named : reservedWord off = false) (val : Word) : c.hostWrite off val = c.writeCtrlPage off val := by
  unfold Chip.hostWrite inCounters
  simp (disch := omega) only [out, aligned, named, page, decide_eq_true_eq, ne_eq, not_true_eq_false, Bool.false_eq_true, if_false, if_true,
    if_neg]

theorem Chip.hostWrite_meter (out : c.clk.held = false) {off : Nat} (aligned : off % 4 = 0) (lo : 0x800000 ≤ off) (hi : off < 0x810000)
    (named : reservedWord off = false) (val : Word) : c.hostWrite off val = c.note .mtrWrite := by
  unfold Chip.hostWrite inCounters
  simp (disch := omega) only [out, aligned, named, lo, hi, decide_eq_true_eq, ne_eq, not_true_eq_false, Bool.false_eq_true, if_false,
    if_true, if_neg, and_self]

theorem Chip.hostWrite_cons (out : c.clk.held = false) (d : BitVec 12) (val : Word) :
    c.hostWrite (0x80000 + 16 * d.toNat) val = { c with cons := tset c.cons d.toNat val } := by
  have small := d.isLt
  have named : reservedWord (0x80000 + 16 * d.toNat) = false := by
    unfold reservedWord
    simp (disch := omega) only [if_neg, if_pos]
  unfold Chip.hostWrite inCounters
  have whole : (0x80000 + 16 * d.toNat - 0x80000) / 16 = d.toNat := by omega
  simp (disch := omega) only [out, named, decide_eq_true_eq, Bool.false_eq_true, if_false, if_neg, if_pos, whole]
  rfl

/-! ### The unit control page -/

/-- The rows of the page stand at word offsets below 0x1000. -/
theorem ctrlRow_some {off : Nat} {r : RegRow} (h : ctrlRow off = some r) : r.off = off ∧ off % 4 = 0 ∧ off < 0x1000 := by
  have rows : ∀ r ∈ ctrlRows1 ++ ctrlRows2 ++ ctrlRows3 ++ portRows, r.off % 4 = 0 ∧ r.off < 0x1000 := by decide +kernel
  have same : r.off = off := by simpa using List.find?_some h
  have inPage := rows r (List.mem_of_find?_eq_some h)
  rw [same] at inPage
  exact ⟨same, inPage⟩

theorem reservedWord_ctrlRow {off : Nat} {r : RegRow} (h : ctrlRow off = some r) : reservedWord off = false := by
  unfold reservedWord
  rw [if_pos (ctrlRow_some h).2.2, h]
  rfl

/-- A write of a row: RW bits take the value, a 1 clears an RW1C bit that hardware has not set in this cycle (R11, R12). -/
theorem Chip.writeRow_calm (r : RegRow) (val : Word) :
    (c.writeRow r val).calm = (c.setReg r.off ((c.reg r.off &&& ~~~ BitVec.ofNat 32 r.rw
      &&& ~~~ (BitVec.ofNat 32 r.w1c &&& val &&& ~~~ tget c.cyc.set r.off)) ||| (val &&& BitVec.ofNat 32 r.rw))).calm := by
  unfold Chip.writeRow Chip.clears
  rw [Chip.noteRsvd_calm, BitVec.and_assoc (c.reg r.off), BitVec.and_comm (~~~ _) (~~~ BitVec.ofNat 32 r.rw), ← BitVec.and_assoc]

theorem foldl_calm {α : Type} (f : Chip → α → Chip) (l : List α) (h : ∀ c i, (f c i).calm = c.calm) : (l.foldl f c).calm = c.calm :=
  foldl_keeps Chip.calm f h l c

/-- UNIT_IRQSTAT is a register that events write. -/
theorem Chip.writeIrqstat_calm (val : Word) : (c.writeIrqstat val).calm = c.calm := by
  unfold Chip.writeIrqstat
  rw [foldl_calm]
  · rw [Chip.noteRsvd_calm, Chip.setReg_calm _ _ rfl]
  · intro d i
    split
    · exact Chip.msix_calm i
    · rfl

/-- A write of a register without rules of its own is that of its row; UNIT_IRQSTAT and UNIT_LOGSTAT differ in what events change. -/
theorem Chip.writeCtrlPage_calm {off : Nat} {r : RegRow} (row : ctrlRow off = some r)
    (plain : off ∉ [0x008, 0x020, 0x090, 0x0D4, 0x0D8, 0x0DC, 0x124, 0x12C]) (val : Word) :
    (c.writeCtrlPage off val).calm = (c.setReg off ((c.reg off &&& ~~~ BitVec.ofNat 32 r.rw
      &&& ~~~ (BitVec.ofNat 32 r.w1c &&& val &&& ~~~ tget c.cyc.set off)) ||| (val &&& BitVec.ofNat 32 r.rw))).calm := by
  have same := (ctrlRow_some row).1
  simp only [List.mem_cons, List.not_mem_nil, or_false, not_or] at plain
  obtain ⟨h1, h2, h3, h4, h5, h6, h7, h8⟩ := plain
  unfold Chip.writeCtrlPage
  simp only [h1, h2, h3, h4, h5, h6, h7, h8, or_self, if_false, row]
  split
  · next irqstat =>
    subst irqstat
    rw [Chip.writeIrqstat_calm, Chip.setReg_calm _ _ rfl]
  · split
    · next logstat =>
      unfold Chip.writeLogstat
      rw [Chip.writeRow_calm, same]
      rfl
    · rw [Chip.writeRow_calm, same]

/-- A write to the active instruction bank is recorded in ATL_IBANK (R281). -/
theorem Chip.imemWrite_calm (p : Nat) {bank : Bool} (out : c.clk.held = false) (active : bank = c.bankSel) :
    (c.imemWrite p bank).calm = (c.setAtl p 0x64 (c.atlReg p 0x64 ||| 2#32)).calm := by
  unfold Chip.imemWrite
  rw [if_neg (by simp [out, active]), Chip.note_calm]
  exact Chip.mark_calm _ _

theorem exec_registerWrite (off : BitVec 24) (val : Word) (s : State) :
    exec (.registerWrite off ⟨val, none⟩) s = .next { s with unit := s.unit.hostWrite off.toNat val } := rfl

theorem exec_imemWrite (off : BitVec 24) (val : Word) (x : Fin 17 × Bool) (s : State) :
    exec (.registerWrite off ⟨val, some x⟩) s = .next { s with unit := s.unit.imemWrite x.1.val x.2 } := rfl

/-- Plain and dropped writes (R11 to R13, R281, R455, R456). -/
theorem writePart : WritePart := by
  unfold WritePart
  refine ⟨fun off val s held => ?_, fun off val r s out row plain => ?_, fun off val s out rsvd => ?_,
    fun off val s out aligned lo hi named => ?_, fun off val s out odd named => ?_, fun x off val s => ⟨fun dropped => ?_, fun out active => ?_⟩⟩
  · rw [exec_registerWrite, Chip.hostWrite_held held]
  · obtain ⟨-, aligned, page⟩ := ctrlRow_some row
    refine ⟨_, exec_registerWrite off val s, rfl, ?_⟩
    show (s.unit.hostWrite off.toNat val).calm = _
    rw [Chip.hostWrite_ctrlPage out aligned page (reservedWord_ctrlRow row), Chip.writeCtrlPage_calm row plain]
  · have record := Chip.refuseAccess_eq (c := s.unit) 0 off.isLt
    rw [Nat.mul_zero, Nat.zero_add] at record
    refine ⟨_, exec_registerWrite off val s, rfl, ?_⟩
    show (s.unit.hostWrite off.toNat val).reg 0x01C = _ ∧ (s.unit.hostWrite off.toNat val).calm = Chip.calm (Chip.setReg
      { s.unit with bus := (s.unit.hostWrite off.toNat val).bus } 0x01C (BitVec.ofNat 32 off.toNat))
    rw [Chip.hostWrite_reserved out rsvd]
    exact ⟨by rw [record, Chip.reg_setReg, if_pos rfl], congrArg Chip.calm record⟩
  · refine ⟨_, exec_registerWrite off val s, rfl, ?_⟩
    show (s.unit.hostWrite off.toNat val).calm = _
    rw [Chip.hostWrite_meter out aligned lo hi named, Chip.note_calm]
  · have record := Chip.refuseAccess_eq (c := s.unit) 2 off.isLt
    refine ⟨_, exec_registerWrite off val s, rfl, ?_⟩
    show (s.unit.hostWrite off.toNat val).calm = Chip.calm (Chip.setReg
      { s.unit with bus := (s.unit.hostWrite off.toNat val).bus } 0x01C (BitVec.ofNat 32 (2 ^ 31 + off.toNat)))
    rw [Chip.hostWrite_misaligned out odd named]
    exact congrArg Chip.calm record
  · have same : s.unit.imemWrite x.1.val x.2 = s.unit := by
      unfold Chip.imemWrite
      rw [if_pos dropped]
    rw [exec_imemWrite, same]
  · exact ⟨_, exec_imemWrite off val x s, rfl, Chip.imemWrite_calm x.1.val out active⟩

end Sys2Proof.Machine
end

section
/-!
Writes of the register window with rules of their own: UNIT_CTRL, UNIT_MERGECFG, the parking registers, CONS, UNIT_IRQMASK.
-/
namespace Sys2Proof.Machine

variable {c x y : Chip}

/-! ### Interrupt messages (R345, R346) -/

@[simp] theorem Chip.msix_ureg (i : Nat) : (c.msix i).ureg = c.ureg := by
  unfold Chip.msix
  split <;> rfl

/-- A source's message leaves once in a cycle (R346). -/
theorem Chip.msix_out (i : Nat) : (c.msix i).out = if c.cyc.sent.getLsbD i then c.out else c.out ++ [.msix (c.irqVector i)] := by
  unfold Chip.msix
  split <;> rfl

/-- The message of one source leaves the marks of the others alone. -/
theorem Chip.msix_sent {i j : Nat} (other : i ≠ j) : (c.msix i).cyc.sent.getLsbD j = c.cyc.sent.getLsbD j := by
  unfold Chip.msix
  split
  · rfl
  · show (c.cyc.sent ||| 1#16 <<< i).getLsbD j = _
    rcases Nat.lt_or_gt_of_ne other with before | after
    · simp [Nat.sub_ne_zero_of_lt before]
    · simp [after]

/-- What one source does as UNIT_IRQMASK is written: masked until now, it sends its message if it is pending. -/
def Chip.unmask (old val : Word) (c : Chip) (i : Nat) : Chip :=
  if old.getLsbD i ∧ !val.getLsbD i ∧ c.rbit 0x128 i then c.msix i else c

/-- Does a source send its message as UNIT_IRQMASK goes from one value to another? -/
def Chip.unmaskSends (c : Chip) (old val : Word) (i : Nat) : Bool :=
  old.getLsbD i && !val.getLsbD i && c.rbit 0x128 i && !c.cyc.sent.getLsbD i

@[simp] theorem Chip.unmask_ureg (old val : Word) (i : Nat) : (c.unmask old val i).ureg = c.ureg := by
  unfold Chip.unmask
  split <;> simp

theorem Chip.unmask_calm (old val : Word) (i : Nat) : (c.unmask old val i).calm = c.calm := by
  unfold Chip.unmask
  split <;> simp

theorem Chip.unmask_out (old val : Word) (i : Nat) :
    (c.unmask old val i).out = c.out ++ if c.unmaskSends old val i then [.msix (c.irqVector i)] else [] := by
  unfold Chip.unmask Chip.unmaskSends
  split
  · next sends => rw [Chip.msix_out]; split <;> simp_all
  · next stays => simp_all

theorem Chip.unmaskSends_unmask (old val : Word) {i j : Nat} (other : i ≠ j) :
    (c.unmask old val i).unmaskSends old val j = c.unmaskSends old val j := by
  unfold Chip.unmask
  split
  · simp [Chip.unmaskSends, Chip.rbit, Chip.reg, Chip.msix_sent other]
  · rfl

/-- The sources send in order, each at most once. -/
theorem Chip.foldl_unmask_out (old val : Word) (l : List Nat) (once : l.Nodup) (c : Chip) :
    (l.foldl (Chip.unmask old val) c).out = c.out ++ (l.filter (c.unmaskSends old val)).map fun i => .msix (c.irqVector i) := by
  induction l generalizing c with
  | nil => simp
  | cons i r ih =>
    obtain ⟨first, rest⟩ := List.nodup_cons.mp once
    have later : r.filter ((c.unmask old val i).unmaskSends old val) = r.filter (c.unmaskSends old val) :=
      List.filter_congr fun j hj => Chip.unmaskSends_unmask old val (by rintro rfl; exact first hj)
    have vector : ∀ j, (c.unmask old val i).irqVector j = c.irqVector j := fun j => by simp [Chip.irqVector, Chip.reg]
    rw [List.foldl_cons, ih rest, later, Chip.unmask_out, List.filter_cons]
    simp only [vector]
    split <;> simp

/-! ### Writes with rules of their own -/

/-- UNIT_IRQMASK takes the value, and unmasked pending sources send their messages (R345, R346). -/
theorem Chip.writeIrqmask_eq {val : Word} (clear : val &&& 0xFFFF0000#32 = 0#32) :
    c.writeIrqmask val = (List.range 16).foldl (Chip.unmask (c.reg 0x12C) val) (c.setReg 0x12C val) := by
  have low : val &&& 0xFFFF#32 = val := calc
    val &&& 0xFFFF#32 = val &&& 0xFFFF#32 ||| val &&& 0xFFFF0000#32 := by rw [clear, BitVec.or_zero]
    _ = val &&& BitVec.allOnes 32 := BitVec.and_or_distrib_left.symm
    _ = val := BitVec.and_allOnes
  unfold Chip.writeIrqmask
  rw [Chip.noteRsvd_of_clear _ (by omega) clear, low]
  rfl

/-- The bits of a value under a mask are those that a wider mask shows. -/
theorem and_of_and_eq {val wide narrow w : Word} (h : val &&& wide = w) (sub : wide &&& narrow = narrow) :
    val &&& narrow = w &&& narrow := by
  rw [← h, BitVec.and_assoc, sub]

theorem getLsbD_of_and_eq {val mask w : Word} {i : Nat} (h : val &&& mask = w) (shown : mask.getLsbD i = true) :
    val.getLsbD i = w.getLsbD i := by
  rw [← h, BitVec.getLsbD_and, shown, Bool.and_true]

theorem Chip.hostWrite_ctrl (out : c.clk.held = false) (val : Word) : c.hostWrite 0x008 val = c.writeCtrl val :=
  Chip.hostWrite_ctrlPage out rfl (by decide) (by decide +kernel) val

/-- RUN is cleared, and holdover ends (R45, R46). -/
def Chip.runCleared (c : Chip) : Chip := ({ c with tick := { c.tick with inHold := false, holdDue := false } } : Chip).clrReg 0x008 1#32

/-- Clearing RUN leaves READY as it is, so the accepted commands are due at once where the unit is READY and no step runs (R327). -/
theorem Chip.stopRun_eq : c.stopRun = if c.ready ∧ !c.stp.active then c.runCleared.markDue else c.runCleared := by
  have same : c.runCleared.ready = c.ready := by
    unfold Chip.runCleared Chip.ready Chip.rbit
    rw [Chip.reg_clrReg, if_neg (by decide)]
    rfl
  rw [← same]
  rfl

/-- A write of UNIT_CTRL without RESET sets or clears RUN (R45, R46). -/
theorem Chip.writeCtrl_run {val : Word} (plain : val &&& 0xFFFF00FE#32 = 0#32) :
    c.writeCtrl val = if val.getLsbD 0 then (if c.stopped ∨ c.run then c else c.startRun) else if c.run then c.stopRun else c := by
  have clear : val &&& 0xFFFF00FA#32 = 0#32 := by simpa using and_of_and_eq (narrow := 0xFFFF00FA#32) plain (by decide)
  have stays : val.getLsbD 2 = false := getLsbD_of_and_eq plain (by decide)
  unfold Chip.writeCtrl
  rw [Chip.noteRsvd_of_clear _ (by omega) clear]
  simp only [stays, Chip.noteValue, Bool.false_eq_true, false_and, if_false]

/-- A write of UNIT_CTRL with RESET and its key (R477). -/
theorem Chip.writeCtrl_reset {val : Word} (reset : val &&& 0xFFFF00FE#32 = 4#32) (key : (val >>> 8) &&& 0xFF#32 = 0xA5#32) :
    c.writeCtrl val = c.resetUnit := by
  have clear : val &&& 0xFFFF00FA#32 = 0#32 := by simpa using and_of_and_eq (narrow := 0xFFFF00FA#32) reset (by decide)
  have asks : val.getLsbD 2 = true := getLsbD_of_and_eq reset (by decide)
  have keyed : fld val.toNat 15 8 = 0xA5 := by
    have low : (val.toNat >>> 8) &&& (2 ^ 8 - 1) = 0xA5 := by simpa using congrArg BitVec.toNat key
    rwa [Nat.and_two_pow_sub_one_eq_mod, Nat.shiftRight_eq_div_pow] at low
  unfold Chip.writeCtrl
  rw [Chip.noteRsvd_of_clear _ (by omega) clear, if_pos ⟨asks, keyed⟩]

/-- UNIT_MERGECFG: an INDEX above SIZEM1 changes nothing; any other value waits for the next tick (R207). -/
theorem Chip.writeMergecfg_calm (val : Word) :
    (c.writeMergecfg val).calm = if fld val.toNat 5 0 < fld val.toNat 13 8 then c.calm else (c.setNext 0x090 (val &&& 0x80FF3F3F#32)).calm := by
  unfold Chip.writeMergecfg
  split
  · rw [Chip.noteValue_calm, Chip.noteRsvd_calm]
  · exact Chip.setNext_calm_congr (Chip.noteRsvd_calm _ _ _) _ _

/-- The reserved bits of a parking register (R275). -/
def parkRsvd (off : Nat) : Nat := if off = 0x0D4 then 0xFFFFFF00 else if off = 0x0D8 then 0x00000FFF else 0xFFFF0000

/-- A parking register: locked while a request is parked; any other value waits for the next tick (R275). -/
theorem Chip.writePark_calm (off : Nat) (val : Word) :
    (c.writePark off val).calm = if c.anyParked then c.calm else (c.setNext off (val &&& ~~~ BitVec.ofNat 32 (parkRsvd off))).calm := by
  have quiet := Chip.noteRsvd_calm (c := c) off (parkRsvd off) val
  have parked : (c.noteRsvd off (parkRsvd off) val).anyParked = c.anyParked := by
    unfold Chip.anyParked
    rw [Chip.req_of_calm quiet]
  show Chip.calm (if (c.noteRsvd off (parkRsvd off) val).anyParked then (c.noteRsvd off (parkRsvd off) val).note .parkBusy 0 off val.toNat
    else (c.noteRsvd off (parkRsvd off) val).setNext off (val &&& ~~~ BitVec.ofNat 32 (parkRsvd off))) = _
  rw [parked]
  split
  · rw [Chip.note_calm, quiet]
  · exact Chip.setNext_calm_congr quiet _ _

theorem exec_parkConfigWrite {off : BitVec 24} (names : off.toNat = 0x0D4 ∨ off.toNat = 0x0D8 ∨ off.toNat = 0x0DC) (val : Word) (s : State) :
    exec (.parkConfigWrite off val) s = .next { s with unit := s.unit.hostWrite off.toNat val } := by
  show Host.Outcome.next { s with unit := ite _ _ _ } = _
  rw [if_pos names]

theorem Chip.hostWrite_park (out : c.clk.held = false) {off : Nat} (names : off = 0x0D4 ∨ off = 0x0D8 ∨ off = 0x0DC) (val : Word) :
    c.hostWrite off val = c.writePark off val := by
  have named : reservedWord off = false := by rcases names with rfl | rfl | rfl <;> decide +kernel
  rw [Chip.hostWrite_ctrlPage out (by omega) (by omega) named]
  unfold Chip.writeCtrlPage
  simp (disch := omega) only [if_neg, if_pos names]

/-- RUN, RESET, UNIT_MERGECFG, the parking registers, CONS and UNIT_IRQMASK. -/
theorem specialWritesPart : SpecialWritesPart := by
  unfold SpecialWritesPart
  intro val s
  refine ⟨fun held => ?_, fun out => ⟨fun plain => ?_, fun reset key => ?_, ?_, fun p hp => ?_, fun d => ?_, fun clear => ?_⟩⟩
  · have drop := fun off => Chip.hostWrite_held held off val
    refine ⟨?_, ?_, ?_, ?_⟩ <;> exact congrArg (fun u => Host.Outcome.next { s with unit := u }) (drop _)
  · show Host.Outcome.next { s with unit := s.unit.hostWrite 0x008 val } = _
    rw [Chip.hostWrite_ctrl out, Chip.writeCtrl_run plain, Chip.stopRun_eq]
    rfl
  · show Host.Outcome.next { s with unit := s.unit.hostWrite 0x008 val } = _
    rw [Chip.hostWrite_ctrl out, Chip.writeCtrl_reset reset key]
    rfl
  · have write : s.unit.hostWrite 0x090 val = s.unit.writeMergecfg val :=
      Chip.hostWrite_ctrlPage out rfl (by decide) (by decide +kernel) val
    have calm := congrArg Chip.calm write
    rw [Chip.writeMergecfg_calm] at calm
    exact ⟨_, rfl, rfl, fun fits => calm.trans (if_neg (by omega)), fun beyond => calm.trans (if_pos beyond)⟩
  · have row : (p.1.toNat = 0x0D4 ∨ p.1.toNat = 0x0D8 ∨ p.1.toNat = 0x0DC) ∧ ~~~ BitVec.ofNat 32 (parkRsvd p.1.toNat) = p.2 := by
      simp only [List.mem_cons, List.not_mem_nil, or_false] at hp
      rcases hp with rfl | rfl | rfl <;> decide
    have calm := congrArg Chip.calm (Chip.hostWrite_park out row.1 val)
    rw [Chip.writePark_calm, row.2] at calm
    exact ⟨_, exec_parkConfigWrite row.1 val s, rfl, fun parked => calm.trans (if_pos parked),
      fun free => calm.trans (if_neg (by simp [free]))⟩
  · show Host.Outcome.next { s with unit := s.unit.hostWrite (0x80000 + 16 * d.toNat) val } = _
    rw [Chip.hostWrite_cons out]
  · have write : s.unit.hostWrite 0x12C val = s.unit.writeIrqmask val :=
      Chip.hostWrite_ctrlPage out rfl (by decide) (by decide +kernel) val
    rw [Chip.writeIrqmask_eq clear] at write
    refine ⟨_, rfl, rfl, ?_, ?_, ?_⟩
    · show (s.unit.hostWrite 0x12C val).calm = _
      rw [write, foldl_calm _ _ fun c i => Chip.unmask_calm _ _ i]
    · show (s.unit.hostWrite 0x12C val).ureg = _
      rw [write, foldl_keeps Chip.ureg _ fun c i => Chip.unmask_ureg _ _ i]
      rfl
    · show (s.unit.hostWrite 0x12C val).out = _
      have sends : (s.unit.setReg 0x12C val).unmaskSends (s.unit.reg 0x12C) val = s.unit.unmaskSends (s.unit.reg 0x12C) val := by
        funext i
        simp [Chip.unmaskSends, Chip.rbit]
      have vector : ∀ i, (s.unit.setReg 0x12C val).irqVector i = s.unit.irqVector i := fun i => by
        unfold Chip.irqVector
        rw [Chip.reg_setReg, if_neg (by omega)]
      rw [write, Chip.foldl_unmask_out _ _ _ List.nodup_range, sends]
      simp only [vector, Chip.setReg_out]
      rfl

end Sys2Proof.Machine
end

section
/-!
Writes of the limit registers by a controller, field by field.
-/
namespace Sys2Proof.Machine

variable {c d x y : Chip}

/-! ### Fields of a register -/

theorem two_pow_mul_two_pow_sub {m n : Nat} (h : m ≤ n) : 2 ^ m * 2 ^ (n - m) = 2 ^ n := by
  rw [Nat.mul_comm, Nat.pow_sub_mul_pow 2 h]

/-- A register with one field written: what stands above the field, the field, what stands below it. -/
theorem toNat_setField {hi lo v : Nat} (w : Word) (order : lo ≤ hi) (inside : hi < 32) (room : v < 2 ^ (hi + 1 - lo)) :
    (setField w hi lo v).toNat = 2 ^ lo * (2 ^ (hi + 1 - lo) * (w.toNat / 2 ^ (hi + 1)) + v) + w.toNat % 2 ^ lo := by
  have width : 2 ^ lo * 2 ^ (hi + 1 - lo) = 2 ^ (hi + 1) := two_pow_mul_two_pow_sub (by omega)
  have top : 2 ^ (hi + 1) * 2 ^ (32 - (hi + 1)) = 2 ^ 32 := two_pow_mul_two_pow_sub inside
  have parts : 2 ^ lo * (2 ^ (hi + 1 - lo) * (w.toNat / 2 ^ (hi + 1)) + fld w.toNat hi lo) + w.toNat % 2 ^ lo = w.toNat := by
    have upper : w.toNat / 2 ^ lo / 2 ^ (hi + 1 - lo) = w.toNat / 2 ^ (hi + 1) := by rw [Nat.div_div_eq_div_mul, width]
    rw [fld, ← upper, Nat.div_add_mod, Nat.div_add_mod]
  have high : w.toNat / 2 ^ (hi + 1) < 2 ^ (32 - (hi + 1)) := Nat.div_lt_of_lt_mul (by rw [top]; exact w.isLt)
  have low : w.toNat % 2 ^ lo < 2 ^ lo := Nat.mod_lt _ (Nat.two_pow_pos _)
  have fits : 2 ^ lo * (2 ^ (hi + 1 - lo) * (w.toNat / 2 ^ (hi + 1)) + v) + w.toNat % 2 ^ lo < 2 ^ 32 := calc
    _ < 2 ^ lo * (2 ^ (hi + 1 - lo) * (w.toNat / 2 ^ (hi + 1)) + v + 1) := by rw [Nat.mul_succ]; omega
    _ ≤ 2 ^ lo * (2 ^ (hi + 1 - lo) * (w.toNat / 2 ^ (hi + 1) + 1)) := Nat.mul_le_mul_left _ (by rw [Nat.mul_succ]; omega)
    _ = 2 ^ (hi + 1) * (w.toNat / 2 ^ (hi + 1) + 1) := by rw [← Nat.mul_assoc, width]
    _ ≤ 2 ^ 32 := top ▸ Nat.mul_le_mul_left _ high
  have value : w.toNat - fld w.toNat hi lo * 2 ^ lo + v * 2 ^ lo =
      2 ^ lo * (2 ^ (hi + 1 - lo) * (w.toNat / 2 ^ (hi + 1)) + v) + w.toNat % 2 ^ lo := by
    rw [Nat.mul_add] at parts ⊢
    rw [Nat.mul_comm _ (2 ^ lo), Nat.mul_comm v]
    omega
  rw [setField, value, BitVec.toNat_ofNat, Nat.mod_eq_of_lt fits]

/-- A written field reads back. -/
theorem fld_setField_same {hi lo v : Nat} (w : Word) (order : lo ≤ hi) (inside : hi < 32) (room : v < 2 ^ (hi + 1 - lo)) :
    fld (setField w hi lo v).toNat hi lo = v := by
  rw [toNat_setField w order inside room, fld, Nat.mul_add_div (Nat.two_pow_pos _), Nat.div_eq_of_lt (Nat.mod_lt _ (Nat.two_pow_pos _)),
    Nat.add_zero, Nat.mul_add_mod, Nat.mod_eq_of_lt room]

/-- A field is what stands below its high bit, without what stands below its low bit. -/
theorem fld_eq_mod_div {hi lo : Nat} (n : Nat) (order : lo ≤ hi) : fld n hi lo = n % 2 ^ (hi + 1) / 2 ^ lo := by
  have width : 2 ^ (hi + 1) = 2 ^ lo * 2 ^ (hi + 1 - lo) := (two_pow_mul_two_pow_sub (by omega)).symm
  rw [fld, width, Nat.mod_mul_right_div_self]

/-- A field above the one written stays. -/
theorem fld_setField_above {hi lo v h l : Nat} (w : Word) (order : lo ≤ hi) (inside : hi < 32) (room : v < 2 ^ (hi + 1 - lo)) (above : hi < l) :
    fld (setField w hi lo v).toNat h l = fld w.toNat h l := by
  have width : 2 ^ lo * 2 ^ (hi + 1 - lo) = 2 ^ (hi + 1) := two_pow_mul_two_pow_sub (by omega)
  have upper : (setField w hi lo v).toNat / 2 ^ (hi + 1) = w.toNat / 2 ^ (hi + 1) := by
    rw [toNat_setField w order inside room, ← width, ← Nat.div_div_eq_div_mul, Nat.mul_add_div (Nat.two_pow_pos _),
      Nat.div_eq_of_lt (Nat.mod_lt _ (Nat.two_pow_pos _)), Nat.add_zero, Nat.mul_add_div (Nat.two_pow_pos _), Nat.div_eq_of_lt room,
      Nat.add_zero]
  have split : 2 ^ l = 2 ^ (hi + 1) * 2 ^ (l - (hi + 1)) := (two_pow_mul_two_pow_sub above).symm
  rw [fld, fld, split, ← Nat.div_div_eq_div_mul, ← Nat.div_div_eq_div_mul, upper]

/-- A field below the one written stays. -/
theorem fld_setField_below {hi lo v h l : Nat} (w : Word) (order : lo ≤ hi) (inside : hi < 32) (room : v < 2 ^ (hi + 1 - lo)) (own : l ≤ h)
    (below : h < lo) : fld (setField w hi lo v).toNat h l = fld w.toNat h l := by
  have lower : (setField w hi lo v).toNat % 2 ^ lo = w.toNat % 2 ^ lo := by
    rw [toNat_setField w order inside room, Nat.mul_add_mod, Nat.mod_mod]
  have inner : 2 ^ (h + 1) ∣ 2 ^ lo := Nat.pow_dvd_pow 2 (by omega)
  rw [fld_eq_mod_div _ own, fld_eq_mod_div _ own, ← Nat.mod_mod_of_dvd _ inner, lower, Nat.mod_mod_of_dvd _ inner]

/-! ### Values that wait for the next tick -/

theorem Chip.lastWritten_setNext (o : Nat) (w : Word) : (c.setNext o w).lastWritten o = w := by
  simp [Chip.lastWritten, Chip.setNext]

theorem Chip.lastWritten_of_calm (h : x.calm = y.calm) {o : Nat} (ho : eventReg o = false) : x.lastWritten o = y.lastWritten o := by
  unfold Chip.lastWritten
  rw [Chip.regNext_of_calm h, Chip.reg_of_calm h o ho]

/-- The unit differs in a register's value for the next tick at most, and in what events change. -/
def Chip.onlyNext (c : Chip) (o : Nat) (d : Chip) : Prop :=
  d.calm = { c.calm with regNext := d.regNext } ∧ ∀ k, k ≠ o → tget d.regNext k = tget c.regNext k

theorem Chip.onlyNext_of_calm (h : d.calm = c.calm) (o : Nat) : c.onlyNext o d := by
  have next : d.regNext = c.regNext := Chip.regNext_of_calm h
  unfold Chip.onlyNext
  rw [h, next]
  exact ⟨rfl, fun _ _ => rfl⟩

theorem Chip.onlyNext_setNext (o : Nat) (w : Word) : c.onlyNext o (c.setNext o w) :=
  ⟨rfl, fun _ other => tget_tset_ne c.regNext (some w) other⟩

theorem Chip.onlyNext.trans {o : Nat} {e : Chip} (h : c.onlyNext o d) (k : d.onlyNext o e) : c.onlyNext o e := by
  obtain ⟨hd, dn⟩ := h
  obtain ⟨he, en⟩ := k
  exact ⟨by rw [he, hd], fun k other => (en k other).trans (dn k other)⟩

theorem Chip.onlyNext.plan {o : Nat} (h : c.onlyNext o d) : d.plan = c.plan := (congrArg Chip.plan h.1 : d.calm.plan = _)

/-! ### Limits (R342, R343) -/

@[simp] theorem Chip.noteLimit_calm (off : Nat) (val : Word) (v : LimVerdict) : (c.noteLimit off val v).calm = c.calm := by
  cases v
  · rfl
  all_goals exact Chip.note_calm _ _ _ _ _

/-- A field of a limit register is written where its verdict takes it; else the write of it is logged. -/
def Chip.limitField (off : Nat) (val : Word) (c : Chip) (f : LimField) : Chip :=
  if c.limInt f val = .take then c.setNext off (setField (c.lastWritten off) f.hi f.lo (fld val.toNat f.hi f.lo))
  else c.noteLimit off val (c.limInt f val)

/-- The limit fields of a register. -/
def limFieldsOf (off : Nat) : List LimField := limFields.filter fun f => f.off == off

theorem Chip.limitWrite_int {off : Nat} (int : off = 0x140 ∨ off = 0x144) (val : Word) :
    c.limitWrite off val =
      (limFieldsOf off).foldl (Chip.limitField off val) (c.noteRsvd off (if off = 0x140 then 0x1F else 0xFFFFE000) val) := by
  unfold Chip.limitWrite
  rw [if_pos int]
  refine congrArg (fun g => (limFieldsOf off).foldl g _) (funext fun c => funext fun f => ?_)
  unfold Chip.limitField
  cases c.limInt f val <;> rfl

theorem Chip.limitWrite_fp {off : Nat} (fp : off ∈ [0x148, 0x14C, 0x150, 0x154, 0x158]) (val : Word) :
    c.limitWrite off val = let v := c.limFp off val (c.lastWritten (limPartner off))
      if v = .take then c.setNext off val else c.noteLimit off val v := by
  have notInt : ¬ (off = 0x140 ∨ off = 0x144) := by
    rintro (rfl | rfl) <;> revert fp <;> decide
  unfold Chip.limitWrite
  rw [if_neg notInt, if_pos (List.contains_iff_mem.mpr fp)]
  cases c.limFp off val (c.lastWritten (limPartner off)) <;> rfl

theorem Chip.limitWrite_other {off : Nat} (notInt : ¬ (off = 0x140 ∨ off = 0x144)) (notFp : off ∉ [0x148, 0x14C, 0x150, 0x154, 0x158])
    (val : Word) : c.limitWrite off val = c := by
  unfold Chip.limitWrite
  rw [if_neg notInt, if_neg (by rwa [List.contains_iff_mem])]

theorem Chip.limitField_onlyNext (off : Nat) (val : Word) (f : LimField) : c.onlyNext off (c.limitField off val f) := by
  unfold Chip.limitField
  split
  · exact Chip.onlyNext_setNext _ _
  · exact Chip.onlyNext_of_calm (Chip.noteLimit_calm _ _ _) _

theorem Chip.limitField_lastWritten {off : Nat} (ho : eventReg off = false) (val : Word) (f : LimField) :
    (c.limitField off val f).lastWritten off =
      if c.limInt f val = .take then setField (c.lastWritten off) f.hi f.lo (fld val.toNat f.hi f.lo) else c.lastWritten off := by
  unfold Chip.limitField
  split
  · exact Chip.lastWritten_setNext _ _
  · exact Chip.lastWritten_of_calm (Chip.noteLimit_calm _ _ _) ho

/-- Two fields have no bit in common. -/
abbrev LimField.apart (f g : LimField) : Prop := f.hi < g.lo ∨ g.hi < f.lo

/-- A field lies within a register. -/
abbrev LimField.inWord (f : LimField) : Prop := f.lo ≤ f.hi ∧ f.hi < 32

theorem fld_lt (n hi lo : Nat) : fld n hi lo < 2 ^ (hi + 1 - lo) := Nat.mod_lt _ (Nat.two_pow_pos _)

/-- A field's write leaves the other fields of the register alone. -/
theorem Chip.limitField_apart {off : Nat} (ho : eventReg off = false) (val : Word) {f g : LimField} (hf : f.inWord) (hg : g.inWord)
    (apart : f.apart g) :
    fld ((c.limitField off val f).lastWritten off).toNat g.hi g.lo = fld (c.lastWritten off).toNat g.hi g.lo := by
  rw [Chip.limitField_lastWritten ho]
  split
  · rcases apart with below | above
    · exact fld_setField_above _ hf.1 hf.2 (fld_lt _ _ _) below
    · exact fld_setField_below _ hf.1 hf.2 (fld_lt _ _ _) hg.1 above
  · rfl

/-- A field is judged against its own last value and the plans (R343). -/
theorem Chip.limInt_congr {f : LimField} (val : Word) (plan : x.plan = y.plan)
    (own : fld (x.lastWritten f.off).toNat f.hi f.lo = fld (y.lastWritten f.off).toNat f.hi f.lo) : x.limInt f val = y.limInt f val := by
  have phases : x.maxNphase = y.maxNphase := by
    unfold Chip.maxNphase
    rw [plan]
  unfold Chip.limInt
  rw [own, phases]

theorem Chip.limInt_of_calm (h : x.calm = y.calm) {f : LimField} (ho : eventReg f.off = false) (val : Word) : x.limInt f val = y.limInt f val :=
  Chip.limInt_congr val (Chip.plan_of_calm h) (by rw [Chip.lastWritten_of_calm h ho])

theorem Chip.foldl_limitField_onlyNext (off : Nat) (val : Word) (fs : List LimField) (c : Chip) :
    c.onlyNext off (fs.foldl (Chip.limitField off val) c) := by
  induction fs generalizing c with
  | nil => exact Chip.onlyNext_of_calm rfl off
  | cons f r ih => exact (Chip.limitField_onlyNext off val f).trans (ih _)

theorem Chip.foldl_limitField_apart {off : Nat} (ho : eventReg off = false) (val : Word) {g : LimField} (hg : g.inWord) (fs : List LimField)
    (hfs : ∀ f ∈ fs, f.inWord ∧ f.apart g) (c : Chip) :
    fld ((fs.foldl (Chip.limitField off val) c).lastWritten off).toNat g.hi g.lo = fld (c.lastWritten off).toNat g.hi g.lo := by
  induction fs generalizing c with
  | nil => rfl
  | cons f r ih =>
    obtain ⟨hf, apart⟩ := hfs f List.mem_cons_self
    exact (ih (fun e he => hfs e (List.mem_cons_of_mem _ he)) _).trans (Chip.limitField_apart ho val hf hg apart)

/-- Each field of a write is taken or kept on its own, as it is judged in the unit that the write finds (R343). -/
theorem Chip.foldl_limitField_fld {off : Nat} (ho : eventReg off = false) (val : Word) (fs : List LimField)
    (hfs : ∀ f ∈ fs, f.inWord ∧ f.off = off) (apart : fs.Pairwise LimField.apart) (c : Chip) :
    ∀ f ∈ fs, fld ((fs.foldl (Chip.limitField off val) c).lastWritten off).toNat f.hi f.lo =
      if c.limInt f val = .take then fld val.toNat f.hi f.lo else fld (c.lastWritten off).toNat f.hi f.lo := by
  induction fs generalizing c with
  | nil => exact fun _ h => absurd h List.not_mem_nil
  | cons g r ih =>
    obtain ⟨first, rest⟩ := List.pairwise_cons.mp apart
    obtain ⟨hg, -⟩ := hfs g List.mem_cons_self
    have hr : ∀ f ∈ r, f.inWord ∧ f.off = off := fun f hf => hfs f (List.mem_cons_of_mem _ hf)
    intro f hf
    rw [List.foldl_cons]
    rcases List.mem_cons.mp hf with rfl | later
    · rw [Chip.foldl_limitField_apart ho val hg r fun e he => ⟨(hr e he).1, (first e he).symm⟩, Chip.limitField_lastWritten ho]
      split
      · exact fld_setField_same _ hg.1 hg.2 (fld_lt _ _ _)
      · rfl
    · obtain ⟨hf, at_⟩ := hr f later
      have own := Chip.limitField_apart (c := c) ho val hg hf (first f later)
      have verdict : (c.limitField off val g).limInt f val = c.limInt f val :=
        Chip.limInt_congr val (Chip.limitField_onlyNext off val g).plan (by rw [at_]; exact own)
      rw [ih hr rest _ f later, verdict, own]

/-- The fields of the limit registers: in words 0x140 and 0x144, no two of one register with a common bit. -/
theorem limFields_shape : (∀ f ∈ limFields, f.inWord ∧ (f.off = 0x140 ∨ f.off = 0x144))
    ∧ limFields.Pairwise fun f g => f.off = g.off → f.apart g := by decide

theorem mem_limFieldsOf {off : Nat} {f : LimField} : f ∈ limFieldsOf off ↔ f ∈ limFields ∧ f.off = off := by
  simp [limFieldsOf]

theorem limFieldsOf_apart (off : Nat) : (limFieldsOf off).Pairwise LimField.apart :=
  (limFields_shape.2.filter _).imp_of_mem fun hf hg apart =>
    apart ((mem_limFieldsOf.mp hf).2.trans (mem_limFieldsOf.mp hg).2.symm)

theorem Chip.limitWrite_onlyNext (off : Nat) (val : Word) : c.onlyNext off (c.limitWrite off val) := by
  by_cases int : off = 0x140 ∨ off = 0x144
  · rw [Chip.limitWrite_int int]
    exact (Chip.onlyNext_of_calm (Chip.noteRsvd_calm _ _ _) off).trans (Chip.foldl_limitField_onlyNext _ _ _ _)
  · by_cases fp : off ∈ [0x148, 0x14C, 0x150, 0x154, 0x158]
    · rw [Chip.limitWrite_fp fp]
      dsimp only
      split
      · exact Chip.onlyNext_setNext _ _
      · exact Chip.onlyNext_of_calm (Chip.noteLimit_calm _ _ _) _
    · rw [Chip.limitWrite_other int fp]
      exact Chip.onlyNext_of_calm rfl off

/-- An integer field of a limit after a write by a controller (R343). -/
theorem Chip.limitWrite_fld {f : LimField} (hf : f ∈ limFields) (val : Word) :
    fld ((c.limitWrite f.off val).lastWritten f.off).toNat f.hi f.lo =
      if c.limInt f val = .take then fld val.toNat f.hi f.lo else fld (c.lastWritten f.off).toNat f.hi f.lo := by
  have int := (limFields_shape.1 f hf).2
  have ho : eventReg f.off = false := by rcases int with h | h <;> rw [h] <;> decide
  have start := Chip.noteRsvd_calm (c := c) f.off (if f.off = 0x140 then 0x1F else 0xFFFFE000) val
  have shape : ∀ g ∈ limFieldsOf f.off, g.inWord ∧ g.off = f.off := fun g hg => by
    obtain ⟨listed, at_⟩ := mem_limFieldsOf.mp hg
    exact ⟨(limFields_shape.1 g listed).1, at_⟩
  rw [Chip.limitWrite_int int, Chip.foldl_limitField_fld ho val _ shape (limFieldsOf_apart _) _ f (mem_limFieldsOf.mpr ⟨hf, rfl⟩),
    Chip.limInt_of_calm start ho, Chip.lastWritten_of_calm start ho]

/-- An FP32 limit after a write by a controller (R343). -/
theorem Chip.limitWrite_lastWritten_fp {off : Nat} (fp : off ∈ [0x148, 0x14C, 0x150, 0x154, 0x158]) (val : Word) :
    (c.limitWrite off val).lastWritten off =
      if c.limFp off val (c.lastWritten (limPartner off)) = .take then val else c.lastWritten off := by
  have ho : eventReg off = false := by
    have all : ∀ o ∈ [0x148, 0x14C, 0x150, 0x154, 0x158], eventReg o = false := by decide
    exact all off fp
  rw [Chip.limitWrite_fp fp]
  dsimp only
  split
  · exact Chip.lastWritten_setNext _ _
  · exact Chip.lastWritten_of_calm (Chip.noteLimit_calm _ _ _) ho

/-- Limits that a controller writes. -/
theorem limitWritesPart : LimitWritesPart := by
  unfold LimitWritesPart
  intro off val s
  refine ⟨fun held => ?_, fun out => ?_⟩
  · show Host.Outcome.next { s with unit := if s.unit.clk.held then s.unit else s.unit.limitWrite off.toNat val } = _
    rw [if_pos held]
  · obtain ⟨calm, others⟩ := Chip.limitWrite_onlyNext (c := s.unit) off.toNat val
    refine ⟨{ s with unit := s.unit.limitWrite off.toNat val }, ?_, rfl, calm, others, fun f hf at_ => ?_, fun fp => ?_⟩
    · show Host.Outcome.next { s with unit := if s.unit.clk.held then s.unit else s.unit.limitWrite off.toNat val } = _
      rw [if_neg (by simp [out])]
    · rw [← at_]
      exact Chip.limitWrite_fld hf val
    · exact Chip.limitWrite_lastWritten_fp fp val

/-- Settles O48: a write goes to its region of the window; there a row, a rule of the register's own or a limit's verdicts say what
changes, and what it logs changes the rest of the unit in its events alone. -/
theorem registerWrites : Obligations.RegisterWrites := ⟨writePart, specialWritesPart, limitWritesPart⟩

end Sys2Proof.Machine
end
